-- ==== Sys2Proof/Word.lean ====
section
/-! DEFINITION. Bytes, byte strings, sparse maps and memories of the Farith RE-480 block model. -/
namespace Sys2Proof

/-- A byte of memory, of a register image or of a message. -/
abbrev Byte := BitVec 8

/-- A byte string in address order: element 0 is the byte at the lowest address (R6). -/
abbrev Bytes := List Byte

/-- A sparse map from a number (an instance, an address, a tag) to a value: keys strictly rising, and
no key whose value is the map's default (`Machine.mapWf`). -/
abbrev SMap (α : Type) := List (Nat × α)

/-- A byte memory: an unlisted address reads as zero. -/
abbrev Memory := SMap Byte

/-- A 64-bit scalar register value. -/
abbrev Word := BitVec 64

/-- A 1,024-byte vector register value (R202); byte 0 is bits [7:0]. -/
abbrev Vec := BitVec 8192

end Sys2Proof
end

