-- ==== Sys2Proof/Syntax.lean ====
section
/-! DEFINITION. The commands of the block: the one inductive `Instr`, and the operand types its rows carry. -/
namespace Sys2Proof

/-- What a target outside the block (host memory, a remote device) returned for a read: its bytes in address order,
and whether they came poisoned. Read only where the target lies outside the device. -/
structure ExtData where
  bytes  : Bytes := []
  poison : Bool := false
  deriving DecidableEq, Repr

/-- The CXL.cache host-to-device snoops (R328). -/
inductive SnoopKind where
  | inv | data | cur
  deriving DecidableEq, Repr

/-- The rows of Table 11.5: a host's CXL.mem request, at a host physical address of its window. -/
inductive HdmReq where
  /-- MemRd with MetaValue A (exclusive). -/
  | rdA (hpa : BitVec 64)
  /-- MemRd with MetaValue S. -/
  | rdS (hpa : BitVec 64)
  /-- MemRd with MetaValue I, or MemRdData without caching. -/
  | rdI (hpa : BitVec 64)
  /-- A write-back by the exclusive holder: `keep` for MetaValue S, else I. -/
  | wb (hpa : BitVec 64) (data : Bytes) (keep : Bool)
  /-- MemWr without ownership. -/
  | wr (hpa : BitVec 64) (data : Bytes)
  deriving DecidableEq, Repr

/-- A back-invalidate response (R331): whether the host keeps the line shared, and the data it wrote back. -/
structure BiRsp where
  keepShared : Bool := false
  data       : Option Bytes := none
  deriving DecidableEq, Repr

/-- What the controller found in a line read (Table 10.4). -/
inductive Ecc where
  | clean | corrected | uncorrectable
  deriving DecidableEq, Repr

/-- The foreground requests that wait for a bank (R307): none; ones that came after the bank's last background slot had ended; or one
that already waited when it ended and has not been served since. -/
inductive FgWait where
  | none | new | old
  deriving DecidableEq, Repr

/-- What a slice's own tag, data and snoop filter storage showed during an access (Table 17.7, DCA): DATA_UE is of the line
accessed. -/
inductive SliceFinding where
  | clean | tagCe | dataUe | tagUe | snfUe
  deriving DecidableEq, Repr

/-- What the MTU's storage showed during a walk step (Table 17.7, MTU). -/
inductive WalkFinding where
  | clean | tlbUe | ownerTagUe
  deriving DecidableEq, Repr

/-- What the session unit's storage showed during a lookup (Table 17.7, HSEs and SSU). -/
inductive SsuFinding where
  | clean | drawerUe | ssuUe
  deriving DecidableEq, Repr

/-- What the host's enumeration of a port sets in configuration space (R394, R402): Bus Master Enable, CXL.cache, CXL.mem, IDE,
MSI-X, the number of MSI messages (0: MSI disabled), and ROM_OFFSET of the Svetpa DVSEC in units of 4 bytes (R396). -/
structure HostCfg where
  bme   : Bool := false
  cache : Bool := false
  mem   : Bool := false
  ide   : Bool := false
  msix  : Bool := false
  msi   : Nat := 0
  rom   : BitVec 30 := 0
  deriving DecidableEq, Repr

/-- What brought about HLx (R416). -/
inductive LinkResetCause where
  | linkDown | hotReset | perst
  deriving DecidableEq, Repr

/-- The SPDM requests that the DOE mailbox serves (R397). -/
inductive SpdmReq where
  | getVersion | getCapabilities | negotiateAlgorithms | getDigests | getCertificate | setCertificate | challenge
  | getMeasurements | keyExchange | finish | endSession
  deriving DecidableEq, Repr

/-- A request of the DOE mailbox (R397, R398). -/
inductive DoeReq where
  | spdm (req : SpdmReq) (body : Bytes)
  | ideKm (body : Bytes)
  | cdat
  deriving DecidableEq, Repr

/-- One message header with its payload (Table 15.3). `poison` is POISON of a response, or the mark of a write that carries
poison (R440). -/
structure FabMsg where
  dst     : BitVec 16 := 0
  src     : BitVec 16 := 0
  op      : BitVec 4 := 0
  dl      : Bool := false
  len     : Nat := 0
  tag     : BitVec 17 := 0
  sent    : BitVec 12 := 0
  addr    : BitVec 48 := 0
  rsv     : Bool := false
  poison  : Bool := false
  payload : Bytes := []
  deriving DecidableEq, Repr

/-- A received flit (Tables 15.2, R426): whether code and CRC passed, its control field, the lanes of the symbols that the code corrected
(R434), and the messages that end in it. -/
structure Flit where
  ok   : Bool := true
  kind : BitVec 2 := 0
  seq  : BitVec 12 := 0
  ack  : BitVec 12 := 0
  craVc : BitVec 3 := 0
  cra  : Nat := 0
  crbVc : BitVec 3 := 0
  crb  : Nat := 0
  corrected : List (Fin 8) := []
  msgs : List FabMsg := []
  deriving DecidableEq, Repr

/-- The generated clocks of Table 16.1 with a request and acknowledge pair. -/
inductive Clock where
  | arith | mesh | mgt | time
  | hmc (n : Fin 8)
  | cmc (n : Fin 12)
  deriving DecidableEq, Repr

/-- The wake sources of R469. -/
inductive WakeSource where
  | doorbell | mailbox | cxlMem | cxlCache | fabric | dictO | dictF | ringTail | armedSet | capPoint | tolLat | idleCfg
  | cabinet (c : Fin 12)
  deriving DecidableEq, Repr

/-- The transfer that MATCHING_TRANSFER_CANCEL cancels (R385): a remote store of a tile whose tag has completed, a line of a GPE or an
HSE, a batch's access. -/
inductive CancelUnit where
  | store (t : Fin 96) (id : Nat)
  | gpe (g : Fin 48) (tag : Nat)
  | hse (c : Fin 12) (tag : Nat)
  | epm (ring : Fin 8)
  | ssu (ring : Fin 8)
  deriving DecidableEq, Repr

/-- The block's commands: one constructor per row of spec/opcode_table.json. A row that a unit takes on its own
(a fetch, a pick, a firing) names only the unit; what it reads is in the state. The rows with operands stand first. -/
inductive Instr where
  /-- MBX_DOORBELL (R40). -/
  | mbxDoorbell (port : Fin 2) (value : BitVec 32)
  /-- O_PATH_REQUEST (R41). -/
  | oPathRequest (mctpTag : Nat) (msg : Bytes)
  /-- F_PATH_REQUEST (R42). -/
  | fPathRequest (node : BitVec 16) (msg : Bytes)
  /-- DICT_READ (R39). -/
  | dictRead (found : Ecc)
  /-- CLAIM_LEASE_EXPIRY (R48). -/
  | claimLeaseExpiry (slot : Fin 16)
  /-- TRESTLE_FIRE (R59). -/
  | trestleFire (slot : Fin 8)
  /-- SQ_TAIL_DOORBELL (R262). -/
  | sqTailDoorbell (port : Fin 2) (queue : Fin 128) (width : Nat) (value : BitVec 32)
  /-- CQ_HEAD_DOORBELL (R262). -/
  | cqHeadDoorbell (port : Fin 2) (queue : Fin 128) (width : Nat) (value : BitVec 32)
  /-- DESCRIPTOR_FETCH (R265). -/
  | descriptorFetch (q : Fin 256)
  /-- DESCRIPTOR_READ_RETURN (R264). -/
  | descriptorReadReturn (q : Fin 256)
  /-- DESCRIPTOR_REREAD (R266). -/
  | descriptorReread (q : Fin 256)
  /-- QUEUE_STALL (R266). -/
  | queueStall (q : Fin 256)
  /-- REQUEST_POLICE (R276). -/
  | requestPolice (q : Fin 256) (found : Ecc)
  /-- REQUEST_BIND (R246). -/
  | requestBind (cab : Fin 12) (prog : Fin 64)
  /-- REQUEST_RECORD_ACK (R272). -/
  | requestRecordAck (req : Nat)
  /-- TASK_COMPLETE (R249). -/
  | taskComplete (req : Nat)
  /-- COMPLETION_WRITE (R268). -/
  | completionWrite (q : Fin 256)
  /-- COMPLETION_WRITE_ACK (R268). -/
  | completionWriteAck (q : Fin 256)
  /-- REQUEST_END (R163). -/
  | requestEnd (req : Nat)
  /-- SESSION_BIND (R175). -/
  | sessionBind (req : Nat) (found : SsuFinding)
  /-- DRAWER_RELOAD (R177). -/
  | drawerReload (key : BitVec 64)
  /-- EV_BATCH_START (R183). -/
  | evBatchStart
  /-- EV_RING_REREAD (R147). -/
  | evRingReread (ring : Fin 8)
  /-- EV_RING_STALL (R147). -/
  | evRingStall (ring : Fin 8)
  /-- EVENT_APPEND (R185). -/
  | eventAppend (ring : Fin 8)
  /-- SESSION_END_APPLY (R188). -/
  | sessionEndApply (ring : Fin 8)
  /-- EV_BATCH_COMPLETE (R184). -/
  | evBatchComplete (ring : Fin 8)
  /-- SESSION_EXPIRE (R189). -/
  | sessionExpire (key : BitVec 64)
  /-- SUMMARY_REBUILD (R190). -/
  | summaryRebuild (key : BitVec 64) (block : Nat)
  /-- HSE_SCAN_ACCEPT (R191). -/
  | hseScanAccept (cab : Fin 12)
  /-- HSE_SCAN_START (R191). -/
  | hseScanStart (cab : Fin 12)
  /-- HSE_LINE_ARRIVE (R192). -/
  | hseLineArrive (cab : Fin 12) (tag : Nat) (found : Ecc)
  /-- HSE_SCAN_COMPLETE (R193). -/
  | hseScanComplete (cab : Fin 12)
  /-- EPM_BATCH_START (R146). -/
  | epmBatchStart
  /-- RING_REREAD (R147). -/
  | ringReread (ring : Fin 8)
  /-- RING_STALL (R147). -/
  | ringStall (ring : Fin 8)
  /-- BATCH_ROW_APPLY (R152). -/
  | batchRowApply (ring : Fin 8)
  /-- BATCH_COMPLETE (R148). -/
  | batchComplete (ring : Fin 8)
  /-- EPOCH_REFUSED_RECEIVE (R160). -/
  | epochRefusedReceive (payload : Bytes)
  /-- DRAIN_COMPLETE (R163). -/
  | drainComplete (table : Fin 4096)
  /-- COMPACTION_STEP (R165). -/
  | compactionStep (table : Fin 4096)
  /-- COMPACTION_END (R166). -/
  | compactionEnd (table : Fin 4096)
  /-- DISCARD_SWEEP_END (R168). -/
  | discardSweepEnd (table : Fin 4096)
  /-- GPE_COMMAND_ENQUEUE (R108). -/
  | gpeCommandEnqueue (gpe : Fin 48)
  /-- GATHER_COMMAND_START (R109). -/
  | gatherCommandStart (gpe : Fin 48)
  /-- GPE_LINE_READ_ISSUE (R97). -/
  | gpeLineReadIssue (gpe : Fin 48)
  /-- GPE_LINE_ARRIVE (R115). -/
  | gpeLineArrive (gpe : Fin 48) (tag : Nat) (found : Ecc)
  /-- GATHER_COMMAND_COMPLETE (R108). -/
  | gatherCommandComplete (gpe : Fin 48)
  /-- PD_REQUEST_SEND (R120). -/
  | pdRequestSend (gpe : Fin 48)
  /-- PD_REQUEST_ARRIVE (R127). -/
  | pdRequestArrive (msg : Nat)
  /-- PD_RESPONSE_RECEIVE (R122). -/
  | pdResponseReceive (msg : Nat)
  /-- PD_SLOT_TIMEOUT (R126). -/
  | pdSlotTimeout (gpe : Fin 48) (slot : Nat)
  /-- MMA (R205). -/
  | mma (tile : Fin 96)
  /-- MMA_COMPLETE (R206). -/
  | mmaComplete (tile : Fin 96) (residueOk : Bool)
  /-- VADD_VSUB_VMUL_VFMA (R207). -/
  | vaddVsubVmulVfma (tile : Fin 96)
  /-- VMIN_VMAX (R207). -/
  | vminVmax (tile : Fin 96)
  /-- VCMPEQ_VCMPLT_VCMPLE (R207). -/
  | vcmpeqVcmpltVcmple (tile : Fin 96)
  /-- VSEL_VMOV_VBCAST (R207). -/
  | vselVmovVbcast (tile : Fin 96)
  /-- VRCP_VRSQ_VSQRT_VEXP2_VLOG2 (R208). -/
  | vrcpVrsqVsqrtVexp2Vlog2 (tile : Fin 96)
  /-- VREDADD_VREDMAX (R209). -/
  | vredaddVredmax (tile : Fin 96)
  /-- CVT (R81). -/
  | cvt (tile : Fin 96)
  /-- TNARROW (R88). -/
  | tnarrow (tile : Fin 96)
  /-- TWIDEN (R89). -/
  | twiden (tile : Fin 96)
  /-- HIST_RD (R92). -/
  | histRd (tile : Fin 96)
  /-- HIST_CLR (R92). -/
  | histClr (tile : Fin 96)
  /-- STREAM_OP_COMPLETE (R210). -/
  | streamOpComplete (tile : Fin 96)
  /-- VLD (R213). -/
  | vld (tile : Fin 96) (found : Ecc)
  /-- VST (R213). -/
  | vst (tile : Fin 96)
  /-- LD (R216). -/
  | ld (tile : Fin 96)
  /-- ST (R216). -/
  | st (tile : Fin 96)
  /-- LDS (R216). -/
  | lds (tile : Fin 96)
  /-- STS (R216). -/
  | sts (tile : Fin 96)
  /-- LDP (R216). -/
  | ldp (tile : Fin 96)
  /-- STP (R216). -/
  | stp (tile : Fin 96)
  /-- LDR (R354). -/
  | ldr (tile : Fin 96)
  /-- STC (R357). -/
  | stc (tile : Fin 96)
  /-- FETCH_ATOMIC (R217). -/
  | fetchAtomic (tile : Fin 96)
  /-- ACAS (R216). -/
  | acas (tile : Fin 96)
  /-- GPOST (R218). -/
  | gpost (tile : Fin 96)
  /-- HPOST (R218). -/
  | hpost (tile : Fin 96)
  /-- BAR_L (R352). -/
  | barL (tile : Fin 96)
  /-- BAR_S (R352). -/
  | barS (tile : Fin 96)
  /-- BAR_A (R352). -/
  | barA (tile : Fin 96)
  /-- XFU_TRANSFER_ISSUE (R352). -/
  | xfuTransferIssue (tile : Fin 96)
  /-- XFER_COMPLETE (R221). -/
  | xferComplete (tile : Fin 96) (tag : Nat)
  /-- XFER_TIMEOUT (R223). -/
  | xferTimeout (tile : Fin 96) (tag : Nat)
  /-- RESERVATION_TIMEOUT (R354). -/
  | reservationTimeout (tile : Fin 96) (ctx : Fin 17)
  /-- ADD_SUB_MUL (R224). -/
  | addSubMul (tile : Fin 96)
  /-- AND_OR_XOR (R224). -/
  | andOrXor (tile : Fin 96)
  /-- SHL_SHR_SRA (R224). -/
  | shlShrSra (tile : Fin 96)
  /-- SLT_SLTU (R224). -/
  | sltSltu (tile : Fin 96)
  /-- SEL (R224). -/
  | sel (tile : Fin 96)
  /-- ADDI (R224). -/
  | addi (tile : Fin 96)
  /-- SHORI (R224). -/
  | shori (tile : Fin 96)
  /-- XLANE (R224). -/
  | xlane (tile : Fin 96)
  /-- WAIT (R226). -/
  | waitGrp (tile : Fin 96)
  /-- END (R247). -/
  | endSeg (tile : Fin 96)
  /-- GTCR (R224). -/
  | gtcr (tile : Fin 96)
  /-- CSRR (R224). -/
  | csrr (tile : Fin 96)
  /-- CONTEXT_PICK (R250). -/
  | contextPick (tile : Fin 96) (found : Ecc)
  /-- CONTEXT_RELEASE (R229). -/
  | contextRelease (tile : Fin 96) (ctx : Fin 17)
  /-- TRAP_START (R230). -/
  | trapStart (tile : Fin 96)
  /-- SPARE_CHECK_END (R233). -/
  | spareCheckEnd (pass : Bool)
  /-- PROG_LOAD_DONE (R242). -/
  | progLoadDone
  /-- SLICE_ACCESS (R318). -/
  | sliceAccess (slice : Fin 16) (found : SliceFinding)
  /-- MISS_FILL_RETURN (R321). -/
  | missFillReturn (slice : Fin 16) (fill : Nat) (whole : Bool)
  /-- VICTIM_WRITEBACK_DONE (R323). -/
  | victimWritebackDone (slice : Fin 16) (key : Nat)
  /-- HOST_SNOOP (R328). -/
  | hostSnoop (port : Fin 2) (addr : BitVec 64) (kind : SnoopKind)
  /-- HOST_CACHE_RESPONSE (R327). -/
  | hostCacheResponse (port : Fin 2) (id : Nat) (ext : ExtData)
  /-- HDM_HOST_REQUEST (R330). -/
  | hdmHostRequest (port : Fin 2) (req : HdmReq)
  /-- BIRSP_RECEIVE (R331). -/
  | birspReceive (port : Fin 2) (line : Nat) (rsp : BiRsp)
  /-- BI_TIMEOUT (R334). -/
  | biTimeout (port : Fin 2) (line : Nat)
  /-- DCA_INVALIDATE_DONE (R324). -/
  | dcaInvalidateDone (slice : Fin 16)
  /-- LINE_READ_RETURN (R301). -/
  | lineReadReturn (ctl : Fin 20) (id : Nat) (ecc : Ecc)
  /-- CARVE_TAG_RETURN (R294). -/
  | carveTagReturn (id : Nat) (ecc : Ecc)
  /-- REF_DUE (R308). -/
  | refDue (ctl : Fin 20) (bank : Nat) (fg : FgWait)
  /-- BG_SLOT_START (R307). -/
  | bgSlotStart (ctl : Fin 20) (bank : Nat) (fg : FgWait) (makeup : Option (Fin 6))
  /-- BG_SLOT_END (R307). -/
  | bgSlotEnd (ctl : Fin 20) (bank : Nat)
  /-- PHY_RECAL_DUE (R312). -/
  | phyRecalDue (ctl : Fin 20) (part : Nat) (ok : Bool)
  /-- WALK_STEP (R369). -/
  | walkStep (walker : Fin 64) (found : WalkFinding)
  /-- ATS_RESPONSE (R371). -/
  | atsResponse (port : Fin 2) (acid : Fin 4096) (iova : BitVec 64) (target : BitVec 64) (read : Bool) (write : Bool)
  /-- FAULT_BATCH_WRITE (R380). -/
  | faultBatchWrite (port : Fin 2)
  /-- FAULT_BATCH_PERFORMED (R380). -/
  | faultBatchPerformed (port : Fin 2)
  /-- INVALIDATION_COMPLETE (R386). -/
  | invalidationComplete (slot : Fin 8)
  /-- ATS_INVALIDATE_REQUEST (R387). -/
  | atsInvalidateRequest (port : Fin 2) (pasid : Option (BitVec 20)) (lo : BitVec 64) (bytes : Nat)
  /-- FLR (R413). -/
  | flr (port : Fin 2)
  /-- FLR_DONE (R413). -/
  | flrDone (port : Fin 2)
  /-- HOST_LINK_RESET (R416). -/
  | hostLinkReset (port : Fin 2) (cause : LinkResetCause)
  /-- LOST_WRITE_LOG_APPEND (R417). -/
  | lostWriteLogAppend (port : Fin 2)
  /-- HOST_LINK_UP (R474). -/
  | hostLinkUp (port : Fin 2) (rate : Fin 5) (width : Nat) (flit : Fin 3) (cfg : HostCfg)
  /-- LINK_RECOVERY (R415). -/
  | linkRecovery (port : Fin 2) (replays : Nat) (ideFailed : Bool)
  /-- BUS_MASTER_ENABLE_CLEAR (R414). -/
  | busMasterEnableClear (port : Fin 2)
  /-- D3HOT_ENTRY (R470). -/
  | d3hotEntry (port : Fin 2) (pmeEn : Bool)
  /-- D0_RETURN (R470). -/
  | d0Return (port : Fin 2) (pmeEn : Bool)
  /-- HDM_DECODER_COMMIT (R403). -/
  | hdmDecoderCommit (port : Fin 2) (base : BitVec 64) (size : Nat) (ways : Nat)
  /-- STAGING_APERTURE_WRITE (R408). -/
  | stagingApertureWrite (port : Fin 2) (offset : BitVec 32) (data : Bytes)
  /-- STAGING_APERTURE_READ (R409). -/
  | stagingApertureRead (port : Fin 2) (offset : BitVec 32) (len : Nat)
  /-- HDM_MOVE_RECALL_DONE (R406). -/
  | hdmMoveRecallDone (port : Fin 2)
  /-- HDM_MOVE_COPY_STEP (R406). -/
  | hdmMoveCopyStep (port : Fin 2)
  /-- MSIX_VECTOR_UNMASK (R402). -/
  | msixVectorUnmask (port : Fin 2) (vector : Fin 256)
  /-- SPDM_REQUEST (R397). -/
  | spdmRequest (port : Fin 2) (req : DoeReq)
  /-- PME_TURN_OFF (R471). -/
  | pmeTurnOff (port : Fin 2)
  /-- FLIT_RECEIVE (R432). -/
  | flitReceive (port : Fin 6) (flit : Flit) (found : Ecc)
  /-- FLIT_ACK_DUE (R432). -/
  | flitAckDue (port : Fin 6)
  /-- LINK_RETRAIN (R433). -/
  | linkRetrain (port : Fin 6)
  /-- RETRAIN_LIMIT_EXPIRY (R433). -/
  | retrainLimitExpiry (port : Fin 6)
  /-- LANE_LOSS_OF_LOCK (R434). -/
  | laneLossOfLock (port : Fin 6) (lane : Fin 8)
  /-- LANE_RECAL_DUE (R434). -/
  | laneRecalDue (port : Fin 6)
  /-- GFR_FORWARD (R435). -/
  | gfrForward (msg : Nat) (found : Ecc)
  /-- GFR_STALE_DISCARD (R439). -/
  | gfrStaleDiscard (msg : Nat)
  /-- FABRIC_REQUEST_RECEIVE (R423). -/
  | fabricRequestReceive (msg : Nat)
  /-- FABRIC_RESPONSE_RECEIVE (R440). -/
  | fabricResponseReceive (msg : Nat)
  /-- PORT_DOWN (R437). -/
  | portDown (port : Fin 6)
  /-- LINK_QUERY_RECEIVE (R437). -/
  | linkQueryReceive (src : BitVec 16) (atPort : Fin 6)
  /-- LINK_REPLY_RECEIVE (R437). -/
  | linkReplyReceive (port : Fin 6) (valid : Bool) (seq : BitVec 12)
  /-- FAILOVER_HOLD_EXPIRY (R437). -/
  | failoverHoldExpiry (port : Fin 6)
  /-- LQ_TIMEOUT (R437). -/
  | lqTimeout (port : Fin 6)
  /-- PORT_TRAINED (R455). -/
  | portTrained (port : Fin 6) (node : BitVec 16) (nport : Fin 6) (delay : BitVec 16)
  /-- MGT_BROADCAST_RECEIVE (R444). -/
  | mgtBroadcastReceive (port : Fin 6) (src : BitVec 16) (subtype : BitVec 8) (payload : Bytes)
  /-- SYNC (R448). -/
  | syncSend (port : Fin 6)
  /-- SYNC_RECEIVE (R448). -/
  | syncReceive (port : Fin 6) (t1 : BitVec 64) (t2 : BitVec 64)
  /-- DELAY_REQ_RECEIVE (R448). -/
  | delayReqReceive (port : Fin 6) (t4 : BitVec 64)
  /-- DELAY_RSP_RECEIVE (R448). -/
  | delayRspReceive (port : Fin 6) (t4 : BitVec 64) (hops : Nat) (gm : BitVec 16)
  /-- ATTN_BUTTON_PRESS (R454). -/
  | attnButtonPress (port : Fin 6)
  /-- PRESENCE_CHANGE (R454). -/
  | presenceChange (port : Fin 6) (present : Bool)
  /-- PWREN_TRAINING_START (R455). -/
  | pwrenTrainingStart (port : Fin 6)
  /-- VF_LIMIT_CHANGE (R464). -/
  | vfLimitChange (code : BitVec 2)
  /-- THERMAL_LIMIT_CHANGE (R462). -/
  | thermalLimitChange (sensor : Fin 17) (value : BitVec 16)
  /-- CLK_ACK (R480). -/
  | clkAck (clk : Clock)
  /-- CLK_ACK_TIMEOUT (R473). -/
  | clkAckTimeout (clk : Clock)
  /-- CAB_PSW_ACK (R480). -/
  | cabPswAck (sw : Fin 16)
  /-- CAB_PSW_TIMEOUT (R480). -/
  | cabPswTimeout (sw : Fin 16)
  /-- IDLE_ENTRY (R467). -/
  | idleEntry (cab : Fin 12)
  /-- IDLE_ENTRY_COMPLETE (R468). -/
  | idleEntryComplete (cab : Fin 12)
  /-- WAKE (R469). -/
  | wake (source : WakeSource)
  /-- POR (R477). -/
  | por (straps : BitVec 64)
  /-- MAIN_PWRGD_RISE (R473). -/
  | mainPwrgdRise (retained : Bool)
  /-- STARTUP_ROM_CHECK (R473). -/
  | startupRomCheck (ok : Bool)
  /-- TILE_SELFCHECK_DONE (R475). -/
  | tileSelfcheckDone (failed : List (Fin 100))
  /-- SHELF_TRAINING_DONE (R473). -/
  | shelfTrainingDone (lostStack : Option (Fin 8)) (capGiB : List Nat) (ranks : Nat) (failed : List (Fin 20 × Nat))
  /-- PLDM_REQUEST (R481). -/
  | pldmRequest (sensor : Nat)
  /-- UNIT_RESET_END (R497). -/
  | unitResetEnd (unit : Fin 16) (inst : Nat)
  /-- MBX_REQ_WRITE (R40). -/
  | mbxReqWrite (port : Fin 2) (offset : Nat) (data : Bytes)
  /-- COMPLETION_WRITE_RETRY (R377). -/
  | completionWriteRetry (q : Fin 256)
  /-- MATCHING_TRANSFER_CANCEL (R385). -/
  | matchingTransferCancel (unit : CancelUnit)
  /-- THERMAL_WARN (R481). -/
  | thermalWarn (sensor : Fin 17) (value : BitVec 16)
  /-- REACH_NODE_EXPIRY (R445). -/
  | reachNodeExpiry (node : BitVec 16)
  /-- LINK_L1_CHANGE (R466). -/
  | linkL1Change (port : Fin 2) (level : Fin 3)
  /-- DICT_WRITE (R55). -/
  | dictWrite
  /-- DICT_STAGE (R49). -/
  | dictStage
  /-- DICT_COMMIT (R53). -/
  | dictCommit
  /-- DICT_COMMIT_ARMED (R56). -/
  | dictCommitArmed
  /-- DICT_ABORT (R53). -/
  | dictAbort
  /-- DICT_ABORT_ARMED (R61). -/
  | dictAbortArmed
  /-- DICT_CLAIM (R47). -/
  | dictClaim
  /-- DICT_RELEASE (R48). -/
  | dictRelease
  /-- STAGE_LEASE_EXPIRY (R52). -/
  | stageLeaseExpiry
  /-- CLEAR_REFUSALS (R64). -/
  | clearRefusals
  /-- QUEUE_RESUME (R288). -/
  | queueResume
  /-- QUEUE_CLEAR (R288). -/
  | queueClear
  /-- CLASS_CLEAR (R288). -/
  | classClear
  /-- FORCED_ADMISSION_TEST (R464). -/
  | forcedAdmissionTest
  /-- DRAWER_SPILL (R178). -/
  | drawerSpill
  /-- EV_RING_TAIL_WRITE (R183). -/
  | evRingTailWrite
  /-- SSU_CLEAR (R199). -/
  | ssuClear
  /-- SSU_RESUME (R199). -/
  | ssuResume
  /-- SESSION_QUERY (R199). -/
  | sessionQuery
  /-- RING_TAIL_WRITE (R146). -/
  | ringTailWrite
  /-- EPM_FLIP (R156). -/
  | epmFlip
  /-- EPM_DISCARD (R168). -/
  | epmDiscard
  /-- RING_RESUME (R172). -/
  | ringResume
  /-- EPM_RESUME_TABLE (R167). -/
  | epmResumeTable
  /-- PD_PART_START (R121). -/
  | pdPartStart
  /-- GPE_CLEAR (R132). -/
  | gpeClear
  /-- TABLE_CLEAR (R132). -/
  | tableClear
  /-- TILE_SWAP (R231). -/
  | tileSwap
  /-- SWAP_REMAP (R232). -/
  | swapRemap
  /-- TILE_CLEAR (R235). -/
  | tileClear
  /-- NUM_CLEAR (R94). -/
  | numClear
  /-- HIST_CLEAR (R94). -/
  | histClear
  /-- PROG_LOAD (R236). -/
  | progLoad
  /-- PROG_UNLOAD (R259). -/
  | progUnload
  /-- CAB_CLEAR (R259). -/
  | cabClear
  /-- LOCK_RUN (R255). -/
  | lockRun
  /-- LOCK_RUN_END (R256). -/
  | lockRunEnd
  /-- DET_CLEAR (R259). -/
  | detClear
  /-- DCA_ENABLE_WRITE (R325). -/
  | dcaEnableWrite
  /-- DCA_FLUSH_DONE (R325). -/
  | dcaFlushDone
  /-- DCA_INVALIDATE (R324). -/
  | dcaInvalidate
  /-- DCA_CLEAR (R340). -/
  | dcaClear
  /-- COH_CLEAR (R340). -/
  | cohClear
  /-- ORDER_CLEAR (R364). -/
  | orderClear
  /-- PC_SPARE (R304). -/
  | pcSpare
  /-- RANK_SPARE (R304). -/
  | rankSpare
  /-- CARVE_FLUSH (R298). -/
  | carveFlush
  /-- HBM_CLEAR (R314). -/
  | hbmClear
  /-- CAP_CLEAR (R314). -/
  | capClear
  /-- BG_CLEAR (R314). -/
  | bgClear
  /-- WALK_START (R374). -/
  | walkStart
  /-- FQ_HEAD_WRITE (R392). -/
  | fqHeadWrite
  /-- INV_SLOT (R384). -/
  | invSlot
  /-- COUNTER_SWEEP_DUE (R389). -/
  | counterSweepDue
  /-- GRANULE_SET (R376). -/
  | granuleSet
  /-- GRANULE_QUERY (R392). -/
  | granuleQuery
  /-- CTX_FAULT_CLEAR (R392). -/
  | ctxFaultClear
  /-- MTU_CLEAR (R392). -/
  | mtuClear
  /-- HDM_MOVE (R405). -/
  | hdmMove
  /-- PORT_CLEAR (R420). -/
  | portClear
  /-- LOST_CLEAR (R420). -/
  | lostClear
  /-- D3COLD_QUIESCE_DONE (R471). -/
  | d3coldQuiesceDone
  /-- D3C (R471). -/
  | d3c
  /-- LANE_SPARE (R434). -/
  | laneSpare
  /-- ANNOUNCE (R445). -/
  | announce
  /-- HOLDOVER (R449). -/
  | holdover
  /-- TIMEPULSE_IN_EDGE (R451). -/
  | timepulseInEdge
  /-- TIMEPULSE_OUT (R451). -/
  | timepulseOut
  /-- HP_CTL_WRITE (R455). -/
  | hpCtlWrite
  /-- PORT_RESET (R458). -/
  | portReset
  /-- HP_CLEAR (R458). -/
  | hpClear
  /-- GFR_CLEAR (R458). -/
  | gfrClear
  /-- GTC_CLEAR (R458). -/
  | gtcClear
  /-- CAP_POINT_WRITE (R464). -/
  | capPointWrite
  /-- VF_ACK (R463). -/
  | vfAck
  /-- VF_ACK_TIMEOUT (R463). -/
  | vfAckTimeout
  /-- TRIM_RECALIBRATION_DONE (R473). -/
  | trimRecalibrationDone
  /-- SHELF2_FILL_DONE (R476). -/
  | shelf2FillDone
  /-- ALIVE_TOGGLE (R480). -/
  | aliveToggle
  /-- PCS_CLEAR (R483). -/
  | pcsClear
  /-- BLK_RESET (R478). -/
  | blkReset
  /-- BLK_FLUSH_DONE (R478). -/
  | blkFlushDone
  /-- BLK_CARVE_WRITEBACK_DONE (R478). -/
  | blkCarveWritebackDone
  /-- BLK_SHELF_RETRAIN_DONE (R478). -/
  | blkShelfRetrainDone (lostStack : Option (Fin 8)) (lostChan : List (Fin 12)) (failed : List (Fin 20 × Nat))
  /-- CHIP_RESET_REQ (R478). -/
  | chipResetReq
  /-- FAULT_CLEAR (R491). -/
  | faultClear
  /-- CARVE_FLUSH_DONE (R298). -/
  | carveFlushDone
  /-- GRANULE_SET_DONE (R392). -/
  | granuleSetDone
  deriving DecidableEq, Repr

end Sys2Proof
end

