-- ==== Sys2Proof/Decode.lean ====
section
/-! DEFINITION. The block has no instruction words: spec/opcode_table.json gives no row a bit (every row's "fields" list is empty),
so no word spells a command. -/
namespace Sys2Proof

/-- The command that a word of the table's bits spells: none, for no row gives bits (log 1). -/
def decodeTableWord (_nbits _w : Nat) : Option Instr := none

end Sys2Proof
end

