-- ==== Sys2Proof/Config.lean ====
section
/-! DEFINITION. What the implementation fixes and the spec leaves open: the free values. None has a body, so
no proof can rest on the value. -/
namespace Sys2Proof.Config

/-- A free number, drawn with the state's counter `free`: the victim a translation cache gives up (R373 names no
replacement rule), and other choices the spec leaves to the part. Log 6. -/
opaque freeNat : Nat → Nat

/-- VARIANT of the mask configuration ROM (R399): the part's own. Log 4. -/
opaque romVariant : Nat

/-- The mask revision of the mask configuration ROM (R395, R399). Log 4. -/
opaque romRevision : Nat

/-- Byte n of the SHA-384 digest of the mask configuration ROM (R503). Log 4. -/
opaque romDigestByte : Nat → BitVec 8

/-- Byte n of the answer to a request of the DOE mailbox (R397), as a function of the request's bytes and of the
state's counter: keys, nonces and signatures. Log 7. -/
opaque doeAnswerByte : List (BitVec 8) → Nat → Nat → BitVec 8

/-- How many bytes that answer has. Log 7. -/
opaque doeAnswerLen : List (BitVec 8) → Nat → Nat

/-- The cause code that CSRR 4 returns for a trap (R230 gives no coding), as a function of the unit and source code. Log 13. -/
opaque trapCause : Nat → Nat → Nat

/-- The place of a region's counter in the access-counter table (R389 gives no mapping), as a function of the ACID, the region
and the table's size. Log 14. -/
opaque counterIndex : Nat → Nat → Nat → Nat

/-- The index by which a set-associative TLB chooses the set of an ACID, a page and its size (Table 13.5, log 97). -/
opaque tlbSet : Nat → Nat → Nat → Nat

/-- The task status of a locked run that ends for a bundle with V = 1 (0) or a transfer outside shelves 1 and 2 (1): R256 ends
the run and names no code. Log 15. -/
opaque lockStatus : Nat → BitVec 8

/-- The core power estimate in W that the part measures at a count (R481, R483). Log 61. -/
opaque corePower : Nat → BitVec 32

end Sys2Proof.Config
end

