-- ==== Sys2Proof/Machine/State.lean ====
section
/-! DEFINITION. The block's state: every register, queue, buffer, store and pin of the spec, as plain data, with the
queue of waiting commands; why a step stops; and the state right after reset. Each structure names the chapter
whose rules its fields come from; its defaults are the values at reset. -/
namespace Sys2Proof.Machine

/-- Why a step stops with a fault. No command of this block does: every effect the spec describes, a grave fault
included, is a next state. The constructor stands for an access outside every address space the spec lays out, and
is raised by nobody (safe). -/
inductive Fault where
  | noSuchAddress
  deriving DecidableEq, Repr

/-- Why a step is refused. -/
inductive Refusal where
  /-- A command whose meaning is not modelled; raised by the dispatch alone (safe). -/
  | notModelled (mnemonic : String)
  deriving DecidableEq, Repr

/-! ### The object dictionary server (chapter 2) -/

/-- The path instances of R35: H0, H1, O and F. -/
inductive Path where
  | h0 | h1 | o | f
  deriving DecidableEq, Repr

/-- Who sent a request: a path instance, and on F the source node (R35). -/
structure Sender where
  path : Path := .h0
  node : BitVec 16 := 0
  deriving DecidableEq, Repr

/-- A dictionary request that waits at the ODS: its sender, the MCTP message tag of an O request (R41), and the
message as the transport delivered it (Table 2.3); `lost` marks one whose mailbox was reset since (R413). -/
structure DictReq where
  who     : Sender := {}
  mctpTag : Nat := 0
  msg     : Bytes := []
  lost    : Bool := false
  deriving DecidableEq, Repr

/-- One host mailbox (Tables 2.5, 2.6). -/
structure Mailbox where
  busy       : Bool := false
  done       : Bool := false
  dropped    : BitVec 8 := 0
  lastStatus : BitVec 8 := 0
  irq        : BitVec 32 := 0
  req        : Memory := []
  rsp        : Memory := []
  deriving DecidableEq, Repr

/-- The state of a CMD entry (R63): 0 idle, 1 running, 2 done, 3 failed, with the failure's status. -/
structure CmdState where
  state : BitVec 8 := 0
  code  : BitVec 8 := 0
  deriving DecidableEq, Repr

/-- A claim slot (R46 to R48, R64). -/
structure Claim where
  first : Nat := 0
  last  : Nat := 0
  owner : Sender := {}
  seen  : Nat := 0
  deriving DecidableEq, Repr

/-- A staged entry (R49): its new value, or a command's argument. -/
structure StageItem where
  index : Nat := 0
  sub   : Nat := 0
  cmd   : Bool := false
  data  : Bytes := []
  deriving DecidableEq, Repr

/-- A trestle slot (R56 to R62, Table 2.10): state 0 free, 1 armed, 2 fired, 3 FAILED. `tag` is the TAG of the COMMIT that armed it, and
`drops` the classes that its FORCE drops at the firing. -/
structure TrestleSlot where
  state    : BitVec 8 := 0
  holdover : Bool := false
  owner    : Option Sender := none
  count    : Nat := 0
  due      : BitVec 64 := 0
  firedAt  : Nat := 0
  order    : Nat := 0
  tag      : Nat := 0
  drops    : List Nat := []
  items    : List StageItem := []
  deriving DecidableEq, Repr

/-- The ODS: the stored entries (RW and RWQ; an unlisted entry holds its default), the command states, the mailboxes,
the waiting requests, claims, the stage, the trestle and the refusal record. -/
structure Ods where
  store        : SMap Bytes := []
  cmds         : SMap CmdState := []
  mbx          : SMap Mailbox := []
  waitH0       : List DictReq := []
  waitH1       : List DictReq := []
  waitO        : List DictReq := []
  waitF        : List DictReq := []
  round        : Nat := 0
  claims       : SMap Claim := []
  stageOwner   : Option Sender := none
  stage        : List StageItem := []
  stageSeen    : Nat := 0
  discards     : Nat := 0
  trestle      : SMap TrestleSlot := []
  armCount     : Nat := 0
  lastRefusal  : Bytes := []
  refusalCount : Nat := 0
  deriving DecidableEq, Repr

/-! ### Faults (chapter 17) -/

/-- A first-error record (Table 17.4). -/
structure FirstError where
  valid    : Bool := false
  queue    : Nat := 0
  merged   : Nat := 0
  maxClass : Nat := 0
  cls      : Nat := 0
  source   : Nat := 0
  access   : Nat := 0
  mNum     : Nat := 0
  mUnit    : Nat := 0
  aspace   : Nat := 0
  acid     : Nat := 0
  addr     : Nat := 0
  gtc      : Nat := 0
  deriving DecidableEq, Repr

/-- The fault object of one unit instance (Table 17.3). -/
structure FaultInst where
  status : BitVec 64 := 0
  first  : FirstError := {}
  cntA   : Nat := 0
  cntB   : Nat := 0
  cntC   : Nat := 0
  cntD   : Nat := 0
  deriving DecidableEq, Repr

/-- Faults: the instances (keyed unit · 256 + instance), the block summary (R488), the unit resets that run (R497), the
traps that wait for a tile to stop, and the grave state (R498). -/
structure Faults where
  insts    : SMap FaultInst := []
  maxClass : Nat := 0
  cdSeen   : Bool := false
  cdUnit   : Nat := 0
  cdSource : Nat := 0
  cdInst   : Nat := 0
  cdGtc    : Nat := 0
  dGtc     : Nat := 0
  resets   : List Nat := []
  grave    : Bool := false
  deriving DecidableEq, Repr

/-! ### Memory requests (chapters 10 to 12) -/

/-- An agent that issues memory requests (chapter 12): a tile context, an engine, a unit, a host through one port, or
a remote device. -/
inductive Agent where
  | tile (t ctx : Nat)
  | gpe (g : Nat)
  | hse (c : Nat)
  | epm (ring : Nat)
  | ssu (ring : Nat)
  | sqe (queue : Nat)
  | loader
  | mtu
  | host (port : Nat)
  | fabric (node ctx : Nat)
  deriving DecidableEq, Repr

/-- Where a translated address leads: a device physical address, a host physical address of one port, or a fabric
address (R365). -/
inductive Target where
  | dev (a : Nat)
  | host (port a : Nat)
  | fab (a : Nat)
  deriving DecidableEq, Repr

/-- What a request does at its home. `atomic` carries the operation's code of Table 7.8. -/
inductive MemOp where
  | read | write | ldr | stc
  | atomic (code : Nat)
  deriving DecidableEq, Repr

/-- A request as it waits at a home slice (R318): at most one line's bytes. `alloc`, `crit` and `device` are the allocation, the
regime (Table 11.2) and the region type; `sent` is SENT of an inbound fabric request (R439). At its arrival an atomic takes the far or near choice in force, the key of its predictor counter, and whether another
request contends (R338: `far`, `pkey`, `contended`); `gran` is RES_GRANULE at the issue of an LDR or STC (R364); `waited` marks one that
has waited for a miss register, `answered` a write performed before its fill. -/
structure MemReq where
  id     : Nat := 0
  src    : Agent := .mtu
  acid   : Nat := 0
  op     : MemOp := .read
  tgt    : Target := .dev 0
  len    : Nat := 0
  data   : Bytes := []
  cmp    : Bytes := []
  poison : Bool := false
  alloc  : Bool := false
  crit   : Bool := false
  device : Bool := false
  issued : Nat := 0
  sent   : Option (BitVec 12) := none
  gran   : Nat := 6
  far    : Bool := false
  pkey   : Nat := 0
  contended : Bool := false
  waited : Bool := false
  answered : Bool := false
  deriving DecidableEq, Repr

/-- Why a request was not served. -/
inductive MemErr where
  | none | owner | hostLost | late | badOp
  deriving DecidableEq, Repr

/-- The answer to a request, by its number: accepted, then performed (R344). -/
structure MemRsp where
  performed : Bool := false
  data      : Bytes := []
  poison    : Bool := false
  err       : MemErr := .none
  num       : Nat := 0
  deriving DecidableEq, Repr

/-! ### Shelves (chapter 10) -/

/-- A carve-out way (Table 10.2), with the line it holds. -/
structure CarveWay where
  line   : Nat := 0
  valid  : Bool := false
  dirty  : Bool := false
  hit    : Bool := false
  age    : Nat := 0
  poison : Bool := false
  data   : Bytes := []
  deriving DecidableEq, Repr

/-- Why a controller reads a line: a fill of a slice's miss, a far atomic, the read-modify-write of a partial write (R300), an access
of an engine or a host, a sparing copy (R303), or patrol scrub. -/
inductive ReadFor where
  | fill (slice fill : Nat)
  | far (req : MemReq)
  | rmw (req : MemReq)
  | eng (id : Nat)
  | copy
  | scrub
  deriving DecidableEq, Repr

/-- A line read at a controller (R301): `written` marks a foreground write that came after it (R302), `got` a shelf 2 read that has
returned before its tag line, with whether it was uncorrectable, and `bad` an uncorrectable tag line. -/
structure CtlRead where
  ctl     : Nat := 0
  line    : Nat := 0
  why     : ReadFor := .scrub
  written : Bool := false
  got     : Option Bool := none
  bad     : Bool := false
  deriving DecidableEq, Repr

/-- A tag line read of the carve-out (R294), with the number of the shelf 2 read it may cancel. -/
structure TagRead where
  line : Nat := 0
  read : Nat := 0
  deriving DecidableEq, Repr

/-- A background slot that holds a bank (R307): its kind, its start and the longest it may hold the bank, in ns; a REF slot that fell
due, and one in which a periodic training step has run (R312). -/
structure BgSlot where
  kind  : Nat := 0
  start : Nat := 0
  len   : Nat := 0
  due   : Bool := false
  recal : Bool := false
  deriving DecidableEq, Repr

/-- A sparing copy (R303): its controller, its part and its pointer in lines. -/
structure Copy where
  ctl     : Nat := 0
  part    : Nat := 0
  pointer : Nat := 0
  deriving DecidableEq, Repr

/-- Shelves 1 and 2: bytes by DPA, poisoned lines, the carve-out, its reuse counters (stored as the difference from
their start value 2 in units: 0 is 2), the parts' states, copies, background slots and debts, the capacity of each channel in GiB, and the banks (by
their keys) to which a REF slot that fell due is owed. Controllers 0 to 7 are
the stacks and 8 to 19 the channels. -/
structure Shelves where
  mem       : Memory := []
  poison    : SMap Bool := []
  carve     : SMap CarveWay := []
  reuse     : SMap Nat := []
  flushing  : Bool := false
  hbmUp     : Nat := 0
  capState  : Nat := 0
  chanGib   : Nat := 0
  ranks     : Nat := 0
  caps      : List Nat := []
  parts     : SMap Nat := []
  ceWin     : SMap (List Nat) := []
  copies    : List Copy := []
  reads     : SMap CtlRead := []
  tagReads  : SMap TagRead := []
  slots     : SMap BgSlot := []
  debt      : SMap Nat := []
  owed      : List Nat := []
  lastSlots : SMap (List BgSlot) := []
  wheelPos  : SMap Nat := []
  scrubPtr  : SMap Nat := []
  recal     : SMap Nat := []
  deriving DecidableEq, Repr

/-! ### Device cache and coherence (chapter 11) -/

/-- The DCA line states of Table 11.1. -/
inductive LineSt where
  | i | cl | ml | sh | eh | mh
  deriving DecidableEq, Repr

/-- A DCA way (R317). -/
structure Way where
  key    : Nat := 0
  st     : LineSt := .i
  poison : Bool := false
  data   : Bytes := []
  deriving DecidableEq, Repr

/-- An open read of a line by a slice (R320, R321): a miss register when it allocates. `half` is the half that a
critical first miss asked for; `got` counts the halves that have arrived (0, 1, 2). -/
structure Miss where
  key     : Nat := 0
  tgt     : Target := .dev 0
  alloc   : Bool := false
  crit    : Bool := false
  own     : Bool := false
  half    : Nat := 0
  ready   : Bool := false
  got     : Nat := 0
  data    : Bytes := []
  poison  : Bool := false
  lost    : Bool := false
  waiters : List MemReq := []
  deriving DecidableEq, Repr

/-- A line in a victim buffer (R323). -/
structure Victim where
  tgt    : Target := .dev 0
  st     : LineSt := .i
  poison : Bool := false
  data   : Bytes := []
  deriving DecidableEq, Repr

/-- A snoop filter entry (Table 11.4). -/
structure SnfEnt where
  line : Nat := 0
  e    : Bool := false
  p0   : Bool := false
  p1   : Bool := false
  bip  : Bool := false
  deriving DecidableEq, Repr

/-- The back-invalidate snoops of R330 and R331. -/
inductive BiKind where
  | inv | data | cur
  deriving DecidableEq, Repr

/-- An outstanding back-invalidate (R331, R334); `limit` is BI_TIMEOUT in ms when it was sent. -/
structure BackInv where
  kind  : BiKind := .inv
  sent  : Nat := 0
  limit : Nat := 0
  deriving DecidableEq, Repr

/-- A reservation at its home slice (R354). -/
structure Resv where
  agent : Agent := .mtu
  base  : Target := .dev 0
  size  : Nat := 0
  since : Nat := 0
  deriving DecidableEq, Repr

/-- One slice with its SNF partition. -/
structure Slice where
  ways    : SMap Way := []
  plru    : SMap Nat := []
  misses  : SMap Miss := []
  victims : SMap Victim := []
  inq     : List MemReq := []
  invDone : Bool := false
  snf     : SMap SnfEnt := []
  snfPlru : SMap Nat := []
  deriving DecidableEq, Repr

/-- What a request to a host waits for (Table 11.3): a fill, a write's GO, or the acknowledgement of an eviction. -/
inductive HostWhy where
  | fill (slice fill : Nat)
  | write (req : MemReq)
  | evict (slice key : Nat)
  deriving DecidableEq, Repr

/-- The CXL.cache device-to-host requests of Table 11.3. -/
inductive D2H where
  | rdShared | rdOwn | rdOwnNoData | rdCurr | wrCur | dirtyEvict | cleanEvictNoData
  deriving DecidableEq, Repr

/-- An outstanding device-to-host request. -/
structure HostReq where
  port : Nat := 0
  kind : D2H := .rdCurr
  addr : Nat := 0
  why  : HostWhy := .fill 0 0
  deriving DecidableEq, Repr

/-- What the host's IOMMU granted (R371). -/
structure AtsRes where
  addr  : Nat := 0
  read  : Bool := false
  write : Bool := false
  deriving DecidableEq, Repr

/-- A translation cache entry (R373): the page's first address and size, its target, W, ATTR, MOT, and the ATS result. -/
structure TlbEnt where
  acid : Nat := 0
  base : Nat := 0
  size : Nat := 0
  tgt  : Target := .dev 0
  w    : Bool := false
  attr : Nat := 0
  mot  : Bool := false
  ats  : Option AtsRes := none
  deriving DecidableEq, Repr

/-- The access of an engine: the controller's read of a device line, for a read or a partial write that misses the DCA; the same for a
line that the atomic unit swaps (R337); a read or a write at a host or on the fabric, of at most one line; the walk for a page. -/
inductive EngKey where
  | line (n : Nat)
  | far (n : Nat)
  | get (t : Target) (n : Nat)
  | put (t : Target) (b : Bytes) (poison : Bool)
  | page (acid page : Nat)
  deriving DecidableEq, Repr

/-- The work of an engine for which accesses are made: a dictionary request, a batch or descriptor of a ring, the compaction or sweep of
a table, a window move, the staging aperture of a port, a program load, the binding of a cabinet, a locked run, a swap, a descriptor
read, a completion entry, a request's record, a session's own work, the spill of a drawer, a walk, a host's request. -/
inductive EngJob where
  | ods
  | ring (g : Nat)
  | table (n : Nat)
  | move (port : Nat)
  | stage (port : Nat)
  | load (slot : Nat)
  | bind (cab : Nat)
  | lock
  | swap
  | desc (num : Nat)
  | entry (q : Nat)
  | evRing (g : Nat)
  | session (key : Nat)
  | bindReq (r : Nat)
  | spill
  | walk (k : Nat)
  | hdm (num : Nat)
  deriving DecidableEq, Repr

/-- An access of an engine under way. `id` is its number: of its request (`get`, `put`), of its controller read (`line`, `far`), or of
itself; `ready` and `bad` say that the controller has read the line, and that it was uncorrectable; `fault` is the fault its walk met. -/
structure EngAcc where
  job   : EngJob := .ods
  who   : Agent := .mtu
  key   : EngKey := .line 0
  id    : Nat := 0
  ready : Bool := false
  bad   : Bool := false
  fault : Option (Nat × Nat) := none
  deriving DecidableEq, Repr

/-- A host's CXL.mem request that waits at a slice (R318), with its number in arrival order, the line whose snoop filter entry it evicts
(R332), and an answered BISnpCur (Table 11.5). -/
structure HdmWait where
  port   : Nat := 0
  num    : Nat := 0
  req    : HdmReq := .rdI 0
  victim : Option Nat := none
  cur    : Bool := false
  deriving DecidableEq, Repr

/-- A host-to-device snoop that waits for the end of an atomic or of a fill that the host has granted (R328). -/
structure Snoop where
  port : Nat := 0
  addr : Nat := 0
  kind : SnoopKind := .cur
  deriving DecidableEq, Repr

/-- Why an access of an engine that runs whole within one command must wait: a line whose holders must first answer, or that
is in progress; a HOST leaf whose ATS result is not in; an access that must be made first; a free fabric tag, a function's return from
D3hot, or an access under way (R331, R371, R440, R470). -/
inductive Need where
  | line (n : Nat) (own : Bool)
  | ats (e : TlbEnt)
  | acc (who : Agent) (acid : Nat) (key : EngKey)
  | hold
  deriving DecidableEq, Repr

/-- A page of a context: its first address, its size, and the IOVA it leads to where the host's ATS translated it (R387). -/
structure Page where
  base : Nat := 0
  size : Nat := 0
  iova : Option Nat := none
  deriving DecidableEq, Repr

/-- The page of a translation. -/
def TlbEnt.page (e : TlbEnt) : Page :=
  { base := e.base, size := e.size, iova := match e.tgt, e.ats with
      | .host _ a, some _ => some a
      | _, _ => none }

/-- The slices and what they share: outstanding back-invalidates (keyed port · 2^36 + line), BI_DEAD, reservations, the
atomic predictor (an unlisted counter holds 1), and a running flush or invalidate; host requests and snoops that wait; the accesses of
engines under way. `job`, the work that is running, `need`, and `needPage` with the ACID and the page of the first access that must wait,
are empty between commands. -/
structure Coh where
  slices   : SMap Slice := []
  bis      : SMap BackInv := []
  dead     : SMap Bool := []
  deadAt   : Nat := 0
  resv     : List Resv := []
  pred     : SMap Nat := []
  flushing : Bool := false
  invLeft  : List Nat := []
  hostReqs : SMap HostReq := []
  held     : List HdmWait := []
  snoops   : List Snoop := []
  eng      : List EngAcc := []
  job      : Option EngJob := none
  need     : List Need := []
  needPage : Option (Nat × Page) := none
  deriving DecidableEq, Repr

/-! ### Translation (chapter 13) -/

/-- A walk-cache entry: the table that a TABLE entry of `level` names for the span that starts at `base`. -/
structure WalkEnt where
  acid  : Nat := 0
  level : Nat := 0
  base  : Nat := 0
  table : Nat := 0
  deriving DecidableEq, Repr

/-- An access kind of a fault record (Table 13.7). -/
inductive Access where
  | read | write | atomic | ldrStc | walk
  deriving DecidableEq, Repr

/-- A transfer that a walk or an invalidation names: a tile transfer, a GPE line, an HSE line, a remote store that is
accepted under no tag any more and not yet performed, the access at which a ring's batch waits, or the walk for another access of an
engine. -/
inductive XferRef where
  | tile (t tag : Nat)
  | store (t id : Nat)
  | gpe (g tag : Nat)
  | hse (c tag : Nat)
  | epm (ring : Nat)
  | ssu (ring : Nat)
  | eng (id : Nat)
  deriving DecidableEq, Repr

/-- A waiter of a walk with its access and its address. -/
structure Waiter where
  who    : XferRef := .tile 0 0
  access : Access := .read
  va     : Nat := 0
  deriving DecidableEq, Repr

/-- A TLB miss: waiting for a walker, walking at `level`, or waiting for ATS at an IOVA. -/
structure Walk where
  acid    : Nat := 0
  va      : Nat := 0
  level   : Nat := 0
  table   : Nat := 0
  ats     : Option TlbEnt := none
  waiters : List Waiter := []
  deriving DecidableEq, Repr

/-- An owner tag (R375): mode 0 UNOWNED, 1 OWNED, 2 OPEN. -/
structure Owner where
  mode : Nat := 0
  acid : Nat := 0
  deriving DecidableEq, Repr

/-- Whose status a fault record decides (R382): a cause of a task's end, a batch of the EPM or one of the SSU. -/
inductive RecFor where
  | task (req cause : Nat)
  | epm (ring : Nat)
  | ssu (ring : Nat)
  deriving DecidableEq, Repr

/-- A fault record before it is written (Table 13.7). -/
structure FaultRec where
  va     : Nat := 0
  gtc    : Nat := 0
  reqId  : Nat := 0
  queue  : Nat := 0xFF
  acid   : Nat := 0
  type   : Nat := 0
  access : Nat := 0
  level  : Nat := 7
  source : Nat := 0
  unit   : Nat := 0
  count  : Nat := 1
  who    : List RecFor := []
  deriving DecidableEq, Repr

/-- A port's fault queue (R379 to R381). `flying` holds the batches written and not yet
performed: the numbers of their writes. -/
structure FaultQ where
  tail     : Nat := 0
  pass     : Nat := 0
  batch    : List FaultRec := []
  batchAt  : Nat := 0
  overflow : Bool := false
  written  : Nat := 0
  flying   : List (List Nat) := []
  deriving DecidableEq, Repr

/-- CTX_FAULT of a context. -/
structure CtxFault where
  dropped  : Nat := 0
  overflow : Bool := false
  faults   : Nat := 0
  deriving DecidableEq, Repr

/-- A running invalidation (R383 to R387): its range, who asked, and the transfers that still match. -/
structure Inval where
  running   : Bool := false
  acid      : Nat := 0
  lo        : Nat := 0
  hi        : Nat := 0
  all       : Bool := false
  global    : Bool := false
  fromPort  : Option Nat := none
  since     : Nat := 0
  waits     : List XferRef := []
  settled   : Nat := 0
  cancelled : Nat := 0
  doneAt    : Nat := 0
  deriving DecidableEq, Repr

/-- The MTU. `micro` and `cab` are keyed by tile and cabinet; the walkers by number; `atsWait` holds the leaves that wait for the
host's IOMMU. -/
structure Mtu where
  micro   : SMap (List TlbEnt) := []
  cab     : SMap (List TlbEnt) := []
  ctl     : List TlbEnt := []
  walkC   : List WalkEnt := []
  walkers : SMap Walk := []
  waiting : List Walk := []
  atsWait : List Walk := []
  owners  : SMap Owner := []
  fq      : SMap FaultQ := []
  ctx     : SMap CtxFault := []
  inv     : SMap Inval := []
  atsInv  : List (Nat × Inval) := []
  result  : Bytes := []
  sweepAt : Nat := 0
  sweepPos : Nat := 0
  sweeps  : Nat := 0
  forced  : Bool := false
  deriving DecidableEq, Repr

/-! ### Queues, classes and requests (chapter 9) -/

/-- A re-read schedule (R266): its instant f, the re-reads issued and those returned. -/
structure Retry where
  f        : Nat := 0
  issued   : Nat := 0
  returned : Nat := 0
  deriving DecidableEq, Repr

/-- A completion entry on its way (R268): where it is written, its bytes, the numbers of its writes, and whether it is
written on the schedule of R377. -/
structure CqWrite where
  va    : Nat := 0
  bytes : Bytes := []
  ids   : List Nat := []
  again : Bool := false
  deriving DecidableEq, Repr

/-- A descriptor read under way (R265): the stream position, its number, and whether its result is discarded (R266). -/
structure DescRead where
  pos   : Nat := 0
  num   : Nat := 0
  stale : Bool := false
  deriving DecidableEq, Repr

/-- A submission queue with its completion queue (R260 to R269). `pos` is the stream position of the next descriptor
to be policed; `fetchPos` that of the next read; `avail` the end of those made eligible; `cqHead` the entries released; `ready` holds valid descriptors in ring order; `reads` the positions of
reads in flight; `order` the requests whose entries are not yet written, in ring order. -/
structure Queue where
  enabled  : Bool := false
  tail     : Nat := 0
  pos      : Nat := 0
  fetchPos : Nat := 0
  avail    : Nat := 0
  reads    : List DescRead := []
  ready    : List Bytes := []
  retry    : Option Retry := none
  stalled  : Bool := false
  order    : List Nat := []
  cqPos    : Nat := 0
  cqHead   : Nat := 0
  cqRetry  : Option Retry := none
  acks     : List CqWrite := []
  redo     : Option CqWrite := none
  deriving DecidableEq, Repr

/-- The figures of CLASS_BOUND (R281). -/
structure Bound where
  r      : Nat := 0
  cpu    : Nat := 0
  mem    : Nat := 0
  fab    : Nat := 0
  bg     : Nat := 0
  frames : Nat := 0
  at_    : Nat := 0
  deriving DecidableEq, Repr

/-- A service class's own state: its token bucket Z and the count at which Z was last brought up to date (R275), the
round-robin pointer of R23, and whether a cap has dropped it (R284). -/
structure ClassSt where
  z       : Nat := 0
  zAt     : Nat := 0
  rr      : Nat := 0
  dropped : Bool := false
  bound   : Bound := {}
  deriving DecidableEq, Repr

/-- A cause of a task's end: the GTC at detection, the status of Table 9.4 and the tile. `open_` marks a translation fault
whose record has not yet decided the status (R382). -/
structure Cause where
  gtc    : Nat := 0
  status : Nat := 0
  tile   : Nat := 0
  open_  : Bool := false
  deriving DecidableEq, Repr

/-- A request's session binding (R175): the key, and the drawer's place (set·16 + way), HEAD, LENGTH, LAST_EPOCH, ring class and
ring at the lookup. `live` marks a binding that counts in PINS; one that found no session has none. -/
structure Binding where
  key     : Nat := 0
  slot    : Nat := 0
  head    : Nat := 0
  length  : Nat := 0
  epoch   : Nat := 0
  rclass  : Nat := 0
  ring    : Nat := 0
  sum     : Nat := 0
  session : Bool := false
  live    : Bool := false
  deriving DecidableEq, Repr

/-- A request (R24, R246 to R249, R263 to R272). `phase`: 0 waiting for its session binding, 1 in a dispatch queue,
2 bound with its record write outstanding, 3 running, 4 ended with its entry to be written, 5 entry written, 6 ended for
every unit. `releases`, `runs` and `meters` are keyed by lane, SEG_ID and demand count. -/
structure Request where
  q        : Nat := 0
  pos      : Nat := 0
  desc     : Bytes := []
  cls      : Nat := 0
  prog     : Nat := 0
  cab      : Nat := 0
  ctx      : Nat := 0
  acid     : Nat := 0
  prio     : Nat := 0
  admitted : Bool := false
  admitAt  : Nat := 0
  deadline : Nat := 0
  order    : Nat := 0
  snapshot : Nat := 0
  phase    : Nat := 0
  recVa    : Nat := 0
  lanes    : Nat := 0
  finals   : Nat := 0
  releases : SMap Nat := []
  runs     : SMap Nat := []
  meters   : SMap Nat := []
  vary     : Bool := false
  causes   : List Cause := []
  status   : Nat := 0
  late     : Bool := false
  elapsed  : Nat := 0
  binding  : Option Binding := none
  locked   : Bool := false
  discard  : Bool := false
  counted  : Bool := false
  deriving DecidableEq, Repr

/-- The inbound pushdown bucket (R283) and the figure of PD_IN_BOUND. -/
structure InBucket where
  z     : Nat := 0
  zAt   : Nat := 0
  bound : Nat := 0
  deriving DecidableEq, Repr

/-- SQE and ADM: queues by number, classes, requests by number, and the order in which queues are policed. -/
structure Sqe where
  queues   : SMap Queue := []
  classes  : SMap ClassSt := []
  reqs     : SMap Request := []
  inb      : InBucket := {}
  nextReq  : Nat := 1
  polRound : Nat := 0
  armedBounds : SMap (List (Nat × Bound)) := []
  armedIn  : SMap Nat := []
  deriving DecidableEq, Repr

/-! ### Programs and cabinets (chapter 8) -/

/-- A program slot (R236): 0 empty, 1 loading, 2 loaded; the image as the bundle memories hold it; where its copy lies in
the program store; the load's argument. -/
structure ProgSlot where
  state : Nat := 0
  image : Bytes := []
  store : Nat := 0
  acid  : Nat := 0
  addr  : Nat := 0
  len   : Nat := 0
  deriving DecidableEq, Repr

/-- A frame's context number on a cabinet (R244): its program, index, lanes, the base word on each position, and the
request it is bound to. -/
structure FrameSt where
  prog  : Nat := 0
  idx   : Nat := 0
  mask  : Nat := 0
  bases : List Nat := []
  req   : Option Nat := none
  deriving DecidableEq, Repr

/-- A cabinet (R244 to R250): the reasons that keep it from SERVING, its dispatch queue in admission order, its frames
keyed by context number. -/
structure Cabinet where
  draining : Bool := false
  locked   : Bool := false
  out      : Bool := false
  dispatch : List Nat := []
  frames   : SMap FrameSt := []
  deriving DecidableEq, Repr

/-- LOCK_RESULT and the locked run in progress (R255, R256): `phase` 0 none, 1 draining, 2 running. -/
structure LockRun where
  phase   : Nat := 0
  prog    : Nat := 0
  cab     : Nat := 0
  acid    : Nat := 0
  input   : Nat := 0
  output  : Nat := 0
  req     : Nat := 0
  state   : Nat := 0
  status  : Nat := 0
  sig     : Nat := 0
  cycles  : Nat := 0
  choices : Nat := 0
  begun   : Option Nat := none
  ended   : Nat := 0
  endAt   : Nat := 0
  laneCyc : SMap Nat := []
  finalSeg : SMap Nat := []
  failed  : Bool := false
  deriving DecidableEq, Repr

/-- Programs, cabinets, the load result and the locked run. -/
structure Sched where
  progs  : SMap ProgSlot := []
  cabs   : SMap Cabinet := []
  result : Bytes := []
  lock   : LockRun := {}
  deriving DecidableEq, Repr

/-! ### Tiles (chapter 7) -/

/-- A context of a tile (R202); number 16 is the trap context. `phase`: 0 free, 1 gated, 2 ready, 3 running, 4 waiting,
5 final. `slots` marks the slots of the current bundle that have issued; `pendX`, `pendV` are their results, which the
bundle's other slots do not yet see (R203). `waits` are the tags a missed WAIT waits for; `missed` marks the bundle whose
WAIT missed, `started` a segment whose start has been counted. `prog` and `frame` are the program slot and the frame (by context number) it runs in, which the trap
context takes from the context it stops; `lastSeq` numbers its last bundle on the tile. -/
structure Ctx where
  phase  : Nat := 0
  req    : Nat := 0
  seg    : Nat := 0
  bundle : Nat := 0
  slots  : Nat := 0
  x      : SMap Word := []
  v      : SMap Vec := []
  pendX  : SMap Word := []
  pendV  : SMap Vec := []
  waits  : List Nat := []
  ns     : Bool := false
  missed : Bool := false
  gated  : Bool := false
  started : Bool := false
  prog   : Nat := 0
  frame  : Nat := 0
  lastSeq : Nat := 0
  resv   : Option (Target × Nat) := none
  resvAt : Nat := 0
  deriving DecidableEq, Repr

/-- A transfer under a tag (R216, R221). `phase`: 0 queued in the XFU, 1 waiting for a translation, 2 on the network,
3 its tag completed. `lines` are the numbers of its line
requests with their place in its data, `homes` the slices they go to (16: the fabric port); `pages` the pages it was translated under; `partly` says that an earlier store covers a load in
part, so that it waits for what overlaps it to be performed (R348). -/
structure Xfer where
  ctx    : Nat := 0
  req    : Nat := 0
  grp    : Nat := 0
  op     : Nat := 0
  len    : Nat := 0
  va     : Nat := 0
  dr     : Nat := 0
  word   : Nat := 0
  seg    : Nat := 0
  bundle : Nat := 0
  seq    : Nat := 0
  phase  : Nat := 0
  vbit   : Bool := false
  dev    : Bool := false
  late   : Bool := false
  data   : Bytes := []
  poison : List Nat := []
  lines  : List (Nat × Nat × Nat) := []
  homes  : List Nat := []
  since  : Nat := 0
  pages  : List Page := []
  partly : Bool := false
  young  : Bool := false
  fwd    : Bool := false
  arith  : Nat := 0
  gran   : Nat := 6
  deriving DecidableEq, Repr

/-- A running matrix or stream operation (R206, R210): its context, slot bits, descriptor, frame base, mode and T, and
the scalar operands read at issue. -/
structure UnitOp where
  ctx    : Nat := 0
  slot   : Nat := 0
  desc   : Bytes := []
  base   : Nat := 0
  strict : Bool := false
  seq    : Nat := 0
  tscale : BitVec 32 := 0
  seed   : Word := 0
  sbase  : Word := 0
  bins   : Bytes := []
  deriving DecidableEq, Repr

/-- A line write accepted and not yet performed (R346): the number of its request, the order of its bundle, where it writes, its
region type, its issue, and the pages it was translated under. -/
structure Tracked where
  ctx : Nat := 0
  req : Nat := 0
  id  : Nat := 0
  seq : Nat := 0
  va  : Nat := 0
  len : Nat := 0
  dev : Bool := false
  since : Nat := 0
  pages : List Page := []
  deriving DecidableEq, Repr

/-- A tile's trap (R230, R495, R496): 0 none, 1 pending, 2 the trap context runs. -/
structure TrapSt where
  phase   : Nat := 0
  cause   : Nat := 0
  stopped : Option Nat := none
  bundle  : Nat := 0
  deriving DecidableEq, Repr

/-- A logical tile. -/
structure Tile where
  resetting : Bool := false
  active    : Option Nat := none
  idle      : Nat := 0
  idleAt    : Nat := 0
  ctxs      : SMap Ctx := []
  scr       : Memory := []
  scrPoison : SMap Bool := []
  mxu       : Option UnitOp := none
  conv      : Option UnitOp := none
  xfers     : SMap Xfer := []
  seq       : Nat := 0
  tracker   : List Tracked := []
  hist      : SMap Nat := []
  trap      : TrapSt := {}
  posted    : SMap (List Bytes) := []
  deriving DecidableEq, Repr

/-- A spare-tile swap (R231 to R233) and SWAP_STATUS: a swap that runs, the spare's check ended, else how the last one ended (0
none, 4 done, 5 FAILED), the old physical tile, the failure's cause and the GTC at the end. -/
structure SwapSt where
  running : Bool := false
  checked : Bool := false
  state   : Nat := 0
  tile    : Nat := 0
  spare   : Nat := 0
  old     : Nat := 0
  cause   : Nat := 0
  ended   : Nat := 0
  deriving DecidableEq, Repr

/-- The tiles of the block, the map from logical to physical tiles, the state of the spares and the physical tiles that
failed. -/
structure Tiles where
  tile    : SMap Tile := []
  phys    : SMap Nat := []
  spare   : SMap Nat := []
  failed  : List Nat := []
  swap    : SwapSt := {}
  bundles : SMap (List (Nat × List Bytes)) := []
  deriving DecidableEq, Repr

/-! ### Host link ports (chapter 14) -/

/-- A window move (R405 to R407): phase 0 none, 1 recalling, 2 copying. -/
structure MoveSt where
  phase   : Nat := 0
  copy    : Bool := false
  old     : Nat := 0
  new     : Nat := 0
  pointer : Nat := 0
  moved   : Option Nat := none
  deriving DecidableEq, Repr

/-- An access of the staging aperture that is under way (R408, R409): a write or a read, its offset, its length, and its data. -/
structure StageReq where
  write : Bool := false
  off   : Nat := 0
  len   : Nat := 0
  data  : Bytes := []
  deriving DecidableEq, Repr

/-- A host link controller: its link, enables, interrupts, HDM decoder (`decErr`: its last Commit was refused) and window, lost-write
log, and DOE sessions. `d3req` marks a function on its way to D3hot (R470). `keyGen` numbers the responder key pair. -/
structure Hlc where
  stage     : Option StageReq := none
  link      : Nat := 0
  rate      : Nat := 0
  width     : Nat := 0
  flit      : Nat := 0
  dstate    : Nat := 0
  d3req     : Bool := false
  perst     : Bool := true
  bme       : Bool := false
  cacheEn   : Bool := false
  memEn     : Bool := false
  ide       : Bool := false
  msix      : Bool := false
  msi       : Nat := 0
  unmasked  : SMap Bool := []
  pend      : SMap Bool := []
  decoded   : Bool := false
  decErr    : Bool := false
  decBase   : Nat := 0
  move      : MoveSt := {}
  held      : List HdmReq := []
  hlxAt     : Nat := 0
  flrAt     : Option Nat := none
  lostDue   : Option (List Nat) := none
  lostLog   : List (Nat × Nat) := []
  lostLines : Nat := 0
  lostOver  : Bool := false
  lostHlx   : Nat := 0
  lostStores : Nat := 0
  lostAt    : Nat := 0
  l1        : Nat := 0
  pmeEn     : Bool := false
  pmeOff    : Bool := false
  memActive : Bool := false
  romOffset : Nat := 0
  spdm      : Nat := 0
  session   : Bool := false
  cert      : Bytes := []
  keyGen    : Nat := 0
  deriving DecidableEq, Repr

/-! ### The Golo fabric and global time (chapter 15) -/

/-- A message in a replay buffer (R432): the SEQ of the flit in which it ends, its flits, the class in which it came to this device, and
the message. -/
structure Sent where
  seq   : Nat := 0
  flits : Nat := 0
  dl    : Bool := false
  msg   : FabMsg := {}
  deriving DecidableEq, Repr

/-- A fabric port. `txSeq` is the SEQ of the last message flit sent, `txAck` the last one acknowledged, `rxSeq` the last one
received in order and `rxEnd` that in which the last message ended; `rxSince` counts the flits accepted since the last ACK, from `rxAt` on.
Credits are in 16-byte units by class code; what a class starts with is its buffer (R430); `spent` are used, `owed` to be returned.
`query`: 0 none, 1 LINK_QUERY sent, 2 reply in, 3 timed out. `laneErr` holds the corrected symbols of a lane by their instants;
`failed` marks a spare taken by a failure; `exch` an exchange of R448 that waits for DELAY_RSP. -/
structure FabPort where
  state    : Nat := 0
  nbrNode  : Nat := 0
  nbrPort  : Nat := 0
  delay    : Nat := 0
  changed  : Nat := 0
  spare    : Option Nat := none
  failed   : Bool := false
  txSeq    : Nat := 0xFFF
  txAck    : Nat := 0xFFF
  ackAt    : Nat := 0
  rxSeq    : Nat := 0xFFF
  rxSince  : Nat := 0
  rxAt     : Nat := 0
  replays  : Nat := 0
  replay   : List Sent := []
  spent    : SMap Nat := []
  owed     : SMap Nat := []
  mgtWait  : Nat := 0
  turn     : Bool := false
  hopMax   : Nat := 0
  rxEnd    : Nat := 0xFFF
  laneErr  : SMap (List Nat) := []
  recalAt  : Nat := 0
  query    : Nat := 0
  queryAt  : Nat := 0
  reply    : Nat := 0
  holdTill : Option Nat := none
  retrainAt : Nat := 0
  pwren    : Bool := false
  pwrenAt  : Nat := 0
  present  : Bool := false
  button   : Bool := false
  presChg  : Bool := false
  t1       : Nat := 0
  t2       : Nat := 0
  t3       : Nat := 0
  exch     : Bool := false
  deriving DecidableEq, Repr

/-- A message that waits at the GFR, with the port it came from (none: this device), for a broadcast the entry of BCAST_MASK, and its
arrival; `first` marks one that is sent again after a failover (R437), `win` is the inbound window that a request for this device met on
its arrival (R424), and `sent` are the ports that have sent a broadcast. -/
structure Waiting where
  msg   : FabMsg := {}
  src   : Option Nat := none
  via   : Nat := 6
  first : Bool := false
  since : Nat := 0
  win   : Bytes := []
  sent  : List Nat := []
  deriving DecidableEq, Repr

/-- What an outbound request's fabric tag answers (R440): a request of an agent by its number, or a
pushdown slot. -/
inductive TagFor where
  | mem (id : Nat) (op : MemOp)
  | pd (gpe slot : Nat)
  deriving DecidableEq, Repr

/-- An inbound request whose lines are being served: its message and the numbers of its line requests. -/
structure Inbound where
  msg   : FabMsg := {}
  lines : List Nat := []
  deriving DecidableEq, Repr

/-- A part in the inbound pushdown queue (R127): its message. -/
structure PdIn where
  msg  : FabMsg := {}
  deriving DecidableEq, Repr

/-- The fabric: ports, the router's waiting messages, fabric tags, inbound requests, nodes heard, the inbound pushdown queue; `entHold` are
the instants until which a changed route entry is held (R437), `annAt` that of the last ANNOUNCE. -/
structure Fab where
  ports   : SMap FabPort := []
  msgs    : SMap Waiting := []
  tags    : SMap TagFor := []
  nextTag : Nat := 0
  inbound : SMap Inbound := []
  heard   : SMap Nat := []
  pdIn    : List PdIn := []
  entHold : SMap Nat := []
  annAt   : Nat := 0
  deriving DecidableEq, Repr

/-- The global time counter (R448 to R451): the 64-bit count, its state (R449), and the servo's figures; `rate` is in units
of 2^-32. -/
structure Gtc where
  count  : BitVec 64 := 0
  state  : Nat := 0
  gm     : Nat := 0
  hops   : Nat := 0
  offset : Int := 0
  delay  : Nat := 0
  rate   : Int := 0
  good   : Nat := 0
  lastAt : Nat := 0
  syncAt : Nat := 0
  pulse  : Bool := false
  deriving DecidableEq, Repr

/-! ### Gather-pool engines (chapter 4) -/

/-- A row of a gather command: its ID and weight, and how far its resolution has come. `stage`: 1 probing the directory at
`probe`, 2 reading the version entry of row `num`, 3 reading the lines of its slot at `va`, 4 complete. `eff`: 0 a row of
bytes, 1 skipped, 2 a zero row. `want` are lines not yet issued; `got` the lines that have arrived, by address; `miss` a row
that took the DEFAULT policy. -/
structure GRow where
  id     : Nat := 0
  w      : Nat := 0
  stage  : Nat := 0
  probe  : Nat := 0
  num    : Nat := 0
  va     : Nat := 0
  eff    : Nat := 0
  want   : List Nat := []
  got    : SMap Bytes := []
  poison : Bool := false
  miss   : Bool := false
  deriving DecidableEq, Repr

/-- A pushdown part of a command (R120): bag, shard and home, its IDs and weights, and its answer. `state`: 0 to send, 1 sent under a slot, 2 answered, 3 pooled locally. -/
structure Part where
  bag   : Nat := 0
  shard : Nat := 0
  home  : Nat := 0
  ids   : List Nat := []
  ws    : List Nat := []
  state : Nat := 0
  n     : Nat := 0
  flags : Nat := 0
  value : List Nat := []
  deriving DecidableEq, Repr

/-- A gather command in a GPE (R107 to R116), or an inbound part (`pd`). `raw` is the posted command; `base` and `obase` relocate
its scratch addresses in the posting tile and in OUT_TILE (R245). `cdesc` is its table's descriptor; `desc`, `table` and `acid`
are those of the table whose rows it reads, and `epoch` the epoch read; `gen` the generation at its start. `rows` are the rows
taken and not yet folded, of the `nrows` taken so far. `parts` are the parts, by number, of the `split` bags split so far, the last
of which ends at `splitEnd`; `lpart` is the part pooled here. `bag` is the open bag, which ends at `bagEnd` once `opened`; `pos` the
next row to fold; `acc` and `n` the accumulator and row count; `flags` status bits. -/
structure GCmd where
  raw     : Bytes := []
  tile    : Nat := 0
  ctx     : Nat := 0
  xtag    : Nat := 0
  req     : Nat := 0
  pd      : Option PdIn := none
  started : Bool := false
  done    : Bool := false
  base    : Nat := 0
  obase   : Nat := 0
  cdesc   : Bytes := []
  desc    : Bytes := []
  ec      : Bytes := []
  table   : Nat := 0
  acid    : Nat := 0
  epoch   : Nat := 0
  gen     : Nat := 0
  rows    : SMap GRow := []
  nrows   : Nat := 0
  parts   : SMap Part := []
  nparts  : Nat := 0
  split   : Nat := 0
  splitEnd : Nat := 0
  lpart   : Option Nat := none
  bag     : Nat := 0
  bagEnd  : Nat := 0
  opened  : Bool := false
  pos     : Nat := 0
  acc     : List Nat := []
  n       : Nat := 0
  flags   : Nat := 0
  deriving DecidableEq, Repr

/-- A read tag of a GPE (R96): the command's number in arrival order, the row, the line's address and its target, its request
(none before its translation and after its arrival), its page, its issue and the order of the issues; `got` marks a line that
has arrived and is not yet folded. -/
structure GTag where
  cmd   : Nat := 0
  row   : Nat := 0
  va    : Nat := 0
  tgt   : Target := .dev 0
  id    : Option Nat := none
  got   : Bool := false
  order : Nat := 0
  since : Nat := 0
  acid  : Nat := 0
  page  : Page := {}
  deriving DecidableEq, Repr

/-- A pushdown slot (R120, R126): the command, the part and the departure. -/
structure PdSlot where
  cmd   : Nat := 0
  part  : Nat := 0
  since : Nat := 0
  deriving DecidableEq, Repr

/-- A GPE: posted commands held at the cabinet port, commands by number, the numbers of its next command and next line read, tags,
pushdown slots. -/
structure Gpe where
  posted : List GCmd := []
  cmds   : SMap GCmd := []
  next   : Nat := 0
  issues : Nat := 0
  tags   : SMap GTag := []
  slots  : SMap PdSlot := []
  deriving DecidableEq, Repr

/-! ### The epoch manager (chapter 5) -/

/-- A versioned table's epoch record (R133 to R168). `compactAt` is the next owner-log index of compaction or of a
discard sweep; `endGen` the generation of a compaction end that waits for its readers (R166). `failed` are the batches that failed
and have not since been applied in full: BATCH_FAILED is set while there is one (R150). -/
structure EpochSt where
  live       : Bool := false
  epoch      : Nat := 0
  prev       : Nat := 0
  genChanged : Nat := 0
  prevFrom   : Nat := 0
  state      : Nat := 0
  remote     : Bool := false
  failed     : List Nat := []
  applied    : Nat := 0
  n          : Nat := 0xFFFF_FFFF
  cursor     : Nat := 0
  homeCur    : Nat := 0
  commitAt   : Nat := 0
  compactAt  : Nat := 0
  endGen     : Option Nat := none
  stopped    : Bool := false
  deriving DecidableEq, Repr

/-- A batch that applies (R146 to R152, R183 to R185): its descriptor (empty where its ring lies on a lost port), the descriptor of
its table, the next row or event, how many are applied, its status once it has ended. `paused` marks a held append or a ring that
waits for a way or for PINS; `held` an access that waits, with its instant, its ACID and its page, for R385. -/
structure Batch where
  desc    : Bytes := []
  tdesc   : Bytes := []
  next    : Nat := 0
  applied : Nat := 0
  status  : Option Nat := none
  since   : Nat := 0
  paused  : Bool := false
  holding : Bool := false
  undecided : Bool := false
  held    : Option (Nat × Nat × Page) := none
  deriving DecidableEq, Repr

/-- An update ring or an event ring (R146, R147). `ready` is a descriptor that was read and waits for a place; `fresh`
says that the ring was resumed and its fresh read is under way. -/
structure RingSt where
  head   : Nat := 0
  stream : Nat := 0
  ahead  : Bool := false
  done   : Nat := 0
  retry  : Option Retry := none
  ready  : Option Bytes := none
  fresh  : Bool := false
  batch  : Option Batch := none
  deriving DecidableEq, Repr

/-- The EPM: table records, generation, reader counters, rings, the ring whose batch started last, FLIP_RESULT (unlisted:
0xFF), and the retreats that wait for a generation (R163): the tables of each. -/
structure Epm where
  tables  : SMap EpochSt := []
  gen     : Nat := 0
  readers : SMap Nat := []
  rings   : SMap RingSt := []
  last    : Nat := 7
  flip    : SMap Nat := []
  retreats : List (List Nat) := []
  deriving DecidableEq, Repr

/-! ### The session unit and the history scan engines (chapter 6) -/

/-- A drawer (Table 6.1). -/
structure Drawer where
  key       : Nat := 0
  ringBase  : Nat := 0
  rclass    : Nat := 0
  sumBase   : Nat := 0
  length    : Nat := 0
  head      : Nat := 0
  lastEpoch : Nat := 0
  touch     : Nat := 0
  pins      : Nat := 0
  age       : Nat := 0
  rebuild   : Bool := false
  valid     : Bool := false
  pinLow    : Nat := 0
  deriving DecidableEq, Repr

/-- An operation of the SSU on a key: the lookup of a request's binding, or the batch of an event ring. -/
inductive SsuOp where
  | bind (r : Nat)
  | batch (g : Nat)
  deriving DecidableEq, Repr

/-- An operation that has reached the SSU and has not taken effect (R177). `missed`: its lookup missed the resident drawers.
`gone`: the reload that it waited for faulted, so its lookup finds no session (Table 13.6). -/
structure SsuWait where
  key    : Nat := 0
  op     : SsuOp := .bind 0
  missed : Bool := false
  gone   : Bool := false
  deriving DecidableEq, Repr

/-- The SSU: resident drawers keyed set · 16 + way, the write-back buffer, sessions discarded under R178 that the sweep must
end, operations that wait, in the order in which they came (R177), blocks that await rebuild as pairs of key and ring block (R190),
event rings, rings in use keyed class · 2^20 + ring, SESSION_RESULT. -/
structure Ssu where
  drawers : SMap Drawer := []
  wbuf    : List Drawer := []
  doomed  : List Drawer := []
  line    : List SsuWait := []
  redo    : List (Nat × Nat) := []
  rings   : SMap RingSt := []
  last    : Nat := 7
  used    : SMap Bool := []
  result  : Bytes := []
  deriving DecidableEq, Repr

/-- A read tag of an HSE (R196): the number of its scan, the line's place among the lines of the scan's phase, its address and its
target, its request (none before its translation), its issue, its ACID and its page. -/
structure HTag where
  scan  : Nat := 0
  line  : Nat := 0
  va    : Nat := 0
  tgt   : Target := .dev 0
  id    : Option Nat := none
  order : Nat := 0
  since : Nat := 0
  acid  : Nat := 0
  page  : Page := {}
  deriving DecidableEq, Repr

/-- A scan (R191 to R195). `phase`: 0 queued, 1 reading summaries and the tail's records, 2 copying, 3 done. `bind` is the binding it
uses; `base` relocates its addresses in the posting tile, `frame` names the frame of the target tiles (R245). `issued` counts the lines of the
phase issued so far; `lines` and `bad` hold those that have arrived and their poison; `left` counts those that have not. `scores`
are the blocks' scores and `badBlk` the poisoned blocks, by position in the window; `picked` the blocks selected. -/
structure Scan where
  raw    : Bytes := []
  tile   : Nat := 0
  ctx    : Nat := 0
  xtag   : Nat := 0
  req    : Nat := 0
  num    : Nat := 0
  phase  : Nat := 0
  bind   : Binding := {}
  base   : Nat := 0
  frame  : Nat := 0
  issued : Nat := 0
  left   : Nat := 0
  lines  : SMap Bytes := []
  bad    : SMap Bool := []
  top    : Nat := 0
  scores : SMap Nat := []
  badBlk : SMap Bool := []
  picked : List Nat := []
  deriving DecidableEq, Repr

/-- An HSE: posted scans held at the cabinet port, its queue (the head is the running scan), the number of its next scan, and its
tags. -/
structure Hse where
  next   : Nat := 0
  posted : List Scan := []
  queue  : List Scan := []
  tags   : SMap HTag := []
  deriving DecidableEq, Repr

/-! ### Power, clocks and reset (chapter 16) -/

/-- The identity registers of configuration space (Table 14.2), alike on both ports. -/
structure Identity where
  vendor    : Nat := 0x1F3E
  device    : Nat := 0x0480
  revision  : Nat := 0
  classCode : Nat := 0x120000
  subVendor : Nat := 0
  subId     : Nat := 0
  deriving DecidableEq, Repr

/-- What a port's configuration space answers with (R395, R396): the identity registers, Cache_Capable, Mem_Capable and HDM_Count, Range 1
Size, and of the Svetpa DVSEC the ROM header, ROM_OFFSET and ROM_DATA. -/
structure CfgSpace where
  ident     : Identity := {}
  cacheCap  : Bool := true
  memCap    : Bool := true
  hdmCount  : Nat := 1
  range1    : Nat := 0
  romHead   : Bytes := []
  romOffset : Nat := 0
  romData   : Bytes := []
  deriving DecidableEq, Repr

/-- The power and clock sequencer, its AON part included. Times are GTC counts of this device. `point` is the
operating point in force and `fPoint` the one whose f ARITH runs at (R463); `arithSum` are the ARITH cycles, in 10^-9, up to
`arithAt`, where that f began (R9); `clkReq` the clocks whose acknowledgement is awaited.
`railReq` of a rail switch (0 to 11 cabinets, 12 to 15 spares): 1 told to open, 2 open, 3 told to close, unlisted: closed.
`entering` and `entryBlock` are idle levels whose handshake runs. `blk`: 1 flush, 2 carve-out write-back, 3 retraining. -/
structure Pcs where
  ident      : Identity := {}
  phase      : Nat := 0
  halted     : Bool := false
  startAt    : Nat := 0
  readyMs    : Nat := 0
  fillPtr    : Nat := 0
  tilesBad   : Nat := 0
  sparesUsed : Nat := 0
  outCabs    : Nat := 0
  clkReq     : List Clock := []
  clkAt      : Nat := 0
  romOk      : Bool := false
  odsUp      : Bool := false
  fPoint     : Nat := 0
  arithSum   : Nat := 0
  gatedSum   : SMap Nat := []
  gateAt     : SMap Nat := []
  arithAt    : Nat := 0
  point      : Nat := 0
  vfLimit    : Nat := 0
  thermal    : Nat := 0
  vfReq      : Nat := 0
  raising    : Bool := false
  vfAt       : Nat := 0
  vfWait     : Bool := false
  retune     : Option Nat := none
  testDue    : Option Nat := none
  temps      : SMap (BitVec 16) := []
  repCause   : Nat := 0
  repMask    : Nat := 0
  repAt      : Nat := 0
  level      : Nat := 0
  cabLevel   : SMap Nat := []
  entering   : SMap Nat := []
  entryBlock : Nat := 0
  levelAt    : Nat := 0
  idleSince  : SMap Nat := []
  railReq    : SMap Nat := []
  railAt     : SMap Nat := []
  quiesced   : Bool := false
  cold       : Bool := false
  mainOffOk  : Bool := false
  wakeN      : SMap Bool := []
  chipRst    : Bool := false
  aliveOn    : Bool := false
  alive      : Bool := false
  straps     : BitVec 64 := 0
  blk        : Nat := 0
  deriving DecidableEq, Repr

/-! ### The whole block -/

/-- What leaves the block, in the order in which it leaves (the boundary interfaces of chapter 0; log 5). -/
inductive Out where
  /-- An interrupt vector on a host port (R402). -/
  | irq (port vector : Nat)
  /-- An AER report on a host port (R494): 1 corrected, 2 uncorrectable non-fatal, 3 fatal. -/
  | aer (port severity : Nat)
  /-- A dictionary response on O, with its MCTP tag (R41). -/
  | mctp (tag : Nat) (msg : Bytes)
  /-- A PLDM sensor answer (R481). -/
  | pldm (sensor : Nat) (value : BitVec 32)
  /-- A CXL.cache device-to-host request (Table 11.3). -/
  | d2h (port : Nat) (kind : D2H) (id addr : Nat) (data : Bytes) (poison : Bool := false)
  /-- The answer to a snoop (R328): whether the line is kept, its data if modified. -/
  | snoopRsp (port addr : Nat) (hit : Bool) (data : Option Bytes)
  /-- A back-invalidate snoop (R331) for a DPA line. -/
  | biSnp (port : Nat) (kind : BiKind) (line : Nat)
  /-- The answer to a host CXL.mem request (R330). -/
  | memRsp (port addr : Nat) (data : Bytes) (poison : Bool)
  /-- A completion of a BAR read with its poison; none for a Completer Abort (R409). -/
  | barRsp (port : Nat) (data : Option Bytes) (poison : Bool)
  /-- What configuration space answers with, as the host enumerates the function (R395, R474). -/
  | config (port : Nat) (space : CfgSpace)
  /-- An ATS Translation Request (R371) or Invalidation Completion (R387). -/
  | atsReq (port acid iova : Nat) (pasid : Option Nat)
  | atsDone (port : Nat)
  /-- An idle flit with ACK and credits by class, and a NAK flit (R430, R432). -/
  | flitAck (port seq : Nat) (credits : List (Nat × Nat))
  | flitNak (port seq : Nat)
  /-- A message sent on a fabric port: the SEQ of its last flit, the ACK and the credits its flits carry (R432). -/
  | fabSend (port seq ack : Nat) (credits : List (Nat × Nat)) (msg : FabMsg)
  /-- A link control record on a fabric port: a lane swap (R434). -/
  | laneSwap (port lane : Nat)
  /-- A CXL or PCIe event on a host port: PME, PME_TO_Ack and others, by code. -/
  | link (port code : Nat)
  /-- A DOE answer (R397). -/
  | doe (port : Nat) (body : Bytes)
  /-- A boundary output pin by name and level (Table 16.10). -/
  | pin (name : String) (level : Nat)
  deriving DecidableEq, Repr

/-- The block. `ctr` holds every counter, keyed (index · 256 + sub) · 16 + position; `pending` is the queue of waiting
commands; `out` the boundary outputs; `nextId` numbers requests in flight; `free` drives the free values. -/
structure State where
  pending : List Instr := []
  ods     : Ods := {}
  faults  : Faults := {}
  ctr     : SMap Nat := []
  shelves : Shelves := {}
  coh     : Coh := {}
  rsps    : SMap MemRsp := []
  mtu     : Mtu := {}
  sqe     : Sqe := {}
  sched   : Sched := {}
  tiles   : Tiles := {}
  gpes    : SMap Gpe := []
  epm     : Epm := {}
  ssu     : Ssu := {}
  hses    : SMap Hse := []
  hlc     : SMap Hlc := []
  fab     : Fab := {}
  gtc     : Gtc := {}
  pcs     : Pcs := {}
  out     : List Out := []
  nextId  : Nat := 0
  free    : Nat := 0
  deriving DecidableEq, Repr

/-- The block right after POR (R477, R479): every entry at its default, every queue, cache and map empty, START_STATE
phase POR. Registers for which the spec gives no reset value hold zero (log 2). -/
def State.reset : State := {}

end Sys2Proof.Machine
end

