-- ==== Sys2Proof/Machine/Ops.lean ====
section
/-! DEFINITION. The named operations on sparse maps, byte strings and bit fields, and the accessors through which every
unit's state is read and written. -/
namespace Sys2Proof.Machine

/-! ### Sparse maps -/

/-- The value at a key; an unlisted key holds the default. -/
def sget {α : Type} (d : α) : SMap α → Nat → α
  | [], _ => d
  | (k, v) :: r, n => if n = k then v else sget d r n

/-- The value at a key, if it is listed. -/
def sfind {α : Type} : SMap α → Nat → Option α
  | [], _ => none
  | (k, v) :: r, n => if n = k then some v else sfind r n

/-- List a value at a key, keys rising. -/
def sput {α : Type} : SMap α → Nat → α → SMap α
  | [], n, v => [(n, v)]
  | (k, w) :: r, n, v =>
    if n < k then (n, v) :: (k, w) :: r
    else if n = k then (n, v) :: r
    else (k, w) :: sput r n v

/-- Take a key out. -/
def sdel {α : Type} : SMap α → Nat → SMap α
  | [], _ => []
  | (k, w) :: r, n => if n = k then sdel r n else (k, w) :: sdel r n

/-- Write a value: the default is never listed. -/
def sset {α : Type} [DecidableEq α] (d : α) (m : SMap α) (n : Nat) (v : α) : SMap α :=
  if v = d then sdel m n else sput m n v

/-- Keys strictly rising from a lower bound. -/
def risingFrom {α : Type} : Nat → SMap α → Bool
  | _, [] => true
  | b, (k, _) :: r => decide (b ≤ k) && risingFrom (k + 1) r

/-- The canonical form of a map whose default is d: keys strictly rising, no value equal to d. -/
def mapWf {α : Type} [DecidableEq α] (d : α) (m : SMap α) : Bool :=
  risingFrom 0 m && m.all (fun p => decide (p.2 ≠ d))

/-- The first key from `k` on, of `n` tried, that is not listed. -/
def sfreeFrom {α : Type} (m : SMap α) : Nat → Nat → Option Nat
  | 0, _ => none
  | n + 1, k => if (sfind m k).isNone then some k else sfreeFrom m n (k + 1)

/-- The lowest key of `0 … n - 1` that is not listed. -/
def sfree {α : Type} (m : SMap α) (n : Nat) : Option Nat := sfreeFrom m n 0

/-- The pair with the largest key. -/
def slast {α : Type} (m : SMap α) : Option (Nat × α) := m.getLast?

/-! ### Memory -/

/-- The byte at an address: an unlisted byte reads as zero. -/
def mget (m : Memory) (a : Nat) : Byte := sget 0 m a

/-- Write one byte. -/
def mset (m : Memory) (a : Nat) (b : Byte) : Memory := sset 0 m a b

/-- A memory is in canonical form. -/
def Memory.wf (m : Memory) : Bool := mapWf (0 : Byte) m

/-- `n` bytes from an address. -/
def mread (m : Memory) (a : Nat) : Nat → Bytes
  | 0 => []
  | n + 1 => mget m a :: mread m (a + 1) n

/-- Write a byte string at an address. -/
def mwrite (m : Memory) (a : Nat) : Bytes → Memory
  | [] => m
  | b :: bs => mwrite (mset m a b) (a + 1) bs

/-- Write zero bytes: `n` bytes from an address. -/
def mzero (m : Memory) (a : Nat) : Nat → Memory
  | 0 => m
  | n + 1 => mzero (mset m a 0) (a + 1) n

/-! ### Byte strings and fields (R6: little-endian) -/

/-- The number that a byte string holds. -/
def leNat : Bytes → Nat
  | [] => 0
  | b :: r => b.toNat + 256 * leNat r

/-- The low `n` bytes of a number. -/
def natLe : Nat → Nat → Bytes
  | _, 0 => []
  | v, n + 1 => BitVec.ofNat 8 v :: natLe (v / 256) n

/-- `n` bytes of a byte string from an offset; bytes beyond its end read zero. -/
def bytesAt (b : Bytes) (off : Nat) (n : Nat) : Bytes :=
  let r := (b.drop off).take n
  r ++ List.replicate (n - r.length) 0

/-- The number held by `n` bytes at a byte offset. -/
def le (b : Bytes) (off n : Nat) : Nat := leNat ((b.drop off).take n)

/-- The bit field of `w` bits from bit `lo`. -/
def fld (b : Bytes) (lo w : Nat) : Nat :=
  (leNat ((b.drop (lo / 8)).take ((w + 14) / 8)) >>> (lo % 8)) % 2 ^ w

/-- One bit of a byte string. -/
def bit (b : Bytes) (n : Nat) : Bool := fld b n 1 == 1

/-- Replace bytes from an offset. -/
def patch (b : Bytes) (off : Nat) (v : Bytes) : Bytes :=
  bytesAt b 0 off ++ v ++ b.drop (off + v.length)

/-- All bytes of a range are zero. -/
def zeroIn (b : Bytes) (off n : Nat) : Bool := le b off n == 0

/-- A 0 or 1 for a flag. -/
def b2n (b : Bool) : Nat := if b then 1 else 0

/-- `n` zero bytes. -/
def zeros (n : Nat) : Bytes := List.replicate n 0

/-- The two's complement value of the low `w` bits. -/
def signed (w v : Nat) : Int :=
  let u := v % 2 ^ w
  if u < 2 ^ (w - 1) then u else (u : Int) - 2 ^ w

/-- An integer as `w` bits of two's complement. -/
def unsigned (w : Nat) (i : Int) : Nat := (i % (2 ^ w : Nat)).toNat

/-- Round a quotient up. -/
def ceilDiv (a b : Nat) : Nat := (a + b - 1) / b

/-- The least `n` with `2^n ≥ v`, at most `fuel`. -/
def log2Up (v : Nat) : Nat := if v ≤ 1 then 0 else Nat.log2 (v - 1) + 1

/-! ### Hashes (R102) -/

/-- `mix` of R102, on 64-bit values. -/
def mix (id seed : Nat) : Nat :=
  let x := (id ^^^ seed) % 2 ^ 64
  let x := (0xFF51AFD7ED558CCD * (x ^^^ (x >>> 33))) % 2 ^ 64
  let x := (0xC4CEB9FE1A85EC53 * (x ^^^ (x >>> 33))) % 2 ^ 64
  x ^^^ (x >>> 33)

/-- `reduce` of R102. -/
def reduce (h n : Nat) : Nat := (h * n) >>> 64

/-! ### CRC-32C (Castagnoli; R238, R240, R255, R426) -/

/-- One bit step of the reflected CRC-32C. -/
def crcBit (c : Nat) : Nat := if c % 2 = 1 then (c >>> 1) ^^^ 0x82F63B78 else c >>> 1

/-- The CRC register after one byte. -/
def crcByte (c : Nat) (b : Byte) : Nat :=
  crcBit (crcBit (crcBit (crcBit (crcBit (crcBit (crcBit (crcBit (c ^^^ b.toNat))))))))

/-- CRC-32C of a byte string. -/
def crc32c (b : Bytes) : Nat := (b.foldl crcByte 0xFFFFFFFF) ^^^ 0xFFFFFFFF

/-! ### The state's parts -/

/-- The GTC count as a number. -/
def State.now (s : State) : Nat := s.gtc.count.toNat

/-- A later count minus an earlier one, in the 64-bit count (R448). -/
def since (now t : Nat) : Nat := (2 ^ 64 + now - t % 2 ^ 64) % 2 ^ 64

/-- Send something out of the block. -/
def State.emit (s : State) (o : Out) : State := { s with out := s.out ++ [o] }

/-- Draw a free number. -/
def State.draw (s : State) : Nat × State := (Config.freeNat s.free, { s with free := s.free + 1 })

/-- Take a fresh number for a request in flight. -/
def State.fresh (s : State) : Nat × State := (s.nextId, { s with nextId := s.nextId + 1 })

/-- The key of counter `k` of entry index:sub. -/
def ctrKey (ix sub k : Nat) : Nat := (ix * 256 + sub) * 16 + k

/-- A counter's value. -/
def State.count (s : State) (ix sub k : Nat) : Nat := sget 0 s.ctr (ctrKey ix sub k)

/-- Add to a counter; it saturates at `top` (R34). -/
def State.countUpTo (s : State) (top ix sub k n : Nat) : State :=
  { s with ctr := sset 0 s.ctr (ctrKey ix sub k) (min top (s.count ix sub k + n)) }

/-- Add to a U64 counter (R34). -/
def State.bump (s : State) (ix sub k : Nat) (n : Nat := 1) : State :=
  s.countUpTo (2 ^ 64 - 1) ix sub k n

/-- The ARITH frequency of an operating point, in Hz (Table 9.6). -/
def pointHz (point : Nat) : Nat := if point = 0 then 1200000000 else if point = 1 then 1000000000 else 800000000

/-- The ARITH clock stands still while it is retuned, and every tile with it (R463). -/
def State.arithStopped (s : State) : Bool := s.pcs.retune.isSome && s.pcs.clkReq.contains .arith

/-- ARITH cycles since reset, in units of 10^-9, at the f that ARITH ran at over each interval (R9). -/
def State.arithTicks (s : State) : Nat :=
  s.pcs.arithSum + if s.arithStopped then 0 else since s.now s.pcs.arithAt * pointHz s.pcs.fPoint

/-- The ARITH cycles of a cabinet's tiles, in units of 10^-9: none run while its clock is gated (R459). -/
def State.cabTicks (s : State) (k : Nat) : Nat :=
  s.arithTicks - (sget 0 s.pcs.gatedSum k + ((sfind s.pcs.gateAt k).map (fun a => s.arithTicks - a)).getD 0)

/-- A cabinet's ARITH clock stops, and runs again. -/
def State.gateClock (s : State) (k : Nat) : State :=
  if (sfind s.pcs.gateAt k).isSome then s else { s with pcs := { s.pcs with gateAt := sput s.pcs.gateAt k s.arithTicks } }
def State.runClock (s : State) (k : Nat) : State :=
  match sfind s.pcs.gateAt k with
  | some a => { s with pcs := { s.pcs with gateAt := sdel s.pcs.gateAt k,
                                           gatedSum := sput s.pcs.gatedSum k (sget 0 s.pcs.gatedSum k + (s.arithTicks - a)) } }
  | none => s

/-- The ARITH cycles of a tile's cabinet. -/
def State.tileTicks (s : State) (t : Nat) : Nat := s.cabTicks (t / 8)

/-- One timing choice on a cabinet (R254); a locked run there counts its own (R255), whatever DET_CLEAR does. -/
def State.cabChoice (s : State) (k : Nat) : State :=
  let l := s.sched.lock
  let s := s.bump 0x5A01 k 0
  if l.phase = 2 && l.cab = k then
    { s with sched := { s.sched with lock := { l with choices := min (2 ^ 64 - 1) (l.choices + 1) } } }
  else s

/-- Zero the counters of the entries index:sub with sub in a range. -/
def State.clearCtr (s : State) (ix sub0 sub1 : Nat) : State :=
  { s with ctr := s.ctr.filter (fun p => !(ctrKey ix sub0 0 ≤ p.1 && p.1 < ctrKey ix sub1 0 + 16)) }

/-- `n` counters of an entry as little-endian U64 values. -/
def State.ctrBytes (s : State) (ix sub n : Nat) : Bytes :=
  (List.range n).flatMap (fun k => natLe (s.count ix sub k) 8)

def State.tile (s : State) (t : Nat) : Tile := sget {} s.tiles.tile t
def State.setTile (s : State) (t : Nat) (x : Tile) : State :=
  { s with tiles := { s.tiles with tile := sset {} s.tiles.tile t x } }

/-- No context is picked from here on; a context is picked: IDLE_CYCLES counts the cycles between (R235). -/
def Tile.rest (x : Tile) (now : Nat) : Tile := if x.active.isSome then { x with active := none, idleAt := now } else x
def Tile.take (x : Tile) (now c : Nat) : Tile :=
  if x.active.isNone then { x with active := some c, idle := x.idle + (now - x.idleAt) } else { x with active := some c }

/-- IDLE_CYCLES of a tile. -/
def State.idleCycles (s : State) (t : Nat) : Nat :=
  let x := s.tile t
  (x.idle + (if x.active.isNone then s.tileTicks t - x.idleAt else 0)) / 1000000000

/-- TILE_CLEAR zeroes it. -/
def State.idleClear (s : State) (t : Nat) : State := s.setTile t { s.tile t with idle := 0, idleAt := s.tileTicks t }

def Tile.ctx (t : Tile) (c : Nat) : Ctx := sget {} t.ctxs c
def Tile.setCtx (t : Tile) (c : Nat) (x : Ctx) : Tile := { t with ctxs := sset {} t.ctxs c x }

def State.gpe (s : State) (g : Nat) : Gpe := sget {} s.gpes g
def State.setGpe (s : State) (g : Nat) (x : Gpe) : State :=
  { s with gpes := sset {} s.gpes g x }

def State.hse (s : State) (c : Nat) : Hse := sget {} s.hses c
def State.setHse (s : State) (c : Nat) (x : Hse) : State := { s with hses := sset {} s.hses c x }

def State.port (s : State) (p : Nat) : Hlc := sget {} s.hlc p
def State.setPort (s : State) (p : Nat) (x : Hlc) : State := { s with hlc := sset {} s.hlc p x }

def State.fport (s : State) (p : Nat) : FabPort := sget {} s.fab.ports p
def State.setFport (s : State) (p : Nat) (x : FabPort) : State :=
  { s with fab := { s.fab with ports := sset {} s.fab.ports p x } }

def State.slice (s : State) (i : Nat) : Slice := sget {} s.coh.slices i
def State.setSlice (s : State) (i : Nat) (x : Slice) : State :=
  { s with coh := { s.coh with slices := sset {} s.coh.slices i x } }

def State.queue (s : State) (q : Nat) : Queue := sget {} s.sqe.queues q
def State.setQueue (s : State) (q : Nat) (x : Queue) : State :=
  { s with sqe := { s.sqe with queues := sset {} s.sqe.queues q x } }

def State.cls (s : State) (c : Nat) : ClassSt := sget {} s.sqe.classes c
def State.setCls (s : State) (c : Nat) (x : ClassSt) : State :=
  { s with sqe := { s.sqe with classes := sset {} s.sqe.classes c x } }

def State.req (s : State) (r : Nat) : Request := sget {} s.sqe.reqs r
def State.setReq (s : State) (r : Nat) (x : Request) : State :=
  { s with sqe := { s.sqe with reqs := sset {} s.sqe.reqs r x } }

def State.prog (s : State) (p : Nat) : ProgSlot := sget {} s.sched.progs p
def State.setProg (s : State) (p : Nat) (x : ProgSlot) : State :=
  { s with sched := { s.sched with progs := sset {} s.sched.progs p x } }

def State.cab (s : State) (c : Nat) : Cabinet := sget {} s.sched.cabs c

/-- The cabinet has work that keeps it from the clock-gated level (Table 16.5): a bound frame, a queued request, a swap or a locked
run. -/
def Cabinet.busy (x : Cabinet) : Bool := x.draining || x.locked || !x.dispatch.isEmpty || x.frames.any (fun f => f.2.req.isSome)

/-- A cabinet's new state; the count since which it has had no work starts anew while it has some (IDLE_HOLD, R467). -/
def State.setCab (s : State) (c : Nat) (x : Cabinet) : State :=
  { s with sched := { s.sched with cabs := sset {} s.sched.cabs c x },
           pcs := { s.pcs with idleSince := if (s.cab c).busy || x.busy then sput s.pcs.idleSince c s.now else s.pcs.idleSince } }

def State.table (s : State) (t : Nat) : EpochSt := sget {} s.epm.tables t
def State.setTable (s : State) (t : Nat) (x : EpochSt) : State :=
  { s with epm := { s.epm with tables := sset {} s.epm.tables t x } }

def State.ring (s : State) (r : Nat) : RingSt := sget {} s.epm.rings r
def State.setRing (s : State) (r : Nat) (x : RingSt) : State :=
  { s with epm := { s.epm with rings := sset {} s.epm.rings r x } }

def State.evRing (s : State) (r : Nat) : RingSt := sget {} s.ssu.rings r
def State.setEvRing (s : State) (r : Nat) (x : RingSt) : State :=
  { s with ssu := { s.ssu with rings := sset {} s.ssu.rings r x } }

def State.drawer (s : State) (k : Nat) : Drawer := sget {} s.ssu.drawers k
def State.setDrawer (s : State) (k : Nat) (x : Drawer) : State :=
  { s with ssu := { s.ssu with drawers := sset {} s.ssu.drawers k x } }

def State.fq (s : State) (p : Nat) : FaultQ := sget {} s.mtu.fq p
def State.setFq (s : State) (p : Nat) (x : FaultQ) : State :=
  { s with mtu := { s.mtu with fq := sset {} s.mtu.fq p x } }

/-- The cabinet of a tile (R14). -/
def cabOf (tile : Nat) : Nat := tile / 8

end Sys2Proof.Machine
end

