-- ==== Sys2Proof/Machine/Dict.lean ====
section
/-! DEFINITION. The object dictionary's entries: the table of every entry (Table 18.2) with its fixed properties, and the store
of the entries that software writes. -/
namespace Sys2Proof.Machine

/-- The entries of Table 18.2; an entry of several instances appears once. -/
inductive Ent where
  /-- CAP_ROM (R503). -/
  | capRom
  /-- VARIANT (R503). -/
  | variant
  /-- MASK_REV (R503). -/
  | maskRev
  /-- ROM_DIGEST (R503). -/
  | romDigest
  /-- STAGE_OWNER (R64). -/
  | stageOwner
  /-- STAGE_OWNER_NODE (R64). -/
  | stageOwnerNode
  /-- STAGE_ENTRIES (R64). -/
  | stageEntries
  /-- STAGE_BYTES (R64). -/
  | stageBytes
  /-- STAGE_DISCARDS (R52, R64). -/
  | stageDiscards
  /-- LAST_REFUSAL (R64). -/
  | lastRefusal
  /-- REFUSAL_COUNT (R64). -/
  | refusalCount
  /-- CLEAR_REFUSALS (R64). -/
  | clearRefusals
  /-- STAGE_LEASE (R52). -/
  | stageLease
  /-- CLAIM_LEASE (R48). -/
  | claimLease
  /-- FABRIC_MGR_NODE (R37). -/
  | fabricMgrNode
  /-- ODS_STATE (R64). -/
  | odsState
  /-- EVENT_ENABLE_Hx (R64). -/
  | eventEnable
  /-- CLAIM_SLOT (R64). -/
  | claimSlot
  /-- TRESTLE_SLOT (Table 2.10). -/
  | trestleSlot
  /-- PORT_STATE of a host port (R420). -/
  | portState
  /-- PORT_COUNTS of a host port (R420). -/
  | portCounts
  /-- PORT_CLEAR (R420). -/
  | portClear
  /-- MBX_VECTOR (R402). -/
  | mbxVector
  /-- HDM_WINDOW (R403). -/
  | hdmWindow
  /-- HDM_MOVE (R405). -/
  | hdmMove
  /-- HDM_STATE (R420). -/
  | hdmState
  /-- MOVE_RATE (R406). -/
  | moveRate
  /-- STAGE_CFG (R408). -/
  | stageCfg
  /-- LOST_SUMMARY (R417). -/
  | lostSummary
  /-- LOST_LOG (R417). -/
  | lostLog
  /-- LOST_CLEAR (R420). -/
  | lostClear
  /-- QUEUE_RESUME (R288). -/
  | queueResume
  /-- QUEUE_CLEAR (R288). -/
  | queueClear
  /-- SQ_CFG (R261). -/
  | sqCfg
  /-- QUEUE_STATUS (R288). -/
  | queueStatus
  /-- QUEUE_COUNTS (R288). -/
  | queueCounts
  /-- HBM_CFG (R314). -/
  | hbmCfg
  /-- HBM_STATE (R314). -/
  | hbmState
  /-- PC_SPARE (R304). -/
  | pcSpare
  /-- CARVE_FLUSH (R298). -/
  | carveFlush
  /-- CARVE_COUNTS (R314). -/
  | carveCounts
  /-- HBM_CLEAR (R314). -/
  | hbmClear
  /-- STACK_STATUS (R314). -/
  | stackStatus
  /-- STACK_COUNTS (R314). -/
  | stackCounts
  /-- CAP_CFG (R314). -/
  | capCfg
  /-- CAP_STATE (R314). -/
  | capState
  /-- RANK_SPARE (R304). -/
  | rankSpare
  /-- CAP_CLEAR (R314). -/
  | capClear
  /-- CHAN_STATUS (R314). -/
  | chanStatus
  /-- CHAN_COUNTS (R314). -/
  | chanCounts
  /-- DCA_ENABLE (R325). -/
  | dcaEnable
  /-- DCA_INVALIDATE (R324). -/
  | dcaInvalidate
  /-- DCA_STATE (R340). -/
  | dcaState
  /-- DCA_CLEAR (R340). -/
  | dcaClear
  /-- SLICE_COUNTS (R340). -/
  | sliceCounts
  /-- BG_WHEEL (R308). -/
  | bgWheel
  /-- SCRUB_PERIOD (R309). -/
  | scrubPeriod
  /-- BG_COUNTS (R314). -/
  | bgCounts
  /-- BG_CLEAR (R314). -/
  | bgClear
  /-- BG_DEBT (R314). -/
  | bgDebt
  /-- BI_TIMEOUT (R334). -/
  | biTimeout
  /-- SNF_STATE (R340). -/
  | snfState
  /-- SNF_COUNTS (R340). -/
  | snfCounts
  /-- ATOM_CFG (R338). -/
  | atomCfg
  /-- ATOM_COUNTS (R340). -/
  | atomCounts
  /-- COH_CLEAR (R340). -/
  | cohClear
  /-- MTU_STATE (R392). -/
  | mtuState
  /-- MTU_COUNTS (R392). -/
  | mtuCounts
  /-- MTU_CLEAR (R392). -/
  | mtuClear
  /-- MIG_CFG (R392). -/
  | migCfg
  /-- GRANULE_SET (R376). -/
  | granuleSet
  /-- GRANULE_QUERY (R392). -/
  | granuleQuery
  /-- GRANULE_RESULT (R392). -/
  | granuleResult
  /-- INV_SLOT (R383). -/
  | invSlot
  /-- INV_STATUS (R392). -/
  | invStatus
  /-- CTX_CFG (R392). -/
  | ctxCfg
  /-- CTX_FAULT (R392). -/
  | ctxFault
  /-- CTX_FAULT_CLEAR (R392). -/
  | ctxFaultClear
  /-- FQ_CFG (R392). -/
  | fqCfg
  /-- FQ_HEAD (R392). -/
  | fqHead
  /-- FQ_STATUS (R392). -/
  | fqStatus
  /-- REGION_ATTR (R341). -/
  | regionAttr
  /-- RES_GRANULE (R364). -/
  | resGranule
  /-- ORDER_COUNTS (R364). -/
  | orderCounts
  /-- ORDER_CLEAR (R364). -/
  | orderClear
  /-- PROG_LOAD (R259). -/
  | progLoad
  /-- PROG_UNLOAD (R259). -/
  | progUnload
  /-- PROG_STORE_CFG (R259). -/
  | progStoreCfg
  /-- LOAD_RESULT (R259). -/
  | loadResult
  /-- CAB_CLEAR (R259). -/
  | cabClear
  /-- PROG_INFO (R259). -/
  | progInfo
  /-- CAB_STATE (R259). -/
  | cabState
  /-- CAB_COUNTS (R259). -/
  | cabCounts
  /-- FRAME_MAP (R259). -/
  | frameMap
  /-- TILE_STATE (R235). -/
  | tileState
  /-- TILE_PHYS (R235). -/
  | tilePhys
  /-- TILE_COUNTS (R235). -/
  | tileCounts
  /-- CTX_STATE (R235). -/
  | ctxState
  /-- TILE_CLEAR (R235). -/
  | tileClear
  /-- TILE_SWAP (R231). -/
  | tileSwap
  /-- SWAP_STATUS (R235). -/
  | swapStatus
  /-- SPARE_STATE (R235). -/
  | spareState
  /-- PHYS_MAP (R235). -/
  | physMap
  /-- NUM_CLEAR (R94). -/
  | numClear
  /-- NUM_COUNTS (R93). -/
  | numCounts
  /-- HIST_SLOT (R93). -/
  | histSlot
  /-- HIST_CLEAR (R94). -/
  | histClear
  /-- LOCK_RUN (R255). -/
  | lockRun
  /-- LOCK_RESULT (R259). -/
  | lockResult
  /-- DET_CLEAR (R259). -/
  | detClear
  /-- TIMING_CHOICES (R254). -/
  | timingChoices
  /-- GPE_CLEAR (R132). -/
  | gpeClear
  /-- GPE_COUNTS (R131). -/
  | gpeCounts
  /-- PD_TIMEOUT (R126). -/
  | pdTimeout
  /-- TABLE_CLEAR (R132). -/
  | tableClear
  /-- TABLE_DESC (R98). -/
  | tableDesc
  /-- SHARD_MAP (R119). -/
  | shardMap
  /-- TABLE_COUNTS (R131). -/
  | tableCounts
  /-- EPM_FLIP (R156). -/
  | epmFlip
  /-- EPM_DISCARD (R168). -/
  | epmDiscard
  /-- RING_RESUME (R172). -/
  | ringResume
  /-- EPM_RESUME_TABLE (R167). -/
  | epmResumeTable
  /-- EPM_GEN (R134). -/
  | epmGen
  /-- DRAIN_GRACE (R163). -/
  | drainGrace
  /-- EPM_COUNTS (R172). -/
  | epmCounts
  /-- FLIP_RESULT (R156). -/
  | flipResult
  /-- RING_CFG (R172). -/
  | ringCfg
  /-- RING_TAIL (R146). -/
  | ringTail
  /-- RING_STATUS (R172). -/
  | ringStatus
  /-- EPOCH_CFG (R171). -/
  | epochCfg
  /-- EPOCH_STATE (R172). -/
  | epochState
  /-- SSU_SEED (R173). -/
  | ssuSeed
  /-- SPILL_CFG (R199). -/
  | spillCfg
  /-- SESSION_TTL (R189). -/
  | sessionTtl
  /-- SSU_COUNTS (R199). -/
  | ssuCounts
  /-- SSU_CLEAR (R199). -/
  | ssuClear
  /-- SSU_RESUME (R199). -/
  | ssuResume
  /-- SESSION_QUERY (R199). -/
  | sessionQuery
  /-- SESSION_RESULT (R199). -/
  | sessionResult
  /-- RING_CLASS (R180). -/
  | ringClass
  /-- EV_RING_CFG (R199). -/
  | evRingCfg
  /-- EV_RING_TAIL (R183). -/
  | evRingTail
  /-- EV_RING_STATUS (R199). -/
  | evRingStatus
  /-- HSE_COUNTS (R199). -/
  | hseCounts
  /-- CLASS_USE (R199). -/
  | classUse
  /-- ADM_CFG (R288). -/
  | admCfg
  /-- PD_IN_BOUND (R283). -/
  | pdInBound
  /-- CLASS_CLEAR (R288). -/
  | classClear
  /-- CLASS_CFG (R273). -/
  | classCfg
  /-- CLASS_COUNTS (R288). -/
  | classCounts
  /-- CLASS_BOUND (R281). -/
  | classBound
  /-- NODE_ID (R458). -/
  | nodeId
  /-- GFR_CFG (R458). -/
  | gfrCfg
  /-- GFR_STATE (R458). -/
  | gfrState
  /-- GFR_COUNTS (R458). -/
  | gfrCounts
  /-- GFR_CLEAR (R458). -/
  | gfrClear
  /-- ROUTE (R435). -/
  | route
  /-- BCAST_MASK (R444). -/
  | bcastMask
  /-- PORT_CFG of a fabric port (R458). -/
  | fportCfg
  /-- PORT_STATE of a fabric port (R458). -/
  | fportState
  /-- PORT_COUNTS of a fabric port (R458). -/
  | fportCounts
  /-- PORT_RESET (R458). -/
  | portReset
  /-- HP_CTL (R458). -/
  | hpCtl
  /-- HP_STATUS (R458). -/
  | hpStatus
  /-- HP_CLEAR (R458). -/
  | hpClear
  /-- LANE_SPARE (R458). -/
  | laneSpare
  /-- HOP_SEEN_MAX (R447). -/
  | hopSeenMax
  /-- WINDOW (R422). -/
  | window
  /-- PCS_STATE (R483). -/
  | pcsState
  /-- TOL_LAT_Hx (R467). -/
  | tolLat
  /-- TOL_LAT_MGR (R467). -/
  | tolLatMgr
  /-- IDLE_CFG (R483). -/
  | idleCfg
  /-- CAP_POINT (R462). -/
  | capPoint
  /-- CAP_REPORT (R465). -/
  | capReport
  /-- BLK_RESET (R478). -/
  | blkReset
  /-- CHIP_RESET_REQ (R478). -/
  | chipResetReq
  /-- WAKE_EN_Hx (R483). -/
  | wakeEn
  /-- STRAPS (R477). -/
  | straps
  /-- START_STATE (R483). -/
  | startState
  /-- SENSORS (R483). -/
  | sensors
  /-- PCS_COUNTS (R483). -/
  | pcsCounts
  /-- PCS_CLEAR (R483). -/
  | pcsClear
  /-- GTC_NOW (R458). -/
  | gtcNow
  /-- GTC_CFG (R458). -/
  | gtcCfg
  /-- GTC_STATE (R458). -/
  | gtcState
  /-- GTC_COUNTS (R458). -/
  | gtcCounts
  /-- GTC_CLEAR (R458). -/
  | gtcClear
  /-- FAULT_STATUS (R487). -/
  | faultStatus
  /-- FIRST_ERROR (R489). -/
  | firstError
  /-- FAULT_COUNTS (R487). -/
  | faultCounts
  /-- REACTION (R492). -/
  | reaction
  /-- FAULT_IRQ_Hx (R487). -/
  | faultIrq
  /-- FAULT_CLEAR (R491). -/
  | faultClear
  /-- BLOCK_FAULT (R488). -/
  | blockFault
  deriving DecidableEq, Repr

/-- The types of Table 2.2. -/
inductive Ty where
  | u8 | u16 | u32 | u64 | bool | bits | blob | cmd
  deriving DecidableEq, Repr

/-- The access codes of R33. No entry of Table 18.2 is WO. -/
inductive Acc where
  | ro | rw | rwq | cmd
  deriving DecidableEq, Repr

/-- The reset classes of R11, with the port of a port-bound one; `porRet` is POR with the mark ret. -/
inductive Rst where
  | none_
  | flr (x : Nat)
  | hl (x : Nat)
  | fp (x : Nat)
  | blk | d3c | por | porRet
  deriving DecidableEq, Repr

/-- A row of the entry table: indices lo to hi in steps, subindices s0 to s1, and the properties of R28. `paths` has bit 0
for H, bit 1 for O, bit 2 for F. -/
structure EntRow where
  ent   : Ent
  lo    : Nat
  hi    : Nat
  step  : Nat
  s0    : Nat
  s1    : Nat
  ty    : Ty
  size  : Nat
  acc   : Acc
  rst   : Rst
  paths : Nat
  dflt  : Bytes
  deriving DecidableEq, Repr

/-- The default wheel of R308. -/
def defaultWheel : Bytes := [1, 2, 3, 4, 1, 2, 3, 5, 1, 2, 3, 4, 1, 2, 3, 5]

/-- The Default column of Table 17.7 as reaction bytes (Table 17.5), by unit code. -/
def reactionDefaults : Nat → Bytes
  | 0 => [1, 1, 1, 9, 9, 1, 1, 3, 3]
  | 1 => [3, 0, 17, 1]
  | 2 => [0, 1, 0, 9, 13]
  | 3 => [0, 13]
  | 4 => [1, 1, 13, 17]
  | 5 => [9, 1, 0, 1]
  | 6 => [1, 0, 17]
  | 7 => [0, 1, 1, 3, 3]
  | 8 => [0, 1, 1, 1, 3]
  | 9 => [0, 1, 1, 1, 1]
  | 10 => [1, 0, 9, 3]
  | 11 => [1, 0, 0, 9]
  | 12 => [1, 0, 0, 9]
  | 13 => [1, 1, 1, 1, 0, 9, 17]
  | 14 => [1, 1, 0]
  | _ => []

/-- REACTION's default: the listed bytes, then zeros. -/
def reactionDefault (u : Nat) : Bytes := bytesAt (reactionDefaults u) 0 64

/-- Rows of Table 18.2, part 0. -/
def entRows0 : List EntRow := [
  ⟨.capRom, 0x1000, 0x1000, 0x1, 0x0, 0x0, .blob, 432, .ro, .por, 7, []⟩,
  ⟨.variant, 0x1000, 0x1000, 0x1, 0x1, 0x1, .u64, 8, .ro, .por, 7, []⟩,
  ⟨.maskRev, 0x1000, 0x1000, 0x1, 0x2, 0x2, .u16, 2, .ro, .por, 7, []⟩,
  ⟨.romDigest, 0x1000, 0x1000, 0x1, 0x3, 0x3, .blob, 48, .ro, .por, 7, []⟩,
  ⟨.stageOwner, 0x1100, 0x1100, 0x1, 0x0, 0x0, .u8, 1, .ro, .blk, 7, []⟩,
  ⟨.stageOwnerNode, 0x1100, 0x1100, 0x1, 0x1, 0x1, .u16, 2, .ro, .blk, 7, []⟩,
  ⟨.stageEntries, 0x1100, 0x1100, 0x1, 0x2, 0x2, .u16, 2, .ro, .blk, 7, []⟩,
  ⟨.stageBytes, 0x1100, 0x1100, 0x1, 0x3, 0x3, .u32, 4, .ro, .blk, 7, []⟩,
  ⟨.stageDiscards, 0x1100, 0x1100, 0x1, 0x4, 0x4, .u32, 4, .ro, .blk, 7, []⟩,
  ⟨.lastRefusal, 0x1101, 0x1101, 0x1, 0x0, 0x0, .blob, 32, .ro, .blk, 7, []⟩,
  ⟨.refusalCount, 0x1101, 0x1101, 0x1, 0x1, 0x1, .u32, 4, .ro, .blk, 7, []⟩,
  ⟨.clearRefusals, 0x1101, 0x1101, 0x1, 0x2, 0x2, .cmd, 0, .cmd, .none_, 7, []⟩,
  ⟨.stageLease, 0x1102, 0x1102, 0x1, 0x0, 0x0, .u32, 4, .rw, .blk, 7, (natLe 10000 4)⟩,
  ⟨.claimLease, 0x1103, 0x1103, 0x1, 0x0, 0x0, .u32, 4, .rw, .blk, 7, (natLe 10000 4)⟩,
  ⟨.fabricMgrNode, 0x1104, 0x1104, 0x1, 0x0, 0x0, .u16, 2, .rw, .porRet, 3, (natLe 65535 2)⟩,
  ⟨.odsState, 0x1105, 0x1105, 0x1, 0x0, 0x0, .bits, 4, .ro, .blk, 7, []⟩,
  ⟨.eventEnable, 0x1106, 0x1106, 0x1, 0x0, 0x0, .bits, 4, .rw, (.flr 0), 1, []⟩,
  ⟨.eventEnable, 0x1106, 0x1106, 0x1, 0x1, 0x1, .bits, 4, .rw, (.flr 1), 1, []⟩,
  ⟨.claimSlot, 0x1110, 0x1110, 0x1, 0x0, 0xF, .blob, 16, .ro, .blk, 7, []⟩,
  ⟨.trestleSlot, 0x1120, 0x1120, 0x1, 0x0, 0x7, .blob, 32, .ro, .blk, 7, []⟩,
  ⟨.portState, 0x2000, 0x2000, 0x1, 0x0, 0x0, .blob, 16, .ro, .blk, 7, []⟩,
  ⟨.portCounts, 0x2000, 0x2000, 0x1, 0x1, 0x1, .blob, 64, .ro, .blk, 7, []⟩,
  ⟨.portClear, 0x2000, 0x2000, 0x1, 0x2, 0x2, .cmd, 0, .cmd, .none_, 7, []⟩,
  ⟨.mbxVector, 0x2000, 0x2000, 0x1, 0x3, 0x3, .u8, 1, .rw, (.flr 0), 1, []⟩,
  ⟨.hdmWindow, 0x2010, 0x2010, 0x1, 0x0, 0x0, .blob, 16, .rwq, .blk, 7, []⟩,
  ⟨.hdmMove, 0x2010, 0x2010, 0x1, 0x1, 0x1, .cmd, 16, .cmd, .none_, 7, []⟩,
  ⟨.hdmState, 0x2010, 0x2010, 0x1, 0x2, 0x2, .blob, 32, .ro, .d3c, 7, []⟩,
  ⟨.moveRate, 0x2010, 0x2010, 0x1, 0x3, 0x3, .u16, 2, .rw, .blk, 7, (natLe 50 2)⟩,
  ⟨.stageCfg, 0x2020, 0x2020, 0x1, 0x0, 0x0, .blob, 16, .rw, (.hl 0), 7, []⟩,
  ⟨.lostSummary, 0x2180, 0x2180, 0x1, 0x0, 0x0, .blob, 32, .ro, .d3c, 7, []⟩,
  ⟨.lostLog, 0x2180, 0x2180, 0x1, 0x1, 0x1, .blob, 4096, .ro, .d3c, 7, []⟩,
  ⟨.lostClear, 0x2180, 0x2180, 0x1, 0x2, 0x2, .cmd, 0, .cmd, .none_, 7, []⟩,
  ⟨.portState, 0x2200, 0x2200, 0x1, 0x0, 0x0, .blob, 16, .ro, .blk, 7, []⟩,
  ⟨.portCounts, 0x2200, 0x2200, 0x1, 0x1, 0x1, .blob, 64, .ro, .blk, 7, []⟩,
  ⟨.portClear, 0x2200, 0x2200, 0x1, 0x2, 0x2, .cmd, 0, .cmd, .none_, 7, []⟩,
  ⟨.mbxVector, 0x2200, 0x2200, 0x1, 0x3, 0x3, .u8, 1, .rw, (.flr 1), 1, []⟩,
  ⟨.hdmWindow, 0x2210, 0x2210, 0x1, 0x0, 0x0, .blob, 16, .rwq, .blk, 7, []⟩,
  ⟨.hdmMove, 0x2210, 0x2210, 0x1, 0x1, 0x1, .cmd, 16, .cmd, .none_, 7, []⟩,
  ⟨.hdmState, 0x2210, 0x2210, 0x1, 0x2, 0x2, .blob, 32, .ro, .d3c, 7, []⟩,
  ⟨.moveRate, 0x2210, 0x2210, 0x1, 0x3, 0x3, .u16, 2, .rw, .blk, 7, (natLe 50 2)⟩]

/-- Rows of Table 18.2, part 1. -/
def entRows1 : List EntRow := [
  ⟨.stageCfg, 0x2220, 0x2220, 0x1, 0x0, 0x0, .blob, 16, .rw, (.hl 1), 7, []⟩,
  ⟨.lostSummary, 0x2380, 0x2380, 0x1, 0x0, 0x0, .blob, 32, .ro, .d3c, 7, []⟩,
  ⟨.lostLog, 0x2380, 0x2380, 0x1, 0x1, 0x1, .blob, 4096, .ro, .d3c, 7, []⟩,
  ⟨.lostClear, 0x2380, 0x2380, 0x1, 0x2, 0x2, .cmd, 0, .cmd, .none_, 7, []⟩,
  ⟨.queueResume, 0x2800, 0x2800, 0x1, 0x0, 0x0, .cmd, 1, .cmd, .none_, 1, []⟩,
  ⟨.queueClear, 0x2800, 0x2800, 0x1, 0x1, 0x1, .cmd, 2, .cmd, .none_, 1, []⟩,
  ⟨.sqCfg, 0x2801, 0x2801, 0x1, 0x0, 0x7F, .blob, 32, .rwq, (.flr 0), 1, []⟩,
  ⟨.queueStatus, 0x2802, 0x2802, 0x1, 0x0, 0x7F, .blob, 16, .ro, (.flr 0), 7, []⟩,
  ⟨.queueCounts, 0x2803, 0x2803, 0x1, 0x0, 0x7F, .blob, 32, .ro, (.flr 0), 7, []⟩,
  ⟨.sqCfg, 0x2801, 0x2801, 0x1, 0x80, 0xFF, .blob, 32, .rwq, (.flr 1), 1, []⟩,
  ⟨.queueStatus, 0x2802, 0x2802, 0x1, 0x80, 0xFF, .blob, 16, .ro, (.flr 1), 7, []⟩,
  ⟨.queueCounts, 0x2803, 0x2803, 0x1, 0x80, 0xFF, .blob, 32, .ro, (.flr 1), 7, []⟩,
  ⟨.hbmCfg, 0x3000, 0x3000, 0x1, 0x0, 0x0, .blob, 16, .rwq, .blk, 7, []⟩,
  ⟨.hbmState, 0x3000, 0x3000, 0x1, 0x1, 0x1, .blob, 16, .ro, .blk, 7, []⟩,
  ⟨.pcSpare, 0x3000, 0x3000, 0x1, 0x2, 0x2, .cmd, 2, .cmd, .none_, 7, []⟩,
  ⟨.carveFlush, 0x3000, 0x3000, 0x1, 0x3, 0x3, .cmd, 0, .cmd, .none_, 7, []⟩,
  ⟨.carveCounts, 0x3000, 0x3000, 0x1, 0x4, 0x4, .blob, 32, .ro, .blk, 7, []⟩,
  ⟨.hbmClear, 0x3000, 0x3000, 0x1, 0x5, 0x5, .cmd, 0, .cmd, .none_, 7, []⟩,
  ⟨.stackStatus, 0x3001, 0x3001, 0x1, 0x0, 0x7, .blob, 64, .ro, .d3c, 7, []⟩,
  ⟨.stackCounts, 0x3002, 0x3002, 0x1, 0x0, 0x7, .blob, 32, .ro, .blk, 7, []⟩,
  ⟨.capCfg, 0x3100, 0x3100, 0x1, 0x0, 0x0, .blob, 16, .rwq, .blk, 7, []⟩,
  ⟨.capState, 0x3100, 0x3100, 0x1, 0x1, 0x1, .blob, 16, .ro, .blk, 7, []⟩,
  ⟨.rankSpare, 0x3100, 0x3100, 0x1, 0x2, 0x2, .cmd, 2, .cmd, .none_, 7, []⟩,
  ⟨.capClear, 0x3100, 0x3100, 0x1, 0x3, 0x3, .cmd, 0, .cmd, .none_, 7, []⟩,
  ⟨.chanStatus, 0x3101, 0x3101, 0x1, 0x0, 0xB, .blob, 16, .ro, .d3c, 7, []⟩,
  ⟨.chanCounts, 0x3102, 0x3102, 0x1, 0x0, 0xB, .blob, 32, .ro, .blk, 7, []⟩,
  ⟨.dcaEnable, 0x3200, 0x3200, 0x1, 0x0, 0x0, .bool, 1, .rw, .blk, 7, []⟩,
  ⟨.dcaInvalidate, 0x3200, 0x3200, 0x1, 0x1, 0x1, .cmd, 0, .cmd, .none_, 7, []⟩,
  ⟨.dcaState, 0x3200, 0x3200, 0x1, 0x2, 0x2, .blob, 16, .ro, .d3c, 7, []⟩,
  ⟨.dcaClear, 0x3200, 0x3200, 0x1, 0x3, 0x3, .cmd, 0, .cmd, .none_, 7, []⟩,
  ⟨.sliceCounts, 0x3201, 0x3201, 0x1, 0x0, 0xF, .blob, 64, .ro, .blk, 7, []⟩,
  ⟨.bgWheel, 0x3300, 0x3300, 0x1, 0x0, 0x0, .blob, 32, .rw, .blk, 7, (defaultWheel ++ defaultWheel)⟩,
  ⟨.scrubPeriod, 0x3300, 0x3300, 0x1, 0x1, 0x1, .u32, 4, .rw, .blk, 7, (natLe 86400 4)⟩,
  ⟨.bgCounts, 0x3300, 0x3300, 0x1, 0x2, 0x2, .blob, 96, .ro, .blk, 7, []⟩,
  ⟨.bgClear, 0x3300, 0x3300, 0x1, 0x3, 0x3, .cmd, 0, .cmd, .none_, 7, []⟩,
  ⟨.bgDebt, 0x3301, 0x3301, 0x1, 0x0, 0x13, .blob, 16, .ro, .blk, 7, []⟩,
  ⟨.biTimeout, 0x3800, 0x3800, 0x1, 0x0, 0x0, .u32, 4, .rw, .blk, 7, (natLe 50 4)⟩,
  ⟨.snfState, 0x3800, 0x3800, 0x1, 0x1, 0x1, .blob, 16, .ro, .d3c, 7, []⟩,
  ⟨.snfCounts, 0x3800, 0x3800, 0x1, 0x2, 0x2, .blob, 64, .ro, .blk, 7, []⟩,
  ⟨.atomCfg, 0x3800, 0x3800, 0x1, 0x3, 0x3, .blob, 16, .rw, .blk, 7, []⟩]

/-- Rows of Table 18.2, part 2. -/
def entRows2 : List EntRow := [
  ⟨.atomCounts, 0x3800, 0x3800, 0x1, 0x4, 0x4, .blob, 32, .ro, .blk, 7, []⟩,
  ⟨.cohClear, 0x3800, 0x3800, 0x1, 0x5, 0x5, .cmd, 0, .cmd, .none_, 7, []⟩,
  ⟨.mtuState, 0x4000, 0x4000, 0x1, 0x0, 0x0, .blob, 16, .ro, .blk, 7, []⟩,
  ⟨.mtuCounts, 0x4000, 0x4000, 0x1, 0x1, 0x1, .blob, 64, .ro, .blk, 7, []⟩,
  ⟨.mtuClear, 0x4000, 0x4000, 0x1, 0x2, 0x2, .cmd, 0, .cmd, .none_, 7, []⟩,
  ⟨.migCfg, 0x4000, 0x4000, 0x1, 0x3, 0x3, .blob, 32, .rwq, .blk, 7, (zeros 9 ++ natLe 6 1 ++ natLe 4096 2 ++ natLe 10 4 ++ zeros 16)⟩,
  ⟨.granuleSet, 0x4000, 0x4000, 0x1, 0x4, 0x4, .cmd, 16, .cmd, .none_, 7, []⟩,
  ⟨.granuleQuery, 0x4000, 0x4000, 0x1, 0x5, 0x5, .cmd, 4, .cmd, .none_, 7, []⟩,
  ⟨.granuleResult, 0x4000, 0x4000, 0x1, 0x6, 0x6, .blob, 16, .ro, .blk, 7, []⟩,
  ⟨.invSlot, 0x4001, 0x4001, 0x1, 0x0, 0x7, .cmd, 32, .cmd, .none_, 7, []⟩,
  ⟨.invStatus, 0x4002, 0x4002, 0x1, 0x0, 0x7, .blob, 16, .ro, .blk, 7, []⟩,
  ⟨.ctxCfg, 0x4010, 0x401F, 0x1, 0x0, 0xFF, .blob, 32, .rwq, .blk, 7, []⟩,
  ⟨.ctxFault, 0x4020, 0x402F, 0x1, 0x0, 0xFF, .blob, 16, .ro, .blk, 7, []⟩,
  ⟨.ctxFaultClear, 0x4030, 0x4030, 0x1, 0x0, 0x0, .cmd, 2, .cmd, .none_, 7, []⟩,
  ⟨.fqCfg, 0x4031, 0x4031, 0x1, 0x0, 0x0, .blob, 32, .rwq, (.hl 0), 1, []⟩,
  ⟨.fqHead, 0x4032, 0x4032, 0x1, 0x0, 0x0, .u32, 4, .rw, (.hl 0), 1, []⟩,
  ⟨.fqStatus, 0x4033, 0x4033, 0x1, 0x0, 0x0, .blob, 16, .ro, (.hl 0), 7, []⟩,
  ⟨.fqCfg, 0x4031, 0x4031, 0x1, 0x1, 0x1, .blob, 32, .rwq, (.hl 1), 1, []⟩,
  ⟨.fqHead, 0x4032, 0x4032, 0x1, 0x1, 0x1, .u32, 4, .rw, (.hl 1), 1, []⟩,
  ⟨.fqStatus, 0x4033, 0x4033, 0x1, 0x1, 0x1, .blob, 16, .ro, (.hl 1), 7, []⟩,
  ⟨.regionAttr, 0x40F0, 0x40F0, 0x1, 0x0, 0xE, .bits, 1, .rw, .blk, 7, []⟩,
  ⟨.regionAttr, 0x40F0, 0x40F0, 0x1, 0xF, 0xF, .bits, 1, .rw, .blk, 7, (natLe 3 1)⟩,
  ⟨.resGranule, 0x40F1, 0x40F1, 0x1, 0x0, 0x0, .u8, 1, .rw, .blk, 7, (natLe 7 1)⟩,
  ⟨.orderCounts, 0x40F1, 0x40F1, 0x1, 0x1, 0x1, .blob, 48, .ro, .blk, 7, []⟩,
  ⟨.orderClear, 0x40F1, 0x40F1, 0x1, 0x2, 0x2, .cmd, 0, .cmd, .none_, 7, []⟩,
  ⟨.progLoad, 0x5000, 0x5000, 0x1, 0x0, 0x0, .cmd, 24, .cmd, .none_, 7, []⟩,
  ⟨.progUnload, 0x5000, 0x5000, 0x1, 0x1, 0x1, .cmd, 1, .cmd, .none_, 7, []⟩,
  ⟨.progStoreCfg, 0x5000, 0x5000, 0x1, 0x2, 0x2, .blob, 16, .rwq, .blk, 7, []⟩,
  ⟨.loadResult, 0x5000, 0x5000, 0x1, 0x3, 0x3, .blob, 32, .ro, .blk, 7, []⟩,
  ⟨.cabClear, 0x5000, 0x5000, 0x1, 0x4, 0x4, .cmd, 1, .cmd, .none_, 7, []⟩,
  ⟨.progInfo, 0x5001, 0x5001, 0x1, 0x0, 0x3F, .blob, 32, .ro, .blk, 7, []⟩,
  ⟨.cabState, 0x5002, 0x5002, 0x1, 0x0, 0xB, .blob, 16, .ro, .blk, 7, []⟩,
  ⟨.cabCounts, 0x5003, 0x5003, 0x1, 0x0, 0xB, .blob, 48, .ro, .blk, 7, []⟩,
  ⟨.frameMap, 0x5004, 0x5004, 0x1, 0x0, 0xB, .blob, 512, .ro, .blk, 7, []⟩,
  ⟨.tileState, 0x5100, 0x56F0, 0x10, 0x0, 0x0, .u8, 1, .ro, .blk, 7, []⟩,
  ⟨.tilePhys, 0x5100, 0x56F0, 0x10, 0x1, 0x1, .u8, 1, .ro, .d3c, 7, []⟩,
  ⟨.tileCounts, 0x5100, 0x56F0, 0x10, 0x2, 0x2, .blob, 64, .ro, .blk, 7, []⟩,
  ⟨.ctxState, 0x5100, 0x56F0, 0x10, 0x3, 0x3, .blob, 64, .ro, .blk, 7, []⟩,
  ⟨.tileClear, 0x5100, 0x56F0, 0x10, 0x4, 0x4, .cmd, 0, .cmd, .none_, 7, []⟩,
  ⟨.tileSwap, 0x5700, 0x5700, 0x1, 0x0, 0x0, .cmd, 2, .cmd, .none_, 7, []⟩]

/-- Rows of Table 18.2, part 3. TABLE_DESC defaults to all zero (Table 4.9), its TSCALE field too, for which Table 4.1 gives
0x3F80_0000 (log 96). -/
def entRows3 : List EntRow := [
  ⟨.swapStatus, 0x5700, 0x5700, 0x1, 0x1, 0x1, .blob, 16, .ro, .blk, 7, []⟩,
  ⟨.spareState, 0x5701, 0x5701, 0x1, 0x0, 0x3, .u16, 2, .ro, .d3c, 7, []⟩,
  ⟨.physMap, 0x5702, 0x5702, 0x1, 0x0, 0x63, .u8, 1, .ro, .d3c, 7, []⟩,
  ⟨.numClear, 0x5800, 0x5800, 0x1, 0x0, 0x0, .cmd, 1, .cmd, .none_, 7, []⟩,
  ⟨.numCounts, 0x5801, 0x5801, 0x1, 0x0, 0x5F, .blob, 40, .ro, .blk, 7, []⟩,
  ⟨.histSlot, 0x5802, 0x5802, 0x1, 0x0, 0xFF, .blob, 1024, .ro, .blk, 7, []⟩,
  ⟨.histSlot, 0x5803, 0x5803, 0x1, 0x0, 0x7F, .blob, 1024, .ro, .blk, 7, []⟩,
  ⟨.histClear, 0x5804, 0x5804, 0x1, 0x0, 0x0, .cmd, 2, .cmd, .none_, 7, []⟩,
  ⟨.lockRun, 0x5A00, 0x5A00, 0x1, 0x0, 0x0, .cmd, 32, .cmd, .none_, 7, []⟩,
  ⟨.lockResult, 0x5A00, 0x5A00, 0x1, 0x1, 0x1, .blob, 32, .ro, .blk, 7, []⟩,
  ⟨.detClear, 0x5A00, 0x5A00, 0x1, 0x2, 0x2, .cmd, 1, .cmd, .none_, 7, []⟩,
  ⟨.timingChoices, 0x5A01, 0x5A01, 0x1, 0x0, 0xB, .u64, 8, .ro, .blk, 7, []⟩,
  ⟨.gpeClear, 0x6000, 0x6000, 0x1, 0x0, 0x0, .cmd, 1, .cmd, .none_, 7, []⟩,
  ⟨.gpeCounts, 0x6001, 0x6001, 0x1, 0x0, 0x2F, .blob, 64, .ro, .blk, 7, []⟩,
  ⟨.pdTimeout, 0x6002, 0x6002, 0x1, 0x0, 0x0, .u32, 4, .rw, .blk, 7, (natLe 200 4)⟩,
  ⟨.tableClear, 0x6003, 0x6003, 0x1, 0x0, 0x0, .cmd, 2, .cmd, .none_, 7, []⟩,
  ⟨.tableDesc, 0x6100, 0x610F, 0x1, 0x0, 0xFF, .blob, 64, .rw, .blk, 7, []⟩,
  ⟨.shardMap, 0x6200, 0x6200, 0x1, 0x0, 0x3F, .blob, 512, .rw, .blk, 7, []⟩,
  ⟨.tableCounts, 0x6300, 0x630F, 0x1, 0x0, 0xFF, .blob, 32, .ro, .blk, 7, []⟩,
  ⟨.epmFlip, 0x6800, 0x6800, 0x1, 0x0, 0x0, .cmd, 512, .cmd, .none_, 7, []⟩,
  ⟨.epmDiscard, 0x6800, 0x6800, 0x1, 0x1, 0x1, .cmd, 512, .cmd, .none_, 7, []⟩,
  ⟨.ringResume, 0x6800, 0x6800, 0x1, 0x2, 0x2, .cmd, 1, .cmd, .none_, 7, []⟩,
  ⟨.epmResumeTable, 0x6800, 0x6800, 0x1, 0x3, 0x3, .cmd, 2, .cmd, .none_, 7, []⟩,
  ⟨.epmGen, 0x6801, 0x6801, 0x1, 0x0, 0x0, .u32, 4, .ro, .blk, 7, []⟩,
  ⟨.drainGrace, 0x6801, 0x6801, 0x1, 0x1, 0x1, .u32, 4, .rw, .blk, 7, (natLe 50 4)⟩,
  ⟨.epmCounts, 0x6801, 0x6801, 0x1, 0x2, 0x2, .blob, 48, .ro, .blk, 7, []⟩,
  ⟨.flipResult, 0x6802, 0x6802, 0x1, 0x0, 0x0, .blob, 4096, .ro, .blk, 7, []⟩,
  ⟨.ringCfg, 0x6810, 0x6810, 0x1, 0x0, 0x7, .blob, 16, .rwq, .blk, 7, []⟩,
  ⟨.ringTail, 0x6811, 0x6811, 0x1, 0x0, 0x7, .u32, 4, .rw, .blk, 7, []⟩,
  ⟨.ringStatus, 0x6812, 0x6812, 0x1, 0x0, 0x7, .blob, 16, .ro, .blk, 7, []⟩,
  ⟨.epochCfg, 0x6900, 0x690F, 0x1, 0x0, 0xFF, .blob, 64, .rw, .blk, 7, []⟩,
  ⟨.epochState, 0x6A00, 0x6A0F, 0x1, 0x0, 0xFF, .blob, 48, .ro, .blk, 7, []⟩,
  ⟨.ssuSeed, 0x7000, 0x7000, 0x1, 0x0, 0x0, .u64, 8, .rwq, .blk, 7, []⟩,
  ⟨.spillCfg, 0x7000, 0x7000, 0x1, 0x1, 0x1, .blob, 32, .rwq, .blk, 7, []⟩,
  ⟨.sessionTtl, 0x7000, 0x7000, 0x1, 0x2, 0x2, .u32, 4, .rw, .blk, 7, (natLe 86400 4)⟩,
  ⟨.ssuCounts, 0x7000, 0x7000, 0x1, 0x3, 0x3, .blob, 64, .ro, .blk, 7, []⟩,
  ⟨.ssuClear, 0x7000, 0x7000, 0x1, 0x4, 0x4, .cmd, 0, .cmd, .none_, 7, []⟩,
  ⟨.ssuResume, 0x7000, 0x7000, 0x1, 0x5, 0x5, .cmd, 1, .cmd, .none_, 7, []⟩,
  ⟨.sessionQuery, 0x7000, 0x7000, 0x1, 0x6, 0x6, .cmd, 8, .cmd, .none_, 7, []⟩,
  ⟨.sessionResult, 0x7000, 0x7000, 0x1, 0x7, 0x7, .blob, 64, .ro, .blk, 7, []⟩]

/-- Rows of Table 18.2, part 4. -/
def entRows4 : List EntRow := [
  ⟨.ringClass, 0x7001, 0x7001, 0x1, 0x0, 0x7, .blob, 64, .rwq, .blk, 7, []⟩,
  ⟨.evRingCfg, 0x7002, 0x7002, 0x1, 0x0, 0x7, .blob, 16, .rwq, .blk, 7, []⟩,
  ⟨.evRingTail, 0x7003, 0x7003, 0x1, 0x0, 0x7, .u32, 4, .rw, .blk, 7, []⟩,
  ⟨.evRingStatus, 0x7004, 0x7004, 0x1, 0x0, 0x7, .blob, 16, .ro, .blk, 7, []⟩,
  ⟨.hseCounts, 0x7005, 0x7005, 0x1, 0x0, 0xB, .blob, 32, .ro, .blk, 7, []⟩,
  ⟨.classUse, 0x7006, 0x7006, 0x1, 0x0, 0x7, .blob, 8, .ro, .blk, 7, []⟩,
  ⟨.admCfg, 0x7800, 0x7800, 0x1, 0x0, 0x0, .blob, 32, .rw, .blk, 7, []⟩,
  ⟨.pdInBound, 0x7800, 0x7800, 0x1, 0x1, 0x1, .u32, 4, .ro, .blk, 7, []⟩,
  ⟨.classClear, 0x7800, 0x7800, 0x1, 0x2, 0x2, .cmd, 1, .cmd, .none_, 7, []⟩,
  ⟨.classCfg, 0x7801, 0x7801, 0x1, 0x0, 0x3F, .blob, 64, .rw, .blk, 7, []⟩,
  ⟨.classCounts, 0x7802, 0x7802, 0x1, 0x0, 0x3F, .blob, 48, .ro, .blk, 7, []⟩,
  ⟨.classBound, 0x7803, 0x7803, 0x1, 0x0, 0x3F, .blob, 32, .ro, .blk, 7, []⟩,
  ⟨.nodeId, 0x8000, 0x8000, 0x1, 0x0, 0x0, .u16, 2, .rwq, .blk, 7, []⟩,
  ⟨.gfrCfg, 0x8000, 0x8000, 0x1, 0x1, 0x1, .blob, 16, .rw, .blk, 7, (natLe 1000 4 ++ natLe 10 2 ++ natLe 20 2 ++ natLe 5000 4 ++ zeros 4)⟩,
  ⟨.gfrState, 0x8000, 0x8000, 0x1, 0x2, 0x2, .blob, 16, .ro, .blk, 7, []⟩,
  ⟨.gfrCounts, 0x8000, 0x8000, 0x1, 0x3, 0x3, .blob, 64, .ro, .blk, 7, []⟩,
  ⟨.gfrClear, 0x8000, 0x8000, 0x1, 0x4, 0x4, .cmd, 0, .cmd, .none_, 7, []⟩,
  ⟨.route, 0x8001, 0x8010, 0x1, 0x0, 0xFF, .blob, 8, .rw, .blk, 7, []⟩,
  ⟨.bcastMask, 0x8011, 0x8011, 0x1, 0x0, 0x6, .u8, 1, .rw, .blk, 7, []⟩,
  ⟨.fportCfg, 0x8100, 0x8100, 0x1, 0x0, 0x0, .blob, 16, .rw, .blk, 7, []⟩,
  ⟨.fportState, 0x8100, 0x8100, 0x1, 0x1, 0x1, .blob, 16, .ro, (.fp 0), 7, []⟩,
  ⟨.fportCounts, 0x8100, 0x8100, 0x1, 0x2, 0x2, .blob, 64, .ro, .blk, 7, []⟩,
  ⟨.portReset, 0x8100, 0x8100, 0x1, 0x3, 0x3, .cmd, 0, .cmd, .none_, 7, []⟩,
  ⟨.hpCtl, 0x8100, 0x8100, 0x1, 0x4, 0x4, .blob, 4, .rw, .blk, 7, []⟩,
  ⟨.hpStatus, 0x8100, 0x8100, 0x1, 0x5, 0x5, .blob, 4, .ro, .blk, 7, []⟩,
  ⟨.hpClear, 0x8100, 0x8100, 0x1, 0x6, 0x6, .cmd, 0, .cmd, .none_, 7, []⟩,
  ⟨.laneSpare, 0x8100, 0x8100, 0x1, 0x7, 0x7, .cmd, 1, .cmd, .none_, 7, []⟩,
  ⟨.hopSeenMax, 0x8100, 0x8100, 0x1, 0x8, 0x8, .u32, 4, .ro, (.fp 0), 7, []⟩,
  ⟨.fportCfg, 0x8200, 0x8200, 0x1, 0x0, 0x0, .blob, 16, .rw, .blk, 7, []⟩,
  ⟨.fportState, 0x8200, 0x8200, 0x1, 0x1, 0x1, .blob, 16, .ro, (.fp 1), 7, []⟩,
  ⟨.fportCounts, 0x8200, 0x8200, 0x1, 0x2, 0x2, .blob, 64, .ro, .blk, 7, []⟩,
  ⟨.portReset, 0x8200, 0x8200, 0x1, 0x3, 0x3, .cmd, 0, .cmd, .none_, 7, []⟩,
  ⟨.hpCtl, 0x8200, 0x8200, 0x1, 0x4, 0x4, .blob, 4, .rw, .blk, 7, []⟩,
  ⟨.hpStatus, 0x8200, 0x8200, 0x1, 0x5, 0x5, .blob, 4, .ro, .blk, 7, []⟩,
  ⟨.hpClear, 0x8200, 0x8200, 0x1, 0x6, 0x6, .cmd, 0, .cmd, .none_, 7, []⟩,
  ⟨.laneSpare, 0x8200, 0x8200, 0x1, 0x7, 0x7, .cmd, 1, .cmd, .none_, 7, []⟩,
  ⟨.hopSeenMax, 0x8200, 0x8200, 0x1, 0x8, 0x8, .u32, 4, .ro, (.fp 1), 7, []⟩,
  ⟨.fportCfg, 0x8300, 0x8300, 0x1, 0x0, 0x0, .blob, 16, .rw, .blk, 7, []⟩,
  ⟨.fportState, 0x8300, 0x8300, 0x1, 0x1, 0x1, .blob, 16, .ro, (.fp 2), 7, []⟩,
  ⟨.fportCounts, 0x8300, 0x8300, 0x1, 0x2, 0x2, .blob, 64, .ro, .blk, 7, []⟩]

/-- Rows of Table 18.2, part 5. -/
def entRows5 : List EntRow := [
  ⟨.portReset, 0x8300, 0x8300, 0x1, 0x3, 0x3, .cmd, 0, .cmd, .none_, 7, []⟩,
  ⟨.hpCtl, 0x8300, 0x8300, 0x1, 0x4, 0x4, .blob, 4, .rw, .blk, 7, []⟩,
  ⟨.hpStatus, 0x8300, 0x8300, 0x1, 0x5, 0x5, .blob, 4, .ro, .blk, 7, []⟩,
  ⟨.hpClear, 0x8300, 0x8300, 0x1, 0x6, 0x6, .cmd, 0, .cmd, .none_, 7, []⟩,
  ⟨.laneSpare, 0x8300, 0x8300, 0x1, 0x7, 0x7, .cmd, 1, .cmd, .none_, 7, []⟩,
  ⟨.hopSeenMax, 0x8300, 0x8300, 0x1, 0x8, 0x8, .u32, 4, .ro, (.fp 2), 7, []⟩,
  ⟨.fportCfg, 0x8400, 0x8400, 0x1, 0x0, 0x0, .blob, 16, .rw, .blk, 7, []⟩,
  ⟨.fportState, 0x8400, 0x8400, 0x1, 0x1, 0x1, .blob, 16, .ro, (.fp 3), 7, []⟩,
  ⟨.fportCounts, 0x8400, 0x8400, 0x1, 0x2, 0x2, .blob, 64, .ro, .blk, 7, []⟩,
  ⟨.portReset, 0x8400, 0x8400, 0x1, 0x3, 0x3, .cmd, 0, .cmd, .none_, 7, []⟩,
  ⟨.hpCtl, 0x8400, 0x8400, 0x1, 0x4, 0x4, .blob, 4, .rw, .blk, 7, []⟩,
  ⟨.hpStatus, 0x8400, 0x8400, 0x1, 0x5, 0x5, .blob, 4, .ro, .blk, 7, []⟩,
  ⟨.hpClear, 0x8400, 0x8400, 0x1, 0x6, 0x6, .cmd, 0, .cmd, .none_, 7, []⟩,
  ⟨.laneSpare, 0x8400, 0x8400, 0x1, 0x7, 0x7, .cmd, 1, .cmd, .none_, 7, []⟩,
  ⟨.hopSeenMax, 0x8400, 0x8400, 0x1, 0x8, 0x8, .u32, 4, .ro, (.fp 3), 7, []⟩,
  ⟨.fportCfg, 0x8500, 0x8500, 0x1, 0x0, 0x0, .blob, 16, .rw, .blk, 7, []⟩,
  ⟨.fportState, 0x8500, 0x8500, 0x1, 0x1, 0x1, .blob, 16, .ro, (.fp 4), 7, []⟩,
  ⟨.fportCounts, 0x8500, 0x8500, 0x1, 0x2, 0x2, .blob, 64, .ro, .blk, 7, []⟩,
  ⟨.portReset, 0x8500, 0x8500, 0x1, 0x3, 0x3, .cmd, 0, .cmd, .none_, 7, []⟩,
  ⟨.hpCtl, 0x8500, 0x8500, 0x1, 0x4, 0x4, .blob, 4, .rw, .blk, 7, []⟩,
  ⟨.hpStatus, 0x8500, 0x8500, 0x1, 0x5, 0x5, .blob, 4, .ro, .blk, 7, []⟩,
  ⟨.hpClear, 0x8500, 0x8500, 0x1, 0x6, 0x6, .cmd, 0, .cmd, .none_, 7, []⟩,
  ⟨.laneSpare, 0x8500, 0x8500, 0x1, 0x7, 0x7, .cmd, 1, .cmd, .none_, 7, []⟩,
  ⟨.hopSeenMax, 0x8500, 0x8500, 0x1, 0x8, 0x8, .u32, 4, .ro, (.fp 4), 7, []⟩,
  ⟨.fportCfg, 0x8600, 0x8600, 0x1, 0x0, 0x0, .blob, 16, .rw, .blk, 7, []⟩,
  ⟨.fportState, 0x8600, 0x8600, 0x1, 0x1, 0x1, .blob, 16, .ro, (.fp 5), 7, []⟩,
  ⟨.fportCounts, 0x8600, 0x8600, 0x1, 0x2, 0x2, .blob, 64, .ro, .blk, 7, []⟩,
  ⟨.portReset, 0x8600, 0x8600, 0x1, 0x3, 0x3, .cmd, 0, .cmd, .none_, 7, []⟩,
  ⟨.hpCtl, 0x8600, 0x8600, 0x1, 0x4, 0x4, .blob, 4, .rw, .blk, 7, []⟩,
  ⟨.hpStatus, 0x8600, 0x8600, 0x1, 0x5, 0x5, .blob, 4, .ro, .blk, 7, []⟩,
  ⟨.hpClear, 0x8600, 0x8600, 0x1, 0x6, 0x6, .cmd, 0, .cmd, .none_, 7, []⟩,
  ⟨.laneSpare, 0x8600, 0x8600, 0x1, 0x7, 0x7, .cmd, 1, .cmd, .none_, 7, []⟩,
  ⟨.hopSeenMax, 0x8600, 0x8600, 0x1, 0x8, 0x8, .u32, 4, .ro, (.fp 5), 7, []⟩,
  ⟨.window, 0x8800, 0x880F, 0x1, 0x0, 0xFF, .blob, 16, .rw, .blk, 7, []⟩,
  ⟨.pcsState, 0x9000, 0x9000, 0x1, 0x0, 0x0, .blob, 32, .ro, .d3c, 7, []⟩,
  ⟨.tolLat, 0x9000, 0x9000, 0x1, 0x1, 0x1, .u32, 4, .rw, (.flr 0), 1, []⟩,
  ⟨.tolLat, 0x9000, 0x9000, 0x1, 0x2, 0x2, .u32, 4, .rw, (.flr 1), 1, []⟩,
  ⟨.tolLatMgr, 0x9000, 0x9000, 0x1, 0x3, 0x3, .u32, 4, .rw, .blk, 6, (natLe 4294967295 4)⟩,
  ⟨.idleCfg, 0x9000, 0x9000, 0x1, 0x4, 0x4, .blob, 8, .rw, .blk, 7, (natLe 100 4 ++ natLe 15 1 ++ zeros 3)⟩,
  ⟨.capPoint, 0x9001, 0x9001, 0x1, 0x0, 0x0, .u8, 1, .rw, .blk, 7, []⟩]

/-- Rows of Table 18.2, part 6. -/
def entRows6 : List EntRow := [
  ⟨.capReport, 0x9001, 0x9001, 0x1, 0x1, 0x1, .blob, 32, .ro, .blk, 7, []⟩,
  ⟨.blkReset, 0x9002, 0x9002, 0x1, 0x0, 0x0, .cmd, 0, .cmd, .none_, 6, []⟩,
  ⟨.chipResetReq, 0x9002, 0x9002, 0x1, 0x1, 0x1, .cmd, 0, .cmd, .none_, 6, []⟩,
  ⟨.wakeEn, 0x9003, 0x9003, 0x1, 0x0, 0x0, .bits, 1, .rw, .por, 1, []⟩,
  ⟨.wakeEn, 0x9003, 0x9003, 0x1, 0x1, 0x1, .bits, 1, .rw, .por, 1, []⟩,
  ⟨.straps, 0x9004, 0x9004, 0x1, 0x0, 0x0, .blob, 8, .ro, .por, 7, []⟩,
  ⟨.startState, 0x9004, 0x9004, 0x1, 0x1, 0x1, .blob, 32, .ro, .d3c, 7, []⟩,
  ⟨.sensors, 0x9005, 0x9005, 0x1, 0x0, 0x0, .blob, 64, .ro, .d3c, 7, []⟩,
  ⟨.pcsCounts, 0x9006, 0x9006, 0x1, 0x0, 0x0, .blob, 64, .ro, .d3c, 7, []⟩,
  ⟨.pcsClear, 0x9006, 0x9006, 0x1, 0x1, 0x1, .cmd, 0, .cmd, .none_, 7, []⟩,
  ⟨.gtcNow, 0x9800, 0x9800, 0x1, 0x0, 0x0, .u64, 8, .ro, .d3c, 7, []⟩,
  ⟨.gtcCfg, 0x9800, 0x9800, 0x1, 0x1, 0x1, .blob, 16, .rw, .blk, 7, (zeros 4 ++ natLe 125 4 ++ natLe 1000 4 ++ zeros 4)⟩,
  ⟨.gtcState, 0x9800, 0x9800, 0x1, 0x2, 0x2, .blob, 32, .ro, .d3c, 7, []⟩,
  ⟨.gtcCounts, 0x9800, 0x9800, 0x1, 0x3, 0x3, .blob, 32, .ro, .blk, 7, []⟩,
  ⟨.gtcClear, 0x9800, 0x9800, 0x1, 0x4, 0x4, .cmd, 0, .cmd, .none_, 7, []⟩,
  ⟨.faultStatus, 0xA000, 0xA000, 0x1, 0x0, 0x0, .bits, 8, .ro, .d3c, 7, []⟩,
  ⟨.firstError, 0xA001, 0xA001, 0x1, 0x0, 0x0, .blob, 32, .ro, .d3c, 7, []⟩,
  ⟨.faultCounts, 0xA002, 0xA002, 0x1, 0x0, 0x0, .blob, 32, .ro, .d3c, 7, []⟩,
  ⟨.reaction, 0xA003, 0xA003, 0x1, 0x0, 0x0, .blob, 64, .rw, .blk, 7, (reactionDefault 0)⟩,
  ⟨.faultIrq, 0xA004, 0xA004, 0x1, 0x0, 0x0, .u16, 2, .rw, (.flr 0), 7, []⟩,
  ⟨.faultIrq, 0xA004, 0xA004, 0x1, 0x1, 0x1, .u16, 2, .rw, (.flr 1), 7, []⟩,
  ⟨.faultClear, 0xA005, 0xA005, 0x1, 0x0, 0x0, .cmd, 10, .cmd, .none_, 7, []⟩,
  ⟨.faultStatus, 0xA100, 0xA100, 0x1, 0x0, 0x0, .bits, 8, .ro, .d3c, 7, []⟩,
  ⟨.firstError, 0xA101, 0xA101, 0x1, 0x0, 0x0, .blob, 32, .ro, .d3c, 7, []⟩,
  ⟨.faultCounts, 0xA102, 0xA102, 0x1, 0x0, 0x0, .blob, 32, .ro, .d3c, 7, []⟩,
  ⟨.reaction, 0xA103, 0xA103, 0x1, 0x0, 0x0, .blob, 64, .rw, .blk, 7, (reactionDefault 1)⟩,
  ⟨.faultIrq, 0xA104, 0xA104, 0x1, 0x0, 0x0, .u16, 2, .rw, (.flr 0), 7, []⟩,
  ⟨.faultIrq, 0xA104, 0xA104, 0x1, 0x1, 0x1, .u16, 2, .rw, (.flr 1), 7, []⟩,
  ⟨.faultClear, 0xA105, 0xA105, 0x1, 0x0, 0x0, .cmd, 10, .cmd, .none_, 7, []⟩,
  ⟨.faultStatus, 0xA200, 0xA200, 0x1, 0x0, 0x5F, .bits, 8, .ro, .d3c, 7, []⟩,
  ⟨.firstError, 0xA201, 0xA201, 0x1, 0x0, 0x5F, .blob, 32, .ro, .d3c, 7, []⟩,
  ⟨.faultCounts, 0xA202, 0xA202, 0x1, 0x0, 0x5F, .blob, 32, .ro, .d3c, 7, []⟩,
  ⟨.reaction, 0xA203, 0xA203, 0x1, 0x0, 0x0, .blob, 64, .rw, .blk, 7, (reactionDefault 2)⟩,
  ⟨.faultIrq, 0xA204, 0xA204, 0x1, 0x0, 0x0, .u16, 2, .rw, (.flr 0), 7, []⟩,
  ⟨.faultIrq, 0xA204, 0xA204, 0x1, 0x1, 0x1, .u16, 2, .rw, (.flr 1), 7, []⟩,
  ⟨.faultClear, 0xA205, 0xA205, 0x1, 0x0, 0x0, .cmd, 10, .cmd, .none_, 7, []⟩,
  ⟨.faultStatus, 0xA300, 0xA300, 0x1, 0x0, 0x2F, .bits, 8, .ro, .d3c, 7, []⟩,
  ⟨.firstError, 0xA301, 0xA301, 0x1, 0x0, 0x2F, .blob, 32, .ro, .d3c, 7, []⟩,
  ⟨.faultCounts, 0xA302, 0xA302, 0x1, 0x0, 0x2F, .blob, 32, .ro, .d3c, 7, []⟩,
  ⟨.reaction, 0xA303, 0xA303, 0x1, 0x0, 0x0, .blob, 64, .rw, .blk, 7, (reactionDefault 3)⟩]

/-- Rows of Table 18.2, part 7. -/
def entRows7 : List EntRow := [
  ⟨.faultIrq, 0xA304, 0xA304, 0x1, 0x0, 0x0, .u16, 2, .rw, (.flr 0), 7, []⟩,
  ⟨.faultIrq, 0xA304, 0xA304, 0x1, 0x1, 0x1, .u16, 2, .rw, (.flr 1), 7, []⟩,
  ⟨.faultClear, 0xA305, 0xA305, 0x1, 0x0, 0x0, .cmd, 10, .cmd, .none_, 7, []⟩,
  ⟨.faultStatus, 0xA400, 0xA400, 0x1, 0x0, 0xC, .bits, 8, .ro, .d3c, 7, []⟩,
  ⟨.firstError, 0xA401, 0xA401, 0x1, 0x0, 0xC, .blob, 32, .ro, .d3c, 7, []⟩,
  ⟨.faultCounts, 0xA402, 0xA402, 0x1, 0x0, 0xC, .blob, 32, .ro, .d3c, 7, []⟩,
  ⟨.reaction, 0xA403, 0xA403, 0x1, 0x0, 0x0, .blob, 64, .rw, .blk, 7, (reactionDefault 4)⟩,
  ⟨.faultIrq, 0xA404, 0xA404, 0x1, 0x0, 0x0, .u16, 2, .rw, (.flr 0), 7, []⟩,
  ⟨.faultIrq, 0xA404, 0xA404, 0x1, 0x1, 0x1, .u16, 2, .rw, (.flr 1), 7, []⟩,
  ⟨.faultClear, 0xA405, 0xA405, 0x1, 0x0, 0x0, .cmd, 10, .cmd, .none_, 7, []⟩,
  ⟨.faultStatus, 0xA500, 0xA500, 0x1, 0x0, 0x0, .bits, 8, .ro, .d3c, 7, []⟩,
  ⟨.firstError, 0xA501, 0xA501, 0x1, 0x0, 0x0, .blob, 32, .ro, .d3c, 7, []⟩,
  ⟨.faultCounts, 0xA502, 0xA502, 0x1, 0x0, 0x0, .blob, 32, .ro, .d3c, 7, []⟩,
  ⟨.reaction, 0xA503, 0xA503, 0x1, 0x0, 0x0, .blob, 64, .rw, .blk, 7, (reactionDefault 5)⟩,
  ⟨.faultIrq, 0xA504, 0xA504, 0x1, 0x0, 0x0, .u16, 2, .rw, (.flr 0), 7, []⟩,
  ⟨.faultIrq, 0xA504, 0xA504, 0x1, 0x1, 0x1, .u16, 2, .rw, (.flr 1), 7, []⟩,
  ⟨.faultClear, 0xA505, 0xA505, 0x1, 0x0, 0x0, .cmd, 10, .cmd, .none_, 7, []⟩,
  ⟨.faultStatus, 0xA600, 0xA600, 0x1, 0x0, 0x0, .bits, 8, .ro, .d3c, 7, []⟩,
  ⟨.firstError, 0xA601, 0xA601, 0x1, 0x0, 0x0, .blob, 32, .ro, .d3c, 7, []⟩,
  ⟨.faultCounts, 0xA602, 0xA602, 0x1, 0x0, 0x0, .blob, 32, .ro, .d3c, 7, []⟩,
  ⟨.reaction, 0xA603, 0xA603, 0x1, 0x0, 0x0, .blob, 64, .rw, .blk, 7, (reactionDefault 6)⟩,
  ⟨.faultIrq, 0xA604, 0xA604, 0x1, 0x0, 0x0, .u16, 2, .rw, (.flr 0), 7, []⟩,
  ⟨.faultIrq, 0xA604, 0xA604, 0x1, 0x1, 0x1, .u16, 2, .rw, (.flr 1), 7, []⟩,
  ⟨.faultClear, 0xA605, 0xA605, 0x1, 0x0, 0x0, .cmd, 10, .cmd, .none_, 7, []⟩,
  ⟨.faultStatus, 0xA700, 0xA700, 0x1, 0x0, 0xF, .bits, 8, .ro, .d3c, 7, []⟩,
  ⟨.firstError, 0xA701, 0xA701, 0x1, 0x0, 0xF, .blob, 32, .ro, .d3c, 7, []⟩,
  ⟨.faultCounts, 0xA702, 0xA702, 0x1, 0x0, 0xF, .blob, 32, .ro, .d3c, 7, []⟩,
  ⟨.reaction, 0xA703, 0xA703, 0x1, 0x0, 0x0, .blob, 64, .rw, .blk, 7, (reactionDefault 7)⟩,
  ⟨.faultIrq, 0xA704, 0xA704, 0x1, 0x0, 0x0, .u16, 2, .rw, (.flr 0), 7, []⟩,
  ⟨.faultIrq, 0xA704, 0xA704, 0x1, 0x1, 0x1, .u16, 2, .rw, (.flr 1), 7, []⟩,
  ⟨.faultClear, 0xA705, 0xA705, 0x1, 0x0, 0x0, .cmd, 10, .cmd, .none_, 7, []⟩,
  ⟨.faultStatus, 0xA800, 0xA800, 0x1, 0x0, 0x7, .bits, 8, .ro, .d3c, 7, []⟩,
  ⟨.firstError, 0xA801, 0xA801, 0x1, 0x0, 0x7, .blob, 32, .ro, .d3c, 7, []⟩,
  ⟨.faultCounts, 0xA802, 0xA802, 0x1, 0x0, 0x7, .blob, 32, .ro, .d3c, 7, []⟩,
  ⟨.reaction, 0xA803, 0xA803, 0x1, 0x0, 0x0, .blob, 64, .rw, .blk, 7, (reactionDefault 8)⟩,
  ⟨.faultIrq, 0xA804, 0xA804, 0x1, 0x0, 0x0, .u16, 2, .rw, (.flr 0), 7, []⟩,
  ⟨.faultIrq, 0xA804, 0xA804, 0x1, 0x1, 0x1, .u16, 2, .rw, (.flr 1), 7, []⟩,
  ⟨.faultClear, 0xA805, 0xA805, 0x1, 0x0, 0x0, .cmd, 10, .cmd, .none_, 7, []⟩,
  ⟨.faultStatus, 0xA900, 0xA900, 0x1, 0x0, 0xB, .bits, 8, .ro, .d3c, 7, []⟩,
  ⟨.firstError, 0xA901, 0xA901, 0x1, 0x0, 0xB, .blob, 32, .ro, .d3c, 7, []⟩]

/-- Rows of Table 18.2, part 8. -/
def entRows8 : List EntRow := [
  ⟨.faultCounts, 0xA902, 0xA902, 0x1, 0x0, 0xB, .blob, 32, .ro, .d3c, 7, []⟩,
  ⟨.reaction, 0xA903, 0xA903, 0x1, 0x0, 0x0, .blob, 64, .rw, .blk, 7, (reactionDefault 9)⟩,
  ⟨.faultIrq, 0xA904, 0xA904, 0x1, 0x0, 0x0, .u16, 2, .rw, (.flr 0), 7, []⟩,
  ⟨.faultIrq, 0xA904, 0xA904, 0x1, 0x1, 0x1, .u16, 2, .rw, (.flr 1), 7, []⟩,
  ⟨.faultClear, 0xA905, 0xA905, 0x1, 0x0, 0x0, .cmd, 10, .cmd, .none_, 7, []⟩,
  ⟨.faultStatus, 0xAA00, 0xAA00, 0x1, 0x0, 0x0, .bits, 8, .ro, .d3c, 7, []⟩,
  ⟨.firstError, 0xAA01, 0xAA01, 0x1, 0x0, 0x0, .blob, 32, .ro, .d3c, 7, []⟩,
  ⟨.faultCounts, 0xAA02, 0xAA02, 0x1, 0x0, 0x0, .blob, 32, .ro, .d3c, 7, []⟩,
  ⟨.reaction, 0xAA03, 0xAA03, 0x1, 0x0, 0x0, .blob, 64, .rw, .blk, 7, (reactionDefault 10)⟩,
  ⟨.faultIrq, 0xAA04, 0xAA04, 0x1, 0x0, 0x0, .u16, 2, .rw, (.flr 0), 7, []⟩,
  ⟨.faultIrq, 0xAA04, 0xAA04, 0x1, 0x1, 0x1, .u16, 2, .rw, (.flr 1), 7, []⟩,
  ⟨.faultClear, 0xAA05, 0xAA05, 0x1, 0x0, 0x0, .cmd, 10, .cmd, .none_, 7, []⟩,
  ⟨.faultStatus, 0xAB00, 0xAB00, 0x1, 0x0, 0x0, .bits, 8, .ro, .d3c, 7, []⟩,
  ⟨.firstError, 0xAB01, 0xAB01, 0x1, 0x0, 0x0, .blob, 32, .ro, .d3c, 7, []⟩,
  ⟨.faultCounts, 0xAB02, 0xAB02, 0x1, 0x0, 0x0, .blob, 32, .ro, .d3c, 7, []⟩,
  ⟨.reaction, 0xAB03, 0xAB03, 0x1, 0x0, 0x0, .blob, 64, .rw, .blk, 7, (reactionDefault 11)⟩,
  ⟨.faultIrq, 0xAB04, 0xAB04, 0x1, 0x0, 0x0, .u16, 2, .rw, (.flr 0), 7, []⟩,
  ⟨.faultIrq, 0xAB04, 0xAB04, 0x1, 0x1, 0x1, .u16, 2, .rw, (.flr 1), 7, []⟩,
  ⟨.faultClear, 0xAB05, 0xAB05, 0x1, 0x0, 0x0, .cmd, 10, .cmd, .none_, 7, []⟩,
  ⟨.faultStatus, 0xAC00, 0xAC00, 0x1, 0x0, 0x0, .bits, 8, .ro, .d3c, 7, []⟩,
  ⟨.firstError, 0xAC01, 0xAC01, 0x1, 0x0, 0x0, .blob, 32, .ro, .d3c, 7, []⟩,
  ⟨.faultCounts, 0xAC02, 0xAC02, 0x1, 0x0, 0x0, .blob, 32, .ro, .d3c, 7, []⟩,
  ⟨.reaction, 0xAC03, 0xAC03, 0x1, 0x0, 0x0, .blob, 64, .rw, .blk, 7, (reactionDefault 12)⟩,
  ⟨.faultIrq, 0xAC04, 0xAC04, 0x1, 0x0, 0x0, .u16, 2, .rw, (.flr 0), 7, []⟩,
  ⟨.faultIrq, 0xAC04, 0xAC04, 0x1, 0x1, 0x1, .u16, 2, .rw, (.flr 1), 7, []⟩,
  ⟨.faultClear, 0xAC05, 0xAC05, 0x1, 0x0, 0x0, .cmd, 10, .cmd, .none_, 7, []⟩,
  ⟨.faultStatus, 0xAD00, 0xAD00, 0x1, 0x0, 0x6, .bits, 8, .ro, .d3c, 7, []⟩,
  ⟨.firstError, 0xAD01, 0xAD01, 0x1, 0x0, 0x6, .blob, 32, .ro, .d3c, 7, []⟩,
  ⟨.faultCounts, 0xAD02, 0xAD02, 0x1, 0x0, 0x6, .blob, 32, .ro, .d3c, 7, []⟩,
  ⟨.reaction, 0xAD03, 0xAD03, 0x1, 0x0, 0x0, .blob, 64, .rw, .blk, 7, (reactionDefault 13)⟩,
  ⟨.faultIrq, 0xAD04, 0xAD04, 0x1, 0x0, 0x0, .u16, 2, .rw, (.flr 0), 7, []⟩,
  ⟨.faultIrq, 0xAD04, 0xAD04, 0x1, 0x1, 0x1, .u16, 2, .rw, (.flr 1), 7, []⟩,
  ⟨.faultClear, 0xAD05, 0xAD05, 0x1, 0x0, 0x0, .cmd, 10, .cmd, .none_, 7, []⟩,
  ⟨.faultStatus, 0xAE00, 0xAE00, 0x1, 0x0, 0x0, .bits, 8, .ro, .d3c, 7, []⟩,
  ⟨.firstError, 0xAE01, 0xAE01, 0x1, 0x0, 0x0, .blob, 32, .ro, .d3c, 7, []⟩,
  ⟨.faultCounts, 0xAE02, 0xAE02, 0x1, 0x0, 0x0, .blob, 32, .ro, .d3c, 7, []⟩,
  ⟨.reaction, 0xAE03, 0xAE03, 0x1, 0x0, 0x0, .blob, 64, .rw, .blk, 7, (reactionDefault 14)⟩,
  ⟨.faultIrq, 0xAE04, 0xAE04, 0x1, 0x0, 0x0, .u16, 2, .rw, (.flr 0), 7, []⟩,
  ⟨.faultIrq, 0xAE04, 0xAE04, 0x1, 0x1, 0x1, .u16, 2, .rw, (.flr 1), 7, []⟩,
  ⟨.faultClear, 0xAE05, 0xAE05, 0x1, 0x0, 0x0, .cmd, 10, .cmd, .none_, 7, []⟩]

/-- Rows of Table 18.2, part 9. -/
def entRows9 : List EntRow := [
  ⟨.blockFault, 0xAF00, 0xAF00, 0x1, 0x0, 0x0, .blob, 32, .ro, .d3c, 7, []⟩]

/-- Every entry (R502). -/
def entRows : List EntRow :=
  entRows0 ++ entRows1 ++ entRows2 ++ entRows3 ++ entRows4 ++ entRows5 ++ entRows6 ++ entRows7 ++ entRows8 ++ entRows9

/-- The row that holds index:sub. -/
def EntRow.holds (r : EntRow) (ix sub : Nat) : Bool :=
  decide (r.lo ≤ ix) && decide (ix ≤ r.hi) && decide ((ix - r.lo) % r.step = 0) && decide (r.s0 ≤ sub) &&
    decide (sub ≤ r.s1)

/-- The entry at index:sub; none where the dictionary has none (R65, R502). -/
def entAt (ix sub : Nat) : Option EntRow := entRows.find? (fun r => r.holds ix sub)

/-- The instance number of index:sub under R66: by index step for objects of their own, by subindex within consecutive
indices else. A port's entries number their port. -/
def EntRow.inst (r : EntRow) (ix sub : Nat) : Nat :=
  if r.step ≠ 1 then (ix - r.lo) / r.step
  else if r.hi ≠ r.lo then (ix - r.lo) * 256 + sub
  else sub

/-- A stored value is padded to its entry's size. -/
def EntRow.default (r : EntRow) : Bytes := bytesAt r.dflt 0 r.size

/-- The store's key of index:sub. -/
def entKey (ix sub : Nat) : Nat := ix * 256 + sub

/-- The default of index:sub. -/
def defaultAt (ix sub : Nat) : Bytes :=
  match entAt ix sub with
  | some r => r.default
  | none => []

/-- The value in force of a stored entry (an RW or RWQ entry; unlisted: its default). -/
def State.rd (s : State) (ix sub : Nat) : Bytes :=
  match sfind s.ods.store (entKey ix sub) with
  | some b => b
  | none => defaultAt ix sub

/-- The number in `n` bytes of a stored entry at a byte offset. -/
def State.rdN (s : State) (ix sub off n : Nat) : Nat := le (s.rd ix sub) off n

/-- Store an entry's value; the default is not listed. -/
def State.wr (s : State) (ix sub : Nat) (v : Bytes) : State :=
  { s with ods := { s.ods with
      store := if v = defaultAt ix sub then sdel s.ods.store (entKey ix sub)
               else sput s.ods.store (entKey ix sub) v } }

/-- Return to default every stored entry whose reset class satisfies a predicate (R11). -/
def State.resetEnts (s : State) (p : Rst → Bool) : State :=
  { s with ods := { s.ods with store := s.ods.store.filter (fun kv =>
      match entAt (kv.1 / 256) (kv.1 % 256) with
      | some r => !p r.rst
      | none => false) } }

end Sys2Proof.Machine
end

