-- ==== Sys2Proof/Machine/Flags.lean ====
section
/-! DEFINITION. Command states (R63), interrupts (R402) and the firing of a fault source: capture, interrupts, ERR_N, and the grave state
(chapter 17). A unit reset or BLK is handed in by the caller, which knows the unit. -/
namespace Sys2Proof.Machine

/-- What a meaning answers: every command of the block comes to a next state. -/
abbrev Answer := Host.Outcome State Fault Refusal

/-- A command entry's state (R63): 0 idle, 1 running, 2 done, 3 failed with a status. -/
def State.cmd (s : State) (ix sub : Nat) : CmdState := sget {} s.ods.cmds (entKey ix sub)
def State.setCmd (s : State) (ix sub : Nat) (c : CmdState) : State :=
  { s with ods := { s.ods with cmds := sset {} s.ods.cmds (entKey ix sub) c } }
def State.cmdRunning (s : State) (ix sub : Nat) : Bool := (s.cmd ix sub).state == 1
def State.cmdStart (s : State) (ix sub : Nat) : State := s.setCmd ix sub { state := 1 }
def State.cmdDone (s : State) (ix sub : Nat) : State := s.setCmd ix sub { state := 2 }
def State.cmdFail (s : State) (ix sub : Nat) (code : Nat) : State :=
  s.setCmd ix sub { state := 3, code := BitVec.ofNat 8 code }

/-- The index of an entry of host port `p` whose H0 index is `ix` (R419). -/
def portIx (p ix : Nat) : Nat := ix + 0x200 * p

/-- A host port's enabled vectors (R402): how many, from 0. -/
def Hlc.vectors (h : Hlc) : Nat := if h.msix then 256 else h.msi

/-- Raise vector `v` on port `p` (R402): dropped and counted while no vectors are enabled or Bus Master Enable is 0; a
masked MSI-X vector goes pending; MSI takes v mod N. -/
def State.raise (s : State) (p v : Nat) : State :=
  let h := s.port p
  if h.vectors = 0 || !h.bme then s.bump (portIx p 0x2000) 1 7
  else if h.msix then
    if sget false h.unmasked v then s.emit (.irq p v)
    else s.setPort p { h with pend := sset false h.pend v true }
  else s.emit (.irq p (v % h.msi))

/-- Unit codes of Table 17.2. -/
def uPcs : Nat := 0
def uOds : Nat := 1
def uTile : Nat := 2
def uGpe : Nat := 3
def uHse : Nat := 4
def uEpm : Nat := 5
def uSqe : Nat := 6
def uDca : Nat := 7
def uHbm : Nat := 8
def uCap : Nat := 9
def uMtu : Nat := 10
def uHlc (p : Nat) : Nat := 11 + p
def uFab : Nat := 13
def uGtc : Nat := 14

/-- The classes of a unit's sources by code (Table 17.7): 1 A, 2 B, 3 C, 4 D. -/
def sourceClasses : Nat → List Nat
  | 0 => [1, 1, 1, 3, 3, 1, 1, 4, 4]
  | 1 => [4, 1, 3, 1]
  | 2 => [1, 1, 2, 3, 3]
  | 3 => [1, 3]
  | 4 => [1, 1, 3, 3]
  | 5 => [3, 1, 1, 1]
  | 6 => [1, 1, 3]
  | 7 => [1, 1, 1, 4, 4]
  | 8 => [1, 1, 1, 1, 4]
  | 9 => [1, 1, 1, 1, 1]
  | 10 => [1, 1, 3, 4]
  | 11 => [1, 1, 1, 3]
  | 12 => [1, 1, 1, 3]
  | 13 => [1, 1, 1, 1, 1, 3, 3]
  | 14 => [1, 1, 1]
  | _ => []

/-- The class of a source (R484, Table 17.7). -/
def sourceClass (u c : Nat) : Nat := (sourceClasses u).getD c 0

/-- Table 17.2 gives the source's unit a unit reset; it gives the SSU (source SSU_UE) and the router (ROUTER_UE) none. -/
def hasUnitReset (u c : Nat) : Bool :=
  [0, 2, 3, 4, 5, 10, 11, 12, 13].contains u && !(u = 4 && c = 3) && !(u = 13 && c = 6)

/-- The instances of each unit (Table 17.2). -/
def unitInstances : Nat → Nat
  | 2 => 96
  | 3 => 48
  | 4 => 13
  | 7 => 16
  | 8 => 8
  | 9 => 12
  | 13 => 7
  | _ => 1

/-- What a first-error record says of the access that met the fault (R489). -/
structure Hit where
  access : Nat := 0
  mUnit  : Nat := 0
  mNum   : Nat := 0xFFFF
  aspace : Nat := 0
  acid   : Nat := 0
  addr   : Nat := 0
  queue  : Nat := 0xFF
  deriving DecidableEq, Repr

/-- The reaction byte of a source in force (R492). -/
def State.reactionOf (s : State) (u c : Nat) : Nat := s.rdN (0xA003 + 0x100 * u) 0 c 1

/-- The fault object of an instance. -/
def State.faultInst (s : State) (u i : Nat) : FaultInst := sget {} s.faults.insts (u * 256 + i)

def State.setFaultInst (s : State) (u i : Nat) (f : FaultInst) : State :=
  { s with faults := { s.faults with insts := sset {} s.faults.insts (u * 256 + i) f } }

/-- Capture a fault, or merge it into the record that handles one (R490). -/
def FaultInst.take (f : FaultInst) (c cl now : Nat) (h : Hit) : FaultInst :=
  let first :=
    if f.first.valid then
      { f.first with merged := min 65535 (f.first.merged + 1), maxClass := max f.first.maxClass cl }
    else
      { valid := true, queue := h.queue, merged := 0, maxClass := cl, cls := cl, source := c,
        access := h.access, mNum := h.mNum, mUnit := h.mUnit, aspace := h.aspace, acid := h.acid,
        addr := h.addr, gtc := now }
  let sat (n : Nat) := min (2 ^ 64 - 1) (n + 1)
  { status := f.status ||| (1 <<< c),
    first := first,
    cntA := if cl = 1 then sat f.cntA else f.cntA,
    cntB := if cl = 2 then sat f.cntB else f.cntB,
    cntC := if cl = 3 then sat f.cntC else f.cntC,
    cntD := if cl = 4 then sat f.cntD else f.cntD }

/-- BLOCK_FAULT's part of a firing (R488). -/
def Faults.summary (f : Faults) (u c i cl now : Nat) : Faults :=
  let f := { f with maxClass := max f.maxClass cl }
  let f := if cl ≥ 3 && !f.cdSeen then
      { f with cdSeen := true, cdUnit := u, cdSource := c, cdInst := i, cdGtc := now } else f
  if cl = 4 && !f.grave then { f with dGtc := now } else f

/-- The vectors and AER reports of a firing (R494): only where the status bit was 0 before. -/
def State.faultIrqs (s : State) (u cl : Nat) : State :=
  [0, 1].foldl (fun s p =>
    let e := s.rdN (0xA004 + 0x100 * u) p 0 2
    let s := if e.testBit 8 then s.raise p (e % 256) else s
    if cl = 2 then s else s.emit (.aer p (if cl = 1 then 1 else if cl = 3 then 2 else 3))) s

/-- ERR_N is driven: a status bit is set whose source's reaction holds ERRN, or the block is grave (R499). -/
def State.errN (s : State) : Bool :=
  s.faults.grave || s.faults.insts.any (fun p =>
    (List.range 9).any (fun c => p.2.status.getLsbD c && (s.reactionOf (p.1 / 256) c).testBit 1))

/-- ERR_N follows the fault state (R499): a change of what drives it moves the pin, which is active low. -/
def State.errPin (s : State) (was : Bool) : State := if was = s.errN then s else s.emit (.pin "ERR_N" (b2n (!s.errN)))

/-- Enter the grave state (R498): ALIVE stops and is held low (R499). -/
def State.toGrave (s : State) : State :=
  if s.faults.grave then s
  else
    let s' := { s with faults := { s.faults with grave := true },
                       pcs := { s.pcs with aliveOn := false, alive := false, blk := 0 } }
    if s.pcs.alive then s'.emit (.pin "ALIVE" 0) else s'

/-- One source fires (R490 to R494): the latch, the counters and the capture; the trap, unit reset and block reset that
the caller hands in, as the reaction byte asks; the interrupt; ERR_N; CHIP_RST_REQ. A class C source that fires again
before its unit reset ends is merged and starts no second reset (R497); a BLOCK while BLK runs is merged into it
(R493). -/
def State.fireWith (trap unit block : State → State) (s : State) (u i c : Nat) (h : Hit) : State :=
  let cl := sourceClass u c
  let f := s.faultInst u i
  let fresh := !f.status.getLsbD c
  let r := s.reactionOf u c
  let err0 := s.errN
  let s := s.setFaultInst u i (f.take c cl s.now h)
  let s := { s with faults := s.faults.summary u c i cl s.now }
  let s := if cl = 4 then s.toGrave else s
  let s := if r.testBit 2 then trap s else s
  let s := if r.testBit 3 && !s.faults.resets.contains (u * 256 + i) then unit s else s
  let s := if r.testBit 0 && fresh then s.faultIrqs u cl else s
  let s := if !err0 && s.errN then s.emit (.pin "ERR_N" 0) else s
  let s := if r.testBit 4 && s.pcs.blk = 0 && !s.faults.grave then block s else s
  if r.testBit 5 && !s.pcs.chipRst then
    { s with pcs := { s.pcs with chipRst := true } }.emit (.pin "CHIP_RST_REQ" 1)
  else s

/-- A class A or D source fires: no trap, unit reset or block reset belongs to it (Table 17.6). -/
def State.fire (s : State) (u i c : Nat) (h : Hit) : State := s.fireWith id id id u i c h

/-- A request of a tile that stores. -/
def MemReq.tileStore (r : MemReq) : Bool :=
  match r.src, r.op with
  | .tile _ _, .read => false
  | .tile _ _, .ldr => false
  | .tile _ _, _ => true
  | _, _ => false

/-- BLK starts (R478): SQE, tiles and engines stop, and the store buffers are discarded: what queues in the XFUs, and the stores that no
slice has accepted. A swap is abandoned (R233). DCA_ENABLE returns to 0, and the slices flush (R326). -/
def State.blkStart (s : State) : State :=
  let drop (x : Tile) : Tile := { x with xfers := x.xfers.filter (fun p => p.2.phase ≠ 0) }
  let w := s.tiles.swap
  let w := if w.running then { w with running := false, state := 5, cause := 2, ended := s.now } else w
  State.wr { s with
    tiles := { s.tiles with tile := s.tiles.tile.map (fun p => (p.1, drop p.2)), swap := w },
    coh := { s.coh with slices := s.coh.slices.map (fun kv => (kv.1, { kv.2 with inq := kv.2.inq.filter (fun r => !r.tileStore) })),
                        flushing := true },
    pcs := { s.pcs with blk := 1 } } 0x3200 0 [0]

/-- A class C source whose unit has no unit reset fires: BLOCK starts BLK, if the reaction holds it (R493). -/
def State.fireBlk (s : State) (u i c : Nat) (h : Hit) : State := s.fireWith id id State.blkStart u i c h

/-- No write is issued: grave (R498), or BLK runs (R478). -/
def State.halted (s : State) : Bool := s.faults.grave || s.pcs.blk != 0

/-- The block does not run work: grave (R498), BLK runs (R478), or it has quiesced for D3cold (R471). -/
def State.frozen (s : State) : Bool := s.halted || s.pcs.quiesced

/-- A wake (R469): the block leaves its idle level, or an entry is reversed (R468). -/
def State.wakeUp (s : State) : State :=
  if s.pcs.level = 0 && s.pcs.entryBlock = 0 then s
  else
    State.bump { s with pcs := { s.pcs with level := 0, entryBlock := 0,
                                            levelAt := if s.pcs.level = 0 then s.pcs.levelAt else s.now } } 0x9006 0 4

/-- A trap reaches tiles (R230, R495): a trap that arrives while one is pending or runs counts in TRAP_MERGED. -/
def State.trapTiles (s : State) (tiles : List Nat) (cause : Nat) : State :=
  tiles.foldl (fun s t =>
    let x := s.tile t
    if x.trap.phase = 0 then
      s.setTile t { x with trap := { phase := 1, cause := cause } }
    else s.bump (0x5100 + 0x10 * t) 2 6) s

end Sys2Proof.Machine
end

