-- ==== Sys2Proof/Machine/Event.lean ====
section
/-! DEFINITION. What the dictionary server does on events that are not requests: its events, the loss of the stage and of claims, and
the mailboxes (R40, R48, R52, R64). -/
namespace Sys2Proof.Machine

/-- The path instance of a host port. -/
def hPath (p : Nat) : Path := if p = 0 then .h0 else .h1

/-- A dictionary event (R64): 0 commit refused, 1 armed set fired, 2 armed set failed, 3 stage discarded. A host that enabled it gets
its mailbox vector. -/
def State.event (s : State) (k : Nat) : State :=
  [0, 1].foldl (fun s p =>
    if (s.rdN 0x1106 p 0 4).testBit k then s.raise p (s.rdN (portIx p 0x2000) 3 0 1) else s) s

/-- The stage is empty. -/
def Ods.noStage (o : Ods) : Ods := { o with stageOwner := none, stage := [], stageSeen := 0 }

/-- The stage is discarded (R52). -/
def State.stageDiscard (s : State) : State :=
  match s.ods.stageOwner with
  | none => s
  | some _ =>
    State.event { s with ods := { s.ods.noStage with discards := min (2 ^ 32 - 1) (s.ods.discards + 1) } } 3

/-- Mailbox registers return to their reset values (R40); the requests accepted from it run on, and their responses are discarded
(R413). -/
def State.mailboxReset (s : State) (p : Nat) : State :=
  let lose (l : List DictReq) : List DictReq := l.map (fun r => { r with lost := true })
  let o := { s.ods with mbx := sdel s.ods.mbx p }
  { s with ods := if p = 0 then { o with waitH0 := lose o.waitH0 } else { o with waitH1 := lose o.waitH1 } }

/-- FLRx or HLx, at the dictionary server: the mailbox, the port's claims, and its stage. -/
def State.pathLost (s : State) (p : Nat) : State :=
  let s := s.mailboxReset p
  let s := { s with ods := { s.ods with claims := s.ods.claims.filter (fun c => c.2.owner.path ≠ hPath p) } }
  if s.ods.stageOwner.any (fun w => w.path = hPath p) then s.stageDiscard else s

/-- Return to their default the counters whose entries' reset class satisfies a predicate (R11). -/
def State.resetCtrs (s : State) (p : Rst → Bool) : State :=
  { s with ctr := s.ctr.filter (fun kv =>
      match entAt (kv.1 / 16 / 256) (kv.1 / 16 % 256) with
      | some r => !p r.rst
      | none => false) }

/-- The stored entries and the counters of a reset class return to default (R11). -/
def State.resetClass (s : State) (p : Rst → Bool) : State := (s.resetEnts p).resetCtrs p

end Sys2Proof.Machine
end

