-- ==== Sys2Proof/Machine/Num.lean ====
section
/-! DEFINITION. Number formats, their rounding and arithmetic, block scales, the matrix element of either mode, conversions,
transit tiles and histogram bins (chapter 3). Values are exact: a sign and a quotient of natural numbers. -/
namespace Sys2Proof.Machine

/-! ### Values and formats (R68 to R72) -/

/-- A value: a finite nonzero one is (−1)^neg · n / d. -/
inductive Num where
  | nan
  | inf (neg : Bool)
  | zero (neg : Bool)
  | fin (neg : Bool) (n d : Nat)
  deriving DecidableEq, Repr

/-- A format of Table 3.1. `eb` 0 marks an integer format; `ieee` one with infinities. -/
structure Fmt where
  w    : Nat
  eb   : Nat
  m    : Nat
  bias : Nat
  ieee : Bool
  deriving DecidableEq, Repr

/-- The formats by code (Table 3.1). -/
def fmtOf : Nat → Fmt
  | 0 => ⟨32, 8, 23, 127, true⟩
  | 1 => ⟨16, 8, 7, 127, true⟩
  | 2 => ⟨16, 5, 10, 15, true⟩
  | 3 => ⟨8, 4, 3, 7, false⟩
  | 4 => ⟨8, 5, 2, 15, true⟩
  | 5 => ⟨6, 3, 2, 3, false⟩
  | 6 => ⟨6, 2, 3, 1, false⟩
  | 7 => ⟨4, 2, 1, 1, false⟩
  | 8 => ⟨8, 0, 0, 0, false⟩
  | _ => ⟨4, 0, 0, 0, false⟩

/-- Elements per scale of a block mode (Table 3.2); 0 for NONE. -/
def blkOf : Nat → Nat
  | 1 => 32
  | 2 => 16
  | _ => 0

/-- 2^e as a quotient. -/
def pow2Q (e : Int) : Nat × Nat := if 0 ≤ e then (2 ^ e.toNat, 1) else (1, 2 ^ (-e).toNat)

/-- floor(log2(n / d)) for n, d > 0. -/
def ilog2 (n d : Nat) : Int :=
  let e : Int := (Nat.log2 n : Int) - (Nat.log2 d : Int)
  let (p, q) := pow2Q e
  if n * q < d * p then e - 1 else e

/-- n / d times 2^e. -/
def scaleQ (n d : Nat) (e : Int) : Nat × Nat :=
  let (p, q) := pow2Q e
  (n * p, d * q)

/-- The value of an element's bits (R68, R70). -/
def decodeNum (code bits : Nat) : Num :=
  let f := fmtOf code
  let bits := bits % 2 ^ f.w
  if f.eb = 0 then
    let v := signed f.w bits
    if v = 0 then .zero false else .fin (v < 0) v.natAbs 1
  else
    let neg := bits.testBit (f.w - 1)
    let e := (bits >>> f.m) % 2 ^ f.eb
    let m := bits % 2 ^ f.m
    if e = 2 ^ f.eb - 1 && f.ieee then (if m = 0 then .inf neg else .nan)
    else if code = 3 && e = 15 && m = 7 then .nan
    else if e = 0 then
      if m = 0 then .zero neg
      else
        let (n, d) := scaleQ m 1 (1 - (f.bias : Int) - f.m)
        .fin neg n d
    else
      let (n, d) := scaleQ (2 ^ f.m + m) 1 ((e : Int) - f.bias - f.m)
      .fin neg n d

/-- The canonical NaN of a format (R69). -/
def canonNan : Nat → Nat
  | 0 => 0x7FC00000
  | 1 => 0x7FC0
  | 2 => 0x7E00
  | 3 => 0x7F
  | 4 => 0x7E
  | _ => 0

/-- The largest finite magnitude that conversion produces (Table 3.1, R84). -/
def largestNum (code : Nat) : Nat × Nat :=
  let f := fmtOf code
  if f.eb = 0 then (2 ^ (f.w - 1) - 1, 1)
  else if code = 3 then (448, 1)
  else
    let top : Int := (2 ^ f.eb : Nat) - (if f.ieee then 2 else 1)
    scaleQ (2 ^ (f.m + 1) - 1) 1 (top - f.bias - f.m)

/-- Rounding modes of Table 3.6, with the 16 random bits of SR. -/
inductive Rnd where
  | rne | rtz
  | sr (bits : Nat)
  deriving DecidableEq, Repr

/-- Round n / d to a multiple of 2^u (R82): the multiple. -/
def roundAt (rnd : Rnd) (n d : Nat) (u : Int) : Nat :=
  let (a, b) := scaleQ n d (-u)
  let lo := a / b
  let r := a % b
  let up := match rnd with
    | .rne => b < 2 * r || (2 * r = b && lo % 2 = 1)
    | .rtz => false
    | .sr bits => r ≠ 0 && decide (65536 ≤ 65536 * r / b + bits)
  if up then lo + 1 else lo

/-- The unit in which a format rounds n / d: its exponent. -/
def ulpExp (f : Fmt) (n d : Nat) : Int :=
  if f.eb = 0 then 0 else max (ilog2 n d) (1 - (f.bias : Int)) - f.m

/-- The bits of q · 2^u, which the format holds. -/
def packNum (f : Fmt) (neg : Bool) (q : Nat) (u : Int) : Nat :=
  if f.eb = 0 then (if neg then 2 ^ f.w - q else q) % 2 ^ f.w
  else
    let sg := b2n neg * 2 ^ (f.w - 1)
    let (q, u) := if 2 ^ (f.m + 1) ≤ q then (q / 2, u + 1) else (q, u)
    if q < 2 ^ f.m then sg + q
    else sg + (u + f.m + f.bias).toNat * 2 ^ f.m + (q - 2 ^ f.m)

/-- Zero and infinity of a format. -/
def zeroBits (code : Nat) (neg : Bool) : Nat :=
  let f := fmtOf code
  if f.eb = 0 then 0 else b2n neg * 2 ^ (f.w - 1)
def infBits (code : Nat) (neg : Bool) : Nat :=
  let f := fmtOf code
  b2n neg * 2 ^ (f.w - 1) + (2 ^ f.eb - 1) * 2 ^ f.m

/-- What a conversion of one element counts as (Table 3.9). -/
inductive NumEv where
  | none | sat | flush | invalid
  deriving DecidableEq, Repr

/-- The bits of ± the largest finite value. -/
def largestBits (code : Nat) (neg : Bool) : Nat :=
  let f := fmtOf code
  let (n, d) := largestNum code
  packNum f neg (roundAt .rtz n d (ulpExp f n d)) (ulpExp f n d)

/-- Convert a value to a format (R82, Table 3.7); `satNan` is SATM = NAN. -/
def encodeNum (code : Nat) (rnd : Rnd) (satNan : Bool) (v : Num) : Nat × NumEv :=
  let f := fmtOf code
  match v with
  | .nan => if code ≤ 4 then (canonNan code, .none) else (0, .invalid)
  | .zero neg => (zeroBits code neg, .none)
  | .inf neg =>
    if f.ieee then (infBits code neg, .none)
    else if code = 3 && satNan then (canonNan 3, .none)
    else (largestBits code neg, .sat)
  | .fin neg n d =>
    let u := ulpExp f n d
    let q := roundAt rnd n d u
    let (ln, ld) := largestNum code
    let (qn, qd) := scaleQ q 1 u
    if ln * qd < qn * ld then
      if satNan && code = 3 then (canonNan 3, .none)
      else if satNan && f.ieee && rnd ≠ .rtz then (infBits code neg, .none)
      else (largestBits code neg, .sat)
    else if q = 0 then (zeroBits code neg, .flush)
    else (packNum f neg q u, .none)

/-- Round to nearest even with infinities (R77, R78, R80). -/
def roundNum (code : Nat) (v : Num) : Nat := (encodeNum code .rne true v).1

/-! ### Packed elements (R71, R72) -/

/-- Bytes of a block with its scale. -/
def blockBytes (code blk : Nat) : Nat := 1 + blkOf blk * (fmtOf code).w / 8

/-- Bytes of `n` elements: a block-scaled tensor is stored as whole blocks, its last one too (R71). -/
def rowBytes (code blk n : Nat) : Nat :=
  if blkOf blk = 0 then ceilDiv ((fmtOf code).w * n) 8 else ceilDiv n (blkOf blk) * blockBytes code blk

/-- An element times its block's scale (R71). -/
def scaledNum (v : Num) (x : Nat) : Num :=
  if x = 0xFF then .nan
  else match v with
    | .fin neg n d =>
      let (n, d) := scaleQ n d ((x : Int) - 127)
      .fin neg n d
    | v => v

/-- Element i of a packed string (R72). -/
def elemAt (b : Bytes) (code blk i : Nat) : Num :=
  let w := (fmtOf code).w
  let k := blkOf blk
  if k = 0 then decodeNum code (fld b (w * i) w)
  else
    let o := i / k * blockBytes code blk
    scaledNum (decodeNum code (fld b (8 * (o + 1) + w * (i % k)) w)) (le b o 1)

/-- The first `n` elements. -/
def elems (b : Bytes) (code blk n : Nat) : List Num := (List.range n).map (fun i => elemAt b code blk i)

/-- Pack fields of `w` bits, the first lowest. -/
def packBits (w : Nat) (l : List Nat) : Bytes :=
  natLe (l.foldr (fun x acc => x % 2 ^ w + acc * 2 ^ w) 0) (ceilDiv (w * l.length) 8)

/-! ### IEEE 754 arithmetic, nearest even (R78 to R80) -/

/-- A signed quotient as a value; `neg` is the sign of an exact zero. -/
def ofQuot (n : Int) (d : Nat) (neg : Bool) : Num :=
  if n = 0 then .zero neg else .fin (n < 0) n.natAbs d

/-- The signed numerator and the denominator of a zero or finite value. -/
def Num.quot : Num → Int × Nat
  | .fin neg n d => (if neg then -(n : Int) else n, d)
  | _ => (0, 1)

def Num.neg : Num → Num
  | .nan => .nan
  | .inf s => .inf (!s)
  | .zero s => .zero (!s)
  | .fin s n d => .fin (!s) n d

def Num.sign : Num → Bool
  | .nan => false
  | .inf s => s
  | .zero s => s
  | .fin s _ _ => s

def Num.isZero : Num → Bool
  | .zero _ => true
  | _ => false

/-- The exact sum. -/
def Num.add (x y : Num) : Num :=
  match x, y with
  | .nan, _ => .nan
  | _, .nan => .nan
  | .inf a, .inf b => if a = b then .inf a else .nan
  | .inf a, _ => .inf a
  | _, .inf b => .inf b
  | x, y =>
    let (a, b) := x.quot
    let (c, d) := y.quot
    ofQuot (a * d + c * b) (b * d) (x.isZero && y.isZero && x.sign && y.sign)

/-- The exact product. -/
def Num.mul (x y : Num) : Num :=
  let s := x.sign != y.sign
  match x, y with
  | .nan, _ => .nan
  | _, .nan => .nan
  | .inf _, .zero _ => .nan
  | .zero _, .inf _ => .nan
  | .inf _, _ => .inf s
  | _, .inf _ => .inf s
  | .fin _ a b, .fin _ c d => .fin s (a * c) (b * d)
  | _, _ => .zero s

/-- The exact quotient. -/
def Num.div (x y : Num) : Num :=
  let s := x.sign != y.sign
  match x, y with
  | .nan, _ => .nan
  | _, .nan => .nan
  | .inf _, .inf _ => .nan
  | .zero _, .zero _ => .nan
  | .inf _, _ => .inf s
  | _, .zero _ => .inf s
  | _, .inf _ => .zero s
  | .zero _, _ => .zero s
  | .fin _ a b, .fin _ c d => .fin s (a * d) (b * c)

def fpAdd (code a b : Nat) : Nat := roundNum code ((decodeNum code a).add (decodeNum code b))
def fpSub (code a b : Nat) : Nat := roundNum code ((decodeNum code a).add (decodeNum code b).neg)
def fpMul (code a b : Nat) : Nat := roundNum code ((decodeNum code a).mul (decodeNum code b))
def fpDiv (code a b : Nat) : Nat := roundNum code ((decodeNum code a).div (decodeNum code b))

/-- a · b + c, rounded once. -/
def fpFma (code a b c : Nat) : Nat :=
  roundNum code (((decodeNum code a).mul (decodeNum code b)).add (decodeNum code c))

/-- x is below y as numbers; −0 equals +0 and NaN is never below. -/
def Num.lt (x y : Num) : Bool :=
  match x, y with
  | .nan, _ => false
  | _, .nan => false
  | .inf a, .inf b => a && !b
  | .inf a, _ => a
  | _, .inf b => !b
  | x, y => decide (x.quot.1 * y.quot.2 < y.quot.1 * x.quot.2)

def Num.eq (x y : Num) : Bool :=
  match x, y with
  | .nan, _ => false
  | _, .nan => false
  | x, y => !x.lt y && !y.lt x

/-- minimum and maximum of IEEE 754-2019: NaN if either is NaN; −0 below +0. -/
def fpMinMax (code : Nat) (wantMax : Bool) (a b : Nat) : Nat :=
  let x := decodeNum code a
  let y := decodeNum code b
  if x = .nan || y = .nan then canonNan code
  else
    let less := x.lt y || (x.isZero && y.isZero && x.sign && !y.sign)
    if wantMax then (if less then b else a) else (if less then a else b)

/-! ### Reciprocal, roots, powers and logarithms (R80, R208) -/

/-- floor of the square root, by Newton's iteration from above. -/
def isqrtGo (v : Nat) : Nat → Nat → Nat
  | 0, r => r
  | fuel + 1, r =>
    let r' := (r + v / r) / 2
    if r ≤ r' then r else isqrtGo v fuel r'
def isqrt (v : Nat) : Nat := if v = 0 then 0 else isqrtGo v 64 (2 ^ (Nat.log2 v / 2 + 1))

/-- A value a little above f · 2^-sh: it rounds as the true value does, which lies between two multiples of 2^-sh. -/
def midNum (neg : Bool) (f sh : Nat) : Num := .fin neg (2 * f + 1) (2 ^ (sh + 1))

/-- The square root of n / d: exact, or the middle of a bracket. -/
def sqrtNum (n d : Nat) : Num :=
  let v := 2 ^ 512 * n / d
  let f := isqrt v
  if 2 ^ 512 * n % d = 0 && f * f = v then .fin false f (2 ^ 256) else midNum false f 256

/-- Product of 2^(2^-i) over the set bits of a fraction of `l` bits, in fixed point of 400 bits. -/
def exp2Go (f l : Nat) : Nat → Nat → Nat → Nat
  | 0, _, acc => acc
  | k + 1, r, acc =>
    let r := isqrt (2 ^ 400 * r)
    exp2Go f l k r (if f.testBit k then acc * r / 2 ^ 400 else acc)

/-- 2^x for a finite x. -/
def exp2Num (neg : Bool) (n d : Nat) : Num :=
  if 1200 * d ≤ n then (if neg then .fin false 1 (2 ^ 1200) else .fin false (2 ^ 1200) 1)
  else
    let v : Int := if neg then -(n : Int) else n
    let k := v / d
    let f := (v % d).toNat
    if f = 0 then
      let (p, q) := pow2Q k
      .fin false p q
    else
      let l := Nat.log2 d
      let acc := exp2Go f l l (2 * 2 ^ 400) (2 ^ 400)
      let (p, q) := scaleQ (2 * acc + 1) 1 (k - 401)
      .fin false p q

/-- Binary digits of log2 of a fixed-point value in [1, 2). -/
def log2Go : Nat → Nat → Nat → Nat
  | 0, _, acc => acc
  | k + 1, m, acc =>
    let m := m * m / 2 ^ 400
    if 2 ^ 401 ≤ m then log2Go k (m / 2) (2 * acc + 1) else log2Go k m (2 * acc)

/-- log2 of n / d. -/
def log2Num (n d : Nat) : Num :=
  let e := ilog2 n d
  let (a, b) := scaleQ n d (-e)
  if a = b then ofQuot e 1 false
  else
    let l := log2Go 180 (2 ^ 400 * a / b) 0
    let v : Int := 2 * (e * (2 ^ 180 : Nat) + l) + 1
    ofQuot v (2 ^ 181) false

/-- The unary functions of codes 0x0D to 0x11. -/
inductive Unary where
  | rcp | rsq | sqrt | exp2 | log2
  deriving DecidableEq, Repr

/-- The exact result, or one that rounds as it does. -/
def Unary.exact : Unary → Num → Num
  | _, .nan => .nan
  | .rcp, .zero s => .inf s
  | .rcp, .inf s => .zero s
  | .rcp, .fin s n d => .fin s d n
  | .sqrt, .zero s => .zero s
  | .rsq, .zero s => .inf s
  | .sqrt, .inf s => if s then .nan else .inf false
  | .rsq, .inf s => if s then .nan else .zero false
  | .sqrt, .fin s n d => if s then .nan else sqrtNum n d
  | .rsq, .fin s n d => if s then .nan else sqrtNum d n
  | .exp2, .zero _ => .fin false 1 1
  | .exp2, .inf s => if s then .zero false else .inf false
  | .exp2, .fin s n d => exp2Num s n d
  | .log2, .zero _ => .inf true
  | .log2, .inf s => if s then .nan else .inf false
  | .log2, .fin s n d => if s then .nan else log2Num n d

/-- Strict: correctly rounded. Fast: rounded toward zero, with the last significand bit cleared (R80). -/
def Unary.apply (u : Unary) (code : Nat) (strict : Bool) (a : Nat) : Nat :=
  let x := decodeNum code a
  let y := u.exact x
  if strict then roundNum code y
  else
    let r := (encodeNum code .rtz true y).1
    match x, decodeNum code r with
    | .fin _ _ _, .fin _ _ _ => r / 2 * 2
    | .zero _, .fin _ _ _ => if u = .exp2 then r / 2 * 2 else r
    | _, _ => r

/-! ### The matrix unit (R73 to R79) -/

/-- The internal form's E and M of a finite nonzero value (Table 3.4). -/
def internalEM (n d : Nat) : Int × Nat :=
  let e := ilog2 n d
  let (a, b) := scaleQ n d (10 - e)
  (e, a / b)

/-- A product of the window: sign, exponent, significand. -/
def groupProd (x y : Num) : Option (Bool × Int × Nat) :=
  match x, y with
  | .fin s a b, .fin t c d =>
    let p := internalEM a b
    let q := internalEM c d
    some (s != t, p.1 + q.1, p.2 * q.2)
  | _, _ => none

def Num.isInf : Num → Bool
  | .inf _ => true
  | _ => false

/-- The group sum of R76, as binary32 bits. -/
def groupSum (l : List (Num × Num)) : Nat :=
  let infs := (l.filter (fun p => p.1.isInf || p.2.isInf)).map (fun p => p.1.sign != p.2.sign)
  if l.any (fun p => p.1 = .nan || p.2 = .nan) then canonNan 0
  else if l.any (fun p => (p.1.isInf && p.2.isZero) || (p.1.isZero && p.2.isInf)) then canonNan 0
  else if infs.contains true && infs.contains false then canonNan 0
  else if infs.contains true then infBits 0 true
  else if infs.contains false then infBits 0 false
  else
    let ps := l.filterMap (fun p => groupProd p.1 p.2)
    match ps with
    | [] => zeroBits 0 (l.all (fun p => p.1.sign != p.2.sign))
    | p :: _ =>
      let emax := ps.foldl (fun e q => max e q.2.1) p.2.1
      let sum := ps.foldl (fun (acc : Int) q =>
        let d := (emax - q.2.1).toNat
        let v := if d ≤ 48 then q.2.2 <<< (48 - d) else q.2.2 >>> (d - 48)
        if q.1 then acc - v else acc + v) 0
      if sum = 0 then 0
      else
        let (n, d) := scaleQ sum.natAbs 1 (emax - 68)
        roundNum 0 (.fin (sum < 0) n d)

/-- The output element of fast mode (R78): group sums of 32 added in order. -/
def fastGo : Nat → Nat → List (Num × Num) → Nat
  | 0, acc, _ => acc
  | fuel + 1, acc, l => if l.isEmpty then acc else fastGo fuel (fpAdd 0 acc (groupSum (l.take 32))) (l.drop 32)
def fastElem (c : Nat) (l : List (Num × Num)) : Nat := fastGo (l.length / 32 + 1) c l

/-- An operand in strict mode (R79). -/
def toFp32 (v : Num) : Nat := roundNum 0 v

/-- The output element of strict mode (R79). -/
def strictElem (c : Nat) (l : List (Num × Num)) : Nat :=
  l.foldl (fun acc p => fpFma 0 (toFp32 p.1) (toFp32 p.2) acc) c

/-! ### Conversion (R81 to R90) -/

/-- The random bits of SR (R82). -/
def srBits (seed base i : Nat) : Nat :=
  let x := (seed + 0x9E3779B97F4A7C15 * (base + i)) % 2 ^ 64
  let x := (0xBF58476D1CE4E5B9 * (x ^^^ (x >>> 30))) % 2 ^ 64
  let x := (0x94D049BB133111EB * (x ^^^ (x >>> 27))) % 2 ^ 64
  (x ^^^ (x >>> 31)) >>> 48

/-- The rounding of element i. -/
def rndOf (rnd seed base i : Nat) : Rnd :=
  if rnd = 0 then .rne else if rnd = 1 then .rtz else .sr (srBits seed base i)

/-- The five counters of Table 3.9. -/
structure NumCnt where
  sat      : Nat := 0
  flush    : Nat := 0
  escape   : Nat := 0
  badscale : Nat := 0
  invalid  : Nat := 0
  deriving DecidableEq, Repr

def NumCnt.ev (c : NumCnt) : NumEv → NumCnt
  | .none => c
  | .sat => { c with sat := c.sat + 1 }
  | .flush => { c with flush := c.flush + 1 }
  | .invalid => { c with invalid := c.invalid + 1 }

/-- A tensor or transit scale is positive, normal and finite (R86). -/
def goodScale (bits : Nat) : Bool :=
  let e := (bits >>> 23) % 256
  !bits.testBit 31 && e ≠ 0 && e ≠ 255

/-- emax_elem of R85. -/
def emaxElem : Nat → Int
  | 3 => 8
  | 4 => 15
  | 5 => 4
  | 6 => 2
  | 7 => 2
  | 8 => 6
  | _ => 2

/-- The options of a conversion (Table 3.6). -/
structure CvtOpt where
  src    : Nat := 0
  dst    : Nat := 0
  blk    : Nat := 0
  rnd    : Nat := 0
  satNan : Bool := false
  tsel   : Nat := 0
  tscale : Nat := 0
  seed   : Nat := 0
  base   : Nat := 0
  zp     : Nat := 0
  guard  : Nat := 0
  deriving DecidableEq, Repr

/-- CVT's source value after the tensor scale (R86). -/
def CvtOpt.tensor (o : CvtOpt) (x : Num) : Num :=
  if o.tsel = 1 then x.div (decodeNum 0 o.tscale)
  else if o.tsel = 2 then
    match x with
    | .fin _ _ _ => x.mul (decodeNum 0 o.tscale)
    | x => x
  else x

/-- The block scale's exponent before its clamp, if a value is nonzero (R85). -/
def mxExp (dst : Nat) (l : List Num) : Option Int :=
  l.foldl (fun best x =>
    match x with
    | .fin _ n d =>
      let e := ilog2 n d - emaxElem dst
      match best with
      | some b => some (max b e)
      | none => some e
    | _ => best) none

/-- Convert one block to a block-scaled destination (R85): its bytes and counts. `i` numbers its first element. -/
def CvtOpt.block (o : CvtOpt) (c : NumCnt) (i : Nat) (l : List Num) (bad : Bool) : Bytes × NumCnt :=
  let w := (fmtOf o.dst).w
  if bad || l.any (fun x => x = .nan || x.isInf) then
    ((0xFF : Byte) :: zeros (l.length * w / 8), { c with invalid := c.invalid + (l.filter Num.isInf).length })
  else
    let se := mxExp o.dst l
    let x : Nat := match se with
      | some e => (min 127 (max (-127) e) + 127).toNat
      | none => 0x7F
    let r := l.foldl (fun (acc : List Nat × NumCnt × Nat) v =>
      let v := match v with
        | .fin s n d =>
          let (n, d) := scaleQ n d (127 - (x : Int))
          Num.fin s n d
        | v => v
      let e := encodeNum o.dst (rndOf o.rnd o.seed o.base acc.2.2) false v
      let cnt := match e.2 with
        | .flush => acc.2.1.ev .flush
        | .sat => if se.any (fun e => decide (127 < e)) then acc.2.1.ev .sat else acc.2.1
        | _ => acc.2.1
      (acc.1 ++ [e.1], cnt, acc.2.2 + 1)) ([], c, i)
    (BitVec.ofNat 8 x :: packBits w r.1, r.2.1)

/-- The destination is a CVT's block-scaled side: its format may carry a scale (R71), and its source is FP32, BF16, FP16 or the
quotient by a tensor scale (R85). DEDUCED, log 77. -/
def CvtOpt.dstSide (o : CvtOpt) : Bool := decide (3 ≤ o.dst) && (decide (o.src < 3) || o.tsel = 1)

/-- Elements per scale of a CVT's destination (R81). -/
def CvtOpt.dstBlk (o : CvtOpt) : Nat := if o.dstSide then blkOf o.blk else 0

/-- The block mode of a CVT's source: that of BLK where the source may carry one and the destination is not the block-scaled side. -/
def CvtOpt.srcBlk (o : CvtOpt) : Nat := if 3 ≤ o.src && !o.dstSide then o.blk else 0

/-- The block mode of a TNARROW's source: a transit tile carries none, so BLK is the source's (R87, R88). -/
def CvtOpt.tileBlk (o : CvtOpt) : Nat := if 3 ≤ o.src then o.blk else 0

/-- Blocks of a list. -/
def chunks (n : Nat) : Nat → List Num → List (List Num)
  | 0, _ => []
  | fuel + 1, l => if l.isEmpty then [] else l.take n :: chunks n fuel (l.drop n)

/-- CVT (R81 to R86): the destination's bytes and the counts. Under a bad tensor scale every element of a plain destination is a NaN
that Table 3.7 converts, so INVALID counts each that becomes +0 (DESIGN CHOICE, log 78). -/
def CvtOpt.cvt (o : CvtOpt) (vals : List Num) : Bytes × NumCnt :=
  let bad := o.tsel ≠ 0 && !goodScale o.tscale
  let c : NumCnt := if bad then { badscale := 1 } else {}
  let k := o.dstBlk
  if k ≠ 0 then
    let xs := if bad then vals else vals.map o.tensor
    let r := (chunks k (vals.length + 1) xs).foldl (fun (acc : Bytes × NumCnt × Nat) l =>
      let (b, c) := o.block acc.2.1 acc.2.2 l bad
      (acc.1 ++ b, c, acc.2.2 + l.length)) ([], c, 0)
    (r.1, r.2.1)
  else
    let r := vals.foldl (fun (acc : List Nat × NumCnt × Nat) v =>
      let v := if bad then Num.nan else o.tensor v
      let e := encodeNum o.dst (rndOf o.rnd o.seed o.base acc.2.2) o.satNan v
      (e.1 :: acc.1, acc.2.1.ev e.2, acc.2.2 + 1)) ([], c, 0)
    (packBits (fmtOf o.dst).w r.1.reverse, r.2.1)

/-- One element of TNARROW: r + z clamped, whether it counts as saturated, and whether as flushed (R88). The spec gives no quotient by a
scale of 0, infinity or NaN, under which the tile escapes: x/0 counts as saturated, x/infinity as flushed, and under a NaN infinities
alone count as saturated (DESIGN CHOICE, log 79). -/
def narrowElem (o : CvtOpt) (i : Nat) (x : Num) : Int × Bool × Bool :=
  let z := signed 8 o.zp
  let clamp (r : Int) : Int := min 127 (max (-128) r)
  match x.div (decodeNum 0 o.tscale) with
  | .nan => (0, x.isInf, false)
  | .inf s => (if s then -128 else 127, true, false)
  | .zero _ => (clamp z, x.isInf, match x with
                                  | .fin _ _ _ => true
                                  | _ => false)
  | .fin s n d =>
    let q := roundAt (rndOf o.rnd o.seed o.base i) n d 0
    let r : Int := (if s then -(q : Int) else q) + z
    (clamp r, x.isInf || r ≠ clamp r, q = 0)

/-- The transit header (Table 3.8). -/
def transitHead (flushed saturated count : Nat) (escaped : Bool) (zp scale : Nat) : Bytes :=
  natLe scale 4 ++ natLe zp 1 ++ natLe (b2n escaped) 1 ++ natLe count 2 ++ natLe saturated 2 ++ natLe flushed 2 ++ zeros 4

/-- TNARROW (R88). -/
def CvtOpt.narrow (o : CvtOpt) (vals : List Num) : Bytes × NumCnt :=
  let n := vals.length
  let qs := (vals.foldl (fun (acc : List (Int × Bool × Bool) × Nat) v =>
    (narrowElem o acc.2 v :: acc.1, acc.2 + 1)) ([], 0)).1.reverse
  let sat := (qs.filter (fun q => q.2.1)).length
  let flu := (qs.filter (fun q => q.2.2)).length
  let bad := !goodScale o.tscale
  let esc := bad || vals.any (fun v => v = .nan) || decide (o.guard * n < 4096 * sat)
  let c : NumCnt := { badscale := b2n bad, escape := b2n esc, sat := if esc then 0 else sat, flush := if esc then 0 else flu }
  let head := transitHead flu sat n esc o.zp o.tscale
  if esc then (head ++ packBits 16 (vals.map (fun v => roundNum 1 v)), c)
  else (head ++ packBits 8 (qs.map (fun q => unsigned 8 q.1)), c)

/-- The values of a transit tile as TWIDEN reads it: none where it is not a good tile of `n` elements (R89). -/
def widenVals (b : Bytes) (n : Nat) : Option (Bool × List Num) :=
  let esc := bit b 40
  let scale := le b 0 4
  if fld b 48 16 ≠ n || fld b 96 32 ≠ 0 || fld b 41 7 ≠ 0 || (!esc && !goodScale scale) then none
  else if esc then some (true, (List.range n).map (fun i => decodeNum 1 (le b (16 + 2 * i) 2)))
  else
    let z := signed 8 (le b 4 1)
    let s := decodeNum 0 scale
    some (false, (List.range n).map (fun i =>
      (ofQuot (signed 8 (le b (16 + i) 1) - z) 1 false).mul s))

/-- TWIDEN (R89). -/
def CvtOpt.widen (o : CvtOpt) (b : Bytes) (n : Nat) : Bytes × NumCnt :=
  let w := (fmtOf o.dst).w
  match widenVals b n with
  | none =>
    let bad := !bit b 40 && !goodScale (le b 0 4)
    (packBits w (List.replicate n (canonNan o.dst)), { invalid := n, badscale := b2n bad })
  | some (esc, vals) =>
    if esc && o.dst = 1 then (packBits 16 ((List.range n).map (fun i => le b (16 + 2 * i) 2)), {})
    else (packBits w (vals.map (fun v => roundNum o.dst v)), {})

/-! ### Histograms (R91) -/

/-- The bin of a value. -/
def histBin (v : Num) : Nat :=
  match v with
  | .nan => 255
  | .inf _ => 255
  | .zero _ => 0
  | .fin _ n d =>
    let e := ilog2 n d
    if e < -126 then 0 else (min 254 (max 1 (e + 127))).toNat

/-! ### Vector registers (R202, R207) -/

/-- The lanes of a vector register: 256 of 32 bits, or 512 of 16. -/
def lanesOf (lw16 : Bool) (v : Vec) : List Nat :=
  let w := if lw16 then 16 else 32
  (List.range (8192 / w)).map (fun i => (v.toNat >>> (w * i)) % 2 ^ w)

/-- A vector register from its lanes. -/
def ofLanes (lw16 : Bool) (l : List Nat) : Vec :=
  let w := if lw16 then 16 else 32
  BitVec.ofNat 8192 (l.foldr (fun x acc => x % 2 ^ w + acc * 2 ^ w) 0)

/-- A vector register's bytes, and back. -/
def vecBytes (v : Vec) : Bytes := natLe v.toNat 1024
def ofVecBytes (b : Bytes) : Vec := BitVec.ofNat 8192 (leNat b)

/-- One level of the reduction tree. -/
def pairUp (op : Nat → Nat → Nat) : List Nat → List Nat
  | a :: b :: r => op a b :: pairUp op r
  | l => l

/-- Reduce lanes in the fixed tree (R209). -/
def reduceLanes (op : Nat → Nat → Nat) : Nat → List Nat → Nat
  | 0, l => l.headD 0
  | k + 1, l => if l.length ≤ 1 then l.headD 0 else reduceLanes op k (pairUp op l)

end Sys2Proof.Machine
end

