-- ==== Sys2Proof/Machine/Shelf.lean ====
section
/-! DEFINITION. Shelves 1 and 2 behind their controllers (chapter 10): the address maps, lines and poison, the carve-out,
corrected and uncorrectable errors, sparing, and background slots. -/
namespace Sys2Proof.Machine

/-! ### Address maps (R289 to R292) -/

/-- The first DPA of shelf 2. -/
def shelf2Base : Nat := 0x0100_0000_0000

/-- How far an address lies above the base of shelf 2. -/
def shelf2Off (a : Nat) : Nat := if a < shelf2Base then 0 else a - shelf2Base

/-- The stack of a shelf 1 address (R290). -/
def stackOf (a : Nat) : Nat :=
  ((a >>> 8) % 8) ^^^ ((a >>> 11) % 8) ^^^ ((a >>> 14) % 8) ^^^ ((a >>> 17) % 8)

/-- Its offset in the stack (R290). -/
def stackOff (a : Nat) : Nat := (a >>> 11) * 256 + a % 256

/-- The pseudo-channel of a stack offset (R290). -/
def pcOf (o : Nat) : Nat := ((o >>> 8) % 64) ^^^ ((o >>> 14) % 64) ^^^ ((o >>> 20) % 64)

/-- The DPA at a stack and a stack offset: R290 inverted. -/
def dpaOfStack (st o : Nat) : Nat :=
  let hi := o >>> 8
  let low := st ^^^ (hi % 8) ^^^ ((hi >>> 3) % 8) ^^^ ((hi >>> 6) % 8)
  2048 * hi + low * 256 + o % 256

/-- The channel of a shelf 2 address (R292). -/
def chanOf (a : Nat) : Nat := (shelf2Off a >>> 8) % 12

/-- Its offset in the channel (R292). -/
def chanOff (a : Nat) : Nat := ((shelf2Off a >>> 8) / 12) * 256 + a % 256

/-- The DPA at a channel and a channel offset: R292 inverted. -/
def dpaOfChan (c o : Nat) : Nat := shelf2Base + ((o >>> 8) * 12 + c) * 256 + o % 256

/-- An address on shelf 2's range. -/
def inShelf2 (a : Nat) : Bool := decide (shelf2Base ≤ a)

/-- The controller of an address: 0 to 7 the stacks, 8 to 19 the channels. -/
def ctlOf (a : Nat) : Nat := if inShelf2 a then 8 + chanOf a else stackOf a

/-- C of R292 in bytes: the capacity used of each channel. -/
def Shelves.chanBytes (h : Shelves) : Nat := 2 ^ 30 * h.chanGib

/-- The rank of a channel offset: the ranks of a channel follow one another, and capacity above C is
the last one's (log 12). -/
def Shelves.rankOf (h : Shelves) (o : Nat) : Nat := if h.ranks = 0 then 0 else min (h.ranks - 1) (o / (h.chanBytes / h.ranks))

/-- The part (pseudo-channel or rank) of an address. -/
def Shelves.partOf (h : Shelves) (a : Nat) : Nat :=
  if inShelf2 a then h.rankOf (chanOff a) else pcOf (stackOff a)

/-- The key of a controller's part. -/
def partKey (ctl part : Nat) : Nat := ctl * 64 + part

/-- The state of a part (R314): 0 OK, 1 ADVISED, 2 COPYING, 3 SPARED, 4 FAILED. -/
def Shelves.part (h : Shelves) (ctl part : Nat) : Nat := sget 0 h.parts (partKey ctl part)

/-- A part of the shelf is COPYING or SPARED (R306): shelf 1 (`lo` 0, `hi` 8) or shelf 2 (8, 20). -/
def Shelves.mapHolds (h : Shelves) (lo hi : Nat) : Bool :=
  h.parts.any (fun p => decide (lo * 64 ≤ p.1) && decide (p.1 < hi * 64) && (p.2 = 2 || p.2 = 3))

/-- HBM_CFG's fields (R314). -/
def State.spareEn (s : State) : Bool := s.rdN 0x3000 0 0 1 = 1
def State.carveGib (s : State) : Nat := s.rdN 0x3000 0 2 1
def State.carveSeed (s : State) : Nat := s.rdN 0x3000 0 8 8

/-- The spare reserve of shelf 1 is held (R291, R306). -/
def State.reserveHeld (s : State) : Bool := s.spareEn || s.shelves.mapHolds 0 8

/-- The spare ranks of shelf 2 are held (R292, R306). -/
def State.ranksHeld (s : State) : Bool := s.rdN 0x3100 0 0 1 = 1 || s.shelves.mapHolds 8 20

/-- The bytes of software-visible shelf 1 under a CARVE_GIB and a held reserve (R291). -/
def visible1 (held : Bool) (gib : Nat) : Nat := 2 ^ 30 * (768 - (if held then 16 else 0) - gib)

/-- Software-visible shelf 1 (R291). -/
def State.shelf1Top (s : State) : Nat := visible1 s.reserveHeld s.carveGib

/-- The bytes of software-visible shelf 2 (R292); none while it is OFFLINE or untrained. -/
def State.shelf2Bytes (s : State) : Nat :=
  let h := s.shelves
  if h.capState = 0 || h.capState = 2 || h.ranks = 0 then 0
  else if s.ranksHeld then 12 * h.chanBytes * (h.ranks - 1) / h.ranks else 12 * h.chanBytes

/-- A DPA lies on software-visible shelf 1 or 2 (R289). -/
def State.onShelf (s : State) (a : Nat) : Bool :=
  decide (a < s.shelf1Top) || (inShelf2 a && decide (a < shelf2Base + s.shelf2Bytes))

/-! ### Lines in the memory devices (R300, R305) -/

/-- A line as the devices hold it: 64 bytes and its poison. A FAILED part's lines read poison (R305). -/
def Shelves.rawRead (h : Shelves) (line : Nat) : Bytes × Bool :=
  let a := line * 64
  (mread h.mem a 64, sget false h.poison line || h.part (ctlOf a) (h.partOf a) == 4)

/-- The counter index of a controller's STACK_COUNTS or CHAN_COUNTS and its subindex. -/
def ctlCounts (ctl : Nat) : Nat × Nat := if ctl < 8 then (0x3002, ctl) else (0x3102, ctl - 8)

/-- Count in a controller's four counters: 0 CE, 1 UE, 2 POISON_WRITES, 3 LINES_COPIED. -/
def State.ctlCount (s : State) (ctl k : Nat) (n : Nat := 1) : State :=
  s.bump (ctlCounts ctl).1 (ctlCounts ctl).2 k n

/-- A foreground write has reached a line of the controllers: a scrub read of it writes nothing back (R302). -/
def Shelves.wrote (h : Shelves) (line : Nat) : Shelves :=
  { h with reads := h.reads.map (fun p =>
      if p.2.line = line && p.2.why = .scrub then (p.1, { p.2 with written := true }) else p) }

/-- Write a whole line with its poison. A write to a FAILED part is dropped and counted in UE (R305). -/
def State.rawWrite (s : State) (line : Nat) (data : Bytes) (poison : Bool) : State :=
  let a := line * 64
  let ctl := ctlOf a
  let h := s.shelves
  if h.part ctl (h.partOf a) = 4 then s.ctlCount ctl 1
  else
    let s := { s with shelves := { h.wrote line with mem := mwrite h.mem a data, poison := sset false h.poison line poison } }
    if poison then s.ctlCount ctl 2 else s

/-! ### The carve-out (R293 to R298) -/

/-- The carve-out's sets. -/
def State.carveSets (s : State) : Nat := 2 ^ 22 * s.carveGib

/-- The set of a shelf 2 line number n (R293). -/
def State.carveSet (s : State) (n : Nat) : Nat := reduce (mix n s.carveSeed) s.carveSets

/-- The shelf 2 line number of a DPA line (R293). -/
def carveLine (line : Nat) : Nat := shelf2Off (64 * line) / 64

/-- The key of the way that holds line n, if the carve-out holds it. -/
def State.carveFind (s : State) (n : Nat) : Option Nat :=
  if s.carveGib = 0 then none
  else (List.range 3).findSome? (fun w =>
    let k := s.carveSet n * 3 + w
    let x := sget {} s.shelves.carve k
    if x.valid && x.line = n then some k else none)

def State.carveWay (s : State) (k : Nat) : CarveWay := sget {} s.shelves.carve k

/-- The DPA of a set's tag line: the carve-out lies on top of software-visible shelf 1 (R291, R293). -/
def State.carveAddr (s : State) (set : Nat) : Nat := s.shelf1Top + 256 * set

/-- The pseudo-channel of a set has FAILED: what its lines would say is lost, so reads through the set return poison and what is written
to it is dropped (R305; DEDUCED, log 95). -/
def State.carveDead (s : State) (set : Nat) : Bool :=
  let a := s.carveAddr set
  s.shelves.part (stackOf a) (pcOf (stackOff a)) = 4

def State.setCarve (s : State) (k : Nat) (x : CarveWay) : State :=
  { s with shelves := { s.shelves with carve := sset {} s.shelves.carve k x } }

/-- Store a line in a way. In a FAILED pseudo-channel it is dropped and counted in UE (R305). -/
def State.carveStore (s : State) (k : Nat) (x : CarveWay) : State :=
  let a := s.carveAddr (k / 3)
  if s.carveDead (k / 3) then s.ctlCount (stackOf a) 1
  else State.setCarve { s with shelves := s.shelves.wrote (a / 64 + 1 + k % 3) } k x

/-- Make a way the most recent of its set (Table 10.2, AGE). -/
def State.carveTouch (s : State) (k : Nat) : State :=
  let a := (s.carveWay k).age
  [0, 1, 2].foldl (fun s w =>
    let j := k / 3 * 3 + w
    let x := s.carveWay j
    if j = k then s.setCarve j { x with age := 0 }
    else if x.valid && x.age < a then s.setCarve j { x with age := x.age + 1 }
    else s) s

/-- The reuse counter of line n's 4 KiB page: stored as its value plus 2 modulo 4, so that an unlisted counter holds 2
(R295). -/
def State.reuseKey (s : State) (n : Nat) : Nat := reduce (mix (n / 64) s.carveSeed) 4096
def State.reuseOf (s : State) (n : Nat) : Nat := (sget 0 s.shelves.reuse (s.reuseKey n) + 2) % 4
def State.setReuse (s : State) (n v : Nat) : State :=
  { s with shelves := { s.shelves with reuse := sset 0 s.shelves.reuse (s.reuseKey n) ((v + 2) % 4) } }

/-- A carve-out counter: 0 HITS, 1 OFFERS_ACCEPTED, 2 OFFERS_DECLINED, 3 DIRTY_WRITEBACKS. -/
def State.carveCount (s : State) (k : Nat) : State := s.bump 0x3000 4 k

/-- Give up a way: a DIRTY victim is written to shelf 2; a victim never read lowers its page's reuse counter (R295). -/
def State.carveEvict (s : State) (k : Nat) : State :=
  let x := s.carveWay k
  if !x.valid then s
  else
    let s := if x.dirty then (s.rawWrite (shelf2Base / 64 + x.line) x.data (x.poison || s.carveDead (k / 3))).carveCount 3 else s
    let s := if x.hit then s else s.setReuse x.line (s.reuseOf x.line - 1)
    s.setCarve k {}

/-- Offer an evicted shelf 2 line to the carve-out (R295, R298). `line` is the DPA line number. -/
def State.carveOffer (s : State) (line : Nat) (data : Bytes) (poison dirty : Bool) : State :=
  let n := carveLine line
  let decline (s : State) : State :=
    let s := s.carveCount 2
    if dirty then s.rawWrite line data poison else s
  match s.carveFind n with
  | some k =>
    if s.shelves.flushing then
      -- declined: the way holds an older copy, which the offered line replaces in shelf 2
      if dirty then (s.setCarve k {}).rawWrite line data poison |>.carveCount 2 else s.carveCount 2
    else
      let x := s.carveWay k
      if dirty || decide (2 ≤ s.reuseOf n) then
        ((s.carveStore k { x with data := data, poison := poison, dirty := x.dirty || dirty }).carveTouch k).carveCount 1
      else s.carveCount 2
  | none =>
    if s.shelves.flushing then decline s
    else if dirty || decide (2 ≤ s.reuseOf n) then
      let base := s.carveSet n * 3
      let k := match (List.range 3).find? (fun w => !(s.carveWay (base + w)).valid) with
        | some w => base + w
        | none => base + ((List.range 3).find? (fun w => (s.carveWay (base + w)).age == 2)).getD 0
      let old := s.carveWay k
      let s := s.carveEvict k
      let s := s.carveStore k { line := n, valid := true, dirty := dirty, hit := false,
                                age := if old.valid then old.age else 3, poison := poison, data := data }
      (s.carveTouch k).carveCount 1
    else decline s

/-- The line's set of the carve-out is lost (R305). -/
def State.carveLost (s : State) (line : Nat) : Bool :=
  inShelf2 (line * 64) && s.carveGib ≠ 0 && s.carveDead (s.carveSet (carveLine line))

/-- A line as memory gives it: the carve-out's copy when it is valid, else the shelf's (R294). -/
def State.backRead (s : State) (line : Nat) : Bytes × Bool :=
  let r := if inShelf2 (line * 64) then
      match s.carveFind (carveLine line) with
      | some k => ((s.carveWay k).data, (s.carveWay k).poison)
      | none => s.shelves.rawRead line
    else s.shelves.rawRead line
  (r.1, r.2 || s.carveLost line)

/-- Write a whole line at memory: to the carve-out way that holds it, else to the shelf (R296). -/
def State.backWrite (s : State) (line : Nat) (data : Bytes) (poison : Bool) : State :=
  if inShelf2 (line * 64) then
    match s.carveFind (carveLine line) with
    | some k => s.carveStore k { s.carveWay k with data := data, poison := poison, dirty := true }
    | none => s.rawWrite line data poison
  else s.rawWrite line data poison

/-- Merge bytes into a line at memory. A full line without poison clears poison; a partial write keeps it (R300). -/
def State.backMerge (s : State) (line off : Nat) (bytes : Bytes) (poison : Bool) : State :=
  let (old, p) := s.backRead line
  s.backWrite line (patch old off bytes) (if bytes.length = 64 then poison else p || poison)

/-! ### Errors and sparing (R301 to R306) -/

/-- AUTO_SPARE, CE_LIMIT and CE_WINDOW (in s) of a controller's shelf. -/
def State.autoSpare (s : State) (ctl : Nat) : Bool :=
  if ctl < 8 then s.rdN 0x3000 0 1 1 = 1 else s.rdN 0x3100 0 1 1 = 1
def State.ceLimit (s : State) (ctl : Nat) : Nat := if ctl < 8 then s.rdN 0x3000 0 4 2 else s.rdN 0x3100 0 2 2
def State.ceWindow (s : State) (ctl : Nat) : Nat := if ctl < 8 then s.rdN 0x3000 0 6 2 else s.rdN 0x3100 0 4 2

/-- Sparing is enabled on a controller's shelf. -/
def State.sparingOn (s : State) (ctl : Nat) : Bool := if ctl < 8 then s.spareEn else s.rdN 0x3100 0 0 1 = 1

/-- A controller's one spare is used: some part of it is COPYING or SPARED (R303, R304). -/
def Shelves.spareUsed (h : Shelves) (ctl : Nat) : Bool := h.mapHolds ctl (ctl + 1)

/-- A copy runs on the controller's shelf (R304). -/
def Shelves.copyRuns (h : Shelves) (ctl : Nat) : Bool := h.copies.any (fun c => (c.ctl < 8) == (ctl < 8))

/-- A sparing copy may start on the controller (R304). -/
def State.mayCopy (s : State) (ctl : Nat) : Bool :=
  s.sparingOn ctl && !s.shelves.spareUsed ctl && !s.shelves.copyRuns ctl

def State.setPart (s : State) (ctl part v : Nat) : State :=
  { s with shelves := { s.shelves with parts := sset 0 s.shelves.parts (partKey ctl part) v } }

/-- Start a sparing copy (SPARING_COPY_START, R303). -/
def State.copyStart (s : State) (ctl part : Nat) : State :=
  let s := s.setPart ctl part 2
  { s with shelves := { s.shelves with copies := s.shelves.copies ++ [{ ctl := ctl, part := part, pointer := 0 }] } }

/-- The fault unit and instance of a controller. -/
def ctlUnit (ctl : Nat) : Nat × Nat := if ctl < 8 then (uHbm, ctl) else (uCap, ctl - 8)

/-- A source of a controller fires. -/
def State.fireCtl (s : State) (ctl c : Nat) (h : Hit) : State := s.fire (ctlUnit ctl).1 (ctlUnit ctl).2 c h

/-- The parts of a controller that its spare can take: every pseudo-channel, or every rank but the spare one (R303, R314). -/
def Shelves.spareParts (h : Shelves) (ctl : Nat) : Nat := if ctl < 8 then 64 else h.ranks - 1

/-- While AUTO_SPARE is 1, the copy of an ADVISED part starts by itself as soon as one may start (R303): the lowest part's first. -/
def State.autoCopy (s : State) (ctl : Nat) : State :=
  if s.autoSpare ctl && s.mayCopy ctl then
    match (List.range (s.shelves.spareParts ctl)).find? (fun p => s.shelves.part ctl p = 1) with
    | some p => s.copyStart ctl p
    | none => s
  else s

/-- The same for every controller. -/
def State.autoCopies (s : State) : State := (List.range 20).foldl (fun s c => s.autoCopy c) s

/-- A correctable error of a part: counted, and at CE_LIMIT within CE_WINDOW the part is ADVISED and, with AUTO_SPARE, its
copy starts (R301, R303). -/
def State.corrected (s : State) (ctl part : Nat) (h : Hit) : State :=
  let s := (s.ctlCount ctl 0).fireCtl ctl 0 h
  let key := partKey ctl part
  let w := 1000000000 * s.ceWindow ctl
  let times := ((sget [] s.shelves.ceWin key).filter (fun t => since s.now t < w)) ++ [s.now]
  let s := { s with shelves := { s.shelves with ceWin := sset [] s.shelves.ceWin key times } }
  if s.ceLimit ctl ≠ 0 && decide (s.ceLimit ctl ≤ times.length) && s.shelves.part ctl part = 0 then
    ((s.setPart ctl part 1).fireCtl ctl 2 h).autoCopy ctl
  else s

/-- An uncorrectable error of a line read. -/
def State.uncorrected (s : State) (ctl : Nat) (h : Hit) : State := (s.ctlCount ctl 1).fireCtl ctl 1 h

/-- A read of a line ends in one of the outcomes of Table 10.4: what it found is counted for its part. -/
def State.eccFound (s : State) (a : Nat) (ecc : Ecc) (h : Hit) : State :=
  match ecc with
  | .clean => s
  | .corrected => s.corrected (ctlOf a) (s.shelves.partOf a) h
  | .uncorrectable => s.uncorrected (ctlOf a) h

/-- A part is marked FAILED and reported (R305). A copy of it ends. -/
def State.partFailed (s : State) (ctl part : Nat) : State :=
  if s.shelves.part ctl part = 4 then s
  else State.fireCtl (State.setPart { s with shelves := { s.shelves with
      copies := s.shelves.copies.filter (fun c => !(c.ctl = ctl && c.part = part)) } } ctl part 4) ctl 3 { access := 0, mUnit := (ctlUnit ctl).1, mNum := (ctlUnit ctl).2, addr := part }

/-- The lines of a part that a sparing copy walks (R303): a pseudo-channel's lines below the reserve, or a rank's. -/
def Shelves.partLines (h : Shelves) (ctl : Nat) : Nat :=
  if ctl < 8 then 94 * 2 ^ 30 / 64 / 64 else if h.ranks = 0 then 0 else h.chanBytes / h.ranks / 64

/-- The DPA line at a copy's pointer: the part's lines in increasing address. -/
def Shelves.copyLine (h : Shelves) (c : Copy) : Nat :=
  if c.ctl < 8 then
    let u := c.pointer / 4
    let g := u * 64 + (c.part ^^^ (u % 64) ^^^ ((u >>> 6) % 64))
    dpaOfStack c.ctl (g * 256 + c.pointer % 4 * 64) / 64
  else dpaOfChan (c.ctl - 8) (c.part * (h.chanBytes / h.ranks) + c.pointer * 64) / 64

/-- Ask a controller for a line. On a shelf 2 line, the tag line of its set is read at the same time (R294). -/
def State.openRead (s : State) (line : Nat) (why : ReadFor) : State :=
  let a := line * 64
  let (id, s) := s.fresh
  let s := { s with shelves := { s.shelves with reads := sput s.shelves.reads id { ctl := ctlOf a, line := line, why := why } } }
  if inShelf2 a && s.carveGib ≠ 0 then
    let (tid, s) := s.fresh
    { s with shelves := { s.shelves with tagReads := sput s.shelves.tagReads tid { line := line, read := id } } }
  else s

/-- A line read that some other access must wait for: a far atomic, a read-modify-write, or a sparing copy at its pointer (R303). -/
def ReadFor.holdsLine : ReadFor → Bool
  | .far _ => true
  | .rmw _ => true
  | .copy => true
  | _ => false

/-- One line of a sparing copy begins, in a COPY slot (R303, R304): the line at the pointer is read. -/
def State.copyStep (s : State) (ctl : Nat) : State :=
  match s.shelves.copies.find? (fun c => c.ctl = ctl) with
  | none => s
  | some c =>
    if s.shelves.reads.any (fun p => p.2.ctl = ctl && p.2.why = .copy) then s
    else
      let (id, s) := s.fresh
      { s with shelves := { s.shelves with reads := sput s.shelves.reads id { ctl := ctl, line := s.shelves.copyLine c, why := .copy } } }

/-- The line at the pointer has been read with correction, and is written to the spare; one that is uncorrectable is written there as
poison. The pointer moves; at the end the part is SPARED. -/
def State.copyDone (s : State) (ctl : Nat) (bad : Bool) : State :=
  match s.shelves.copies.find? (fun c => c.ctl = ctl) with
  | none => s
  | some c =>
    let line := s.shelves.copyLine c
    let s := s.ctlCount ctl 3
    let s := if bad then s.rawWrite line (s.shelves.rawRead line).1 true else s
    let rest := s.shelves.copies.filter (fun d => d.ctl ≠ ctl)
    if c.pointer + 1 < s.shelves.partLines ctl then
      { s with shelves := { s.shelves with copies := rest ++ [{ c with pointer := c.pointer + 1 }] } }
    else (State.setPart { s with shelves := { s.shelves with copies := rest } } ctl c.part 3).autoCopies

/-! ### Background slots (R307 to R312) -/

/-- The key of a controller's bank. -/
def bankKey (ctl bank : Nat) : Nat := bank * 32 + ctl

/-- The key of a kind's debt on a bank. -/
def debtKey (ctl bank kind : Nat) : Nat := bankKey ctl bank * 8 + kind

/-- The debt bound of a kind (Table 10.5). -/
def debtBound (kind : Nat) : Nat := if kind = 0 then 8 else 64

/-- The longest a slot of a kind holds a bank, in ns (R307, R308). -/
def slotLen (kind : Nat) : Nat := if kind = 0 then 350 else 2000

/-- The ns for which the slots of a list hold a bank in the 200 µs that end at an instant. -/
def heldUpTo (l : List BgSlot) (t : Nat) : Nat :=
  (l.map (fun x => min t (x.start + x.len) - max (t - 200000) x.start)).foldl (· + ·) 0

/-- The slots that have held a bank, of one class: the REF slots that fell due, or the others. -/
def State.slotsOf (s : State) (ctl bank : Nat) (due : Bool) : List BgSlot :=
  (sget [] s.shelves.lastSlots (bankKey ctl bank)).filter (fun x => x.due = due)

/-- A slot of a kind may start on the bank (R307, limit 1): no slot runs there, and in the 200 µs up to its end the bank is held for 6 µs
at most, of which the REF slots that fell due take a third at most and all others the remainder at most. -/
def State.slotFits (s : State) (ctl bank kind : Nat) (due : Bool) : Bool :=
  let t := s.now + slotLen kind
  let mine := heldUpTo (s.slotsOf ctl bank due) t + slotLen kind
  let others := heldUpTo (s.slotsOf ctl bank (!due)) t
  (sfind s.shelves.slots (bankKey ctl bank)).isNone && decide (mine ≤ (if due then 2000 else 4000)) && decide (mine + others ≤ 6000)

def State.debtOf (s : State) (ctl bank kind : Nat) : Nat := sget 0 s.shelves.debt (debtKey ctl bank kind)
def State.setDebt (s : State) (ctl bank kind v : Nat) : State :=
  { s with shelves := { s.shelves with debt := sset 0 s.shelves.debt (debtKey ctl bank kind) v } }

/-- Start a slot on a bank: BG_COUNTS counts it, and a forced one in its second half (R314). -/
def State.slotStart (s : State) (ctl bank kind : Nat) (due forced : Bool) : State :=
  let x : BgSlot := { kind := kind, start := s.now, len := slotLen kind, due := due }
  let s := { s with shelves := { s.shelves with slots := sput s.shelves.slots (bankKey ctl bank) x } }
  let s := s.bump 0x3300 2 kind
  if forced then s.bump 0x3300 2 (6 + kind) else s

/-- A slot falls due (R307, limit 3; R308): while foreground waits for the bank it is postponed into debt, up to the bound, whatever
runs there. Otherwise it starts where limits 1 and 2 allow: at the bound it is forced, but not before a request that already waited
when the last slot ended. Answers whether it started, and whether it has been dealt with. -/
def State.slotDue (s : State) (ctl bank kind : Nat) (fg : FgWait) : State × Bool × Bool :=
  let debt := s.debtOf ctl bank kind
  if fg ≠ .none && decide (debt < debtBound kind) then (s.setDebt ctl bank kind (debt + 1), false, true)
  else if fg = .old || !s.slotFits ctl bank kind (kind = 0) then (s, false, false)
  else (s.slotStart ctl bank kind (kind = 0) (fg ≠ .none), true, true)

/-- Idle level 3 or deeper: the shelves refresh themselves, REF debt is frozen and every other kind pauses (R311). -/
def State.selfRefresh (s : State) : Bool := decide (3 ≤ s.pcs.level)

/-- A slot ends (R307): its time on the bank is kept while it counts in any window of 200 µs. -/
def State.slotEnd (s : State) (ctl bank : Nat) : State :=
  let key := bankKey ctl bank
  match sfind s.shelves.slots key with
  | none => s
  | some x =>
    let y : BgSlot := { x with len := min x.len (since s.now x.start) }
    let old := (sget [] s.shelves.lastSlots key).filter (fun z => since s.now (z.start + z.len) < 200000)
    { s with shelves := { s.shelves with slots := sdel s.shelves.slots key,
                                         lastSlots := sset [] s.shelves.lastSlots key (old ++ [y]) } }

/-- The shelf of a controller has trained: no background slot runs before. -/
def Shelves.trained (h : Shelves) (ctl : Nat) : Bool := if ctl < 8 then h.hbmUp = 1 else h.capState = 1

/-- A REF slot is owed to a bank: it fell due and could neither start nor be postponed, and it starts before any other slot there. -/
def State.owe (s : State) (ctl bank : Nat) (on : Bool) : State :=
  let l := s.shelves.owed.filter (fun k => k ≠ bankKey ctl bank)
  { s with shelves := { s.shelves with owed := if on then l ++ [bankKey ctl bank] else l } }

/-- A REF slot falls due on a bank (R308). -/
def State.refDue (s : State) (ctl bank : Nat) (fg : FgWait) : State :=
  if s.selfRefresh || !s.shelves.trained ctl then s
  else
    let (s, _, done) := s.slotDue ctl bank 0 fg
    if done then s else s.owe ctl bank true

/-- The wheel of a controller's shelf (R308). -/
def State.wheelAt (s : State) (ctl pos : Nat) : Nat :=
  s.rdN 0x3300 0 (pos % 16 + (if ctl < 8 then 0 else 16)) 1

/-- The lines a controller scrubs (R309): all of its capacity, unused capacity of a channel included. -/
def Shelves.ctlLines (h : Shelves) (ctl : Nat) : Nat :=
  if ctl < 8 then 96 * 2 ^ 30 / 64 else max h.chanGib (h.caps.getD (ctl - 8) 0) * 2 ^ 30 / 64

/-- Patrol scrub reads the next line of a controller (R309); LINE_READ_RETURN ends it. -/
def State.scrubStart (s : State) (ctl : Nat) : State :=
  let n := s.shelves.ctlLines ctl
  if n = 0 then s
  else
    let k := sget 0 s.shelves.scrubPtr ctl % n
    let a := if ctl < 8 then dpaOfStack ctl (k * 64) else dpaOfChan (ctl - 8) (k * 64)
    let (id, s) := s.fresh
    { s with shelves := { s.shelves with
        reads := sput s.shelves.reads id { ctl := ctl, line := a / 64, why := .scrub },
        scrubPtr := sset 0 s.shelves.scrubPtr ctl ((k + 1) % n) } }

/-- What a scrub read of a carve-out line leaves, where it is uncorrectable: the poison pattern in a data line; a lost tag line poisons
the three lines of its set (R301; DEDUCED, log 95). -/
def State.scrubCarve (s : State) (a : Nat) : State :=
  let o := a - s.shelf1Top
  let ways := if o % 256 / 64 = 0 then [0, 1, 2] else [o % 256 / 64 - 1]
  ways.foldl (fun s w =>
    let k := o / 256 * 3 + w
    let x := s.carveWay k
    if x.valid then s.setCarve k { x with poison := true } else s) s

/-- A DPA lies in the carve-out (R291). -/
def State.inCarve (s : State) (a : Nat) : Bool := decide (s.shelf1Top ≤ a) && decide (a < s.shelf1Top + 2 ^ 30 * s.carveGib)

/-- A scrub read ends (Table 10.4, R302): a corrected line is written back, an uncorrectable one as poison, unless a foreground write came
after the read. -/
def State.scrubDone (s : State) (c : CtlRead) (ecc : Ecc) : State :=
  let a := c.line * 64
  if c.written then s
  else match ecc, s.inCarve a with
    | .clean, _ => s
    | .corrected, true => s
    | .uncorrectable, true => s.scrubCarve a
    | .corrected, false => s.rawWrite c.line (s.shelves.rawRead c.line).1 (s.shelves.rawRead c.line).2
    | .uncorrectable, false => s.rawWrite c.line (s.shelves.rawRead c.line).1 true

/-- A periodic training step of a part falls due and runs in a REF slot of its controller, one in each (R312): a failed step is retried
in the next REF slot, and two failures in a row mark the part FAILED. -/
def State.recalDue (s : State) (ctl part : Nat) (ok : Bool) : State :=
  match s.shelves.slots.find? (fun p => p.1 % 32 = ctl && p.2.kind = 0 && !p.2.recal) with
  | none => s
  | some (key, x) =>
    let pk := partKey ctl part
    let n := if ok then 0 else sget 0 s.shelves.recal pk + 1
    let s := { s with shelves := { s.shelves with recal := sset 0 s.shelves.recal pk n,
                                                  slots := sput s.shelves.slots key { x with recal := true } } }
    if 2 ≤ n then s.partFailed ctl part else s

end Sys2Proof.Machine
end

