-- ==== Sys2Proof/Machine/Slice.lean ====
section
/-! DEFINITION. The home slices: the device cache, host memory in it, the snoop filter and back-invalidates, reservations and
atomics (chapter 11; R341 to R359). -/
namespace Sys2Proof.Machine

/-! ### Lines and homes (R316) -/

/-- The line key of a target on shelves 1 to 3. -/
def Target.key : Target → Nat
  | .dev a => a / 64
  | .host p a => 2 ^ 58 * (1 + p) + a / 64
  | .fab a => a / 64

/-- Four-bit fold of an address for the home slice of shelves 2 and 3. -/
def fold4 (a : Nat) : Nat := ((a >>> 6) % 16) ^^^ ((a >>> 10) % 16) ^^^ ((a >>> 14) % 16) ^^^ ((a >>> 18) % 16)

/-- The home slice of a target. -/
def Target.slice : Target → Nat
  | .dev a => if inShelf2 a then fold4 a else 2 * stackOf a + (((a >>> 6) % 2) ^^^ ((a >>> 7) % 2))
  | .host _ a => fold4 a
  | .fab _ => 0

/-- The byte offset within the line. -/
def Target.off : Target → Nat
  | .dev a => a % 64
  | .host _ a => a % 64
  | .fab a => a % 64

/-- The target moved by n bytes. -/
def Target.plus : Target → Nat → Target
  | .dev a, n => .dev (a + n)
  | .host p a, n => .host p (a + n)
  | .fab a, n => .fab (a + n)

/-- The target rounded down to a multiple of n bytes. -/
def Target.align (t : Target) (n : Nat) : Target :=
  match t with
  | .dev a => .dev (a / n * n)
  | .host p a => .host p (a / n * n)
  | .fab a => .fab (a / n * n)

/-- The address of a target in its own space, and the first-error record's ASPACE of it (Table 17.4). -/
def Target.addr : Target → Nat
  | .dev a => a
  | .host _ a => a
  | .fab a => a
def Target.aspace : Target → Nat
  | .dev _ => 2
  | .host _ _ => 3
  | .fab _ => 4

/-- The DCA set of a line key, and its SNF set. -/
def dcaSet (key : Nat) : Nat := reduce (mix key 0) 8192
def snfSet (line : Nat) : Nat := reduce (mix line 1) 4096

/-- The line key's target. -/
def keyTarget (key : Nat) : Target :=
  if key < 2 ^ 58 then .dev (key * 64)
  else .host (key / 2 ^ 58 - 1) (key % 2 ^ 58 * 64)

/-! ### Who asks (R341, R489) -/

/-- The unit code and number of an agent. The load checker has no unit of its own: SQE stands for it. -/
def Agent.unit : Agent → Nat × Nat
  | .tile t _ => (uTile, t)
  | .gpe g => (uGpe, g)
  | .hse c => (uHse, c)
  | .epm _ => (uEpm, 0)
  | .ssu _ => (uHse, 12)
  | .sqe _ => (uSqe, 0)
  | .loader => (uSqe, 0)
  | .mtu => (uMtu, 0)
  | .host p => (uHlc p, p)
  | .fabric n _ => (uFab, n)

/-- The ACCESS code of a first-error record (Table 17.4). -/
def MemOp.accessCode : MemOp → Nat
  | .read => 1
  | .write => 2
  | .ldr => 4
  | .stc => 4
  | .atomic _ => 3

/-- The first-error fields of a request. -/
def MemReq.hit (r : MemReq) : Hit :=
  { access := r.op.accessCode, mUnit := r.src.unit.1, mNum := r.src.unit.2, aspace := r.tgt.aspace, acid := r.acid,
    addr := r.tgt.addr }

/-- The request writes, or takes ownership of, its line. -/
def MemOp.owns : MemOp → Bool
  | .read => false
  | _ => true

/-! ### Slice counters, links -/

/-- A slice's counter: 0 HITS, 1 MISSES, 2 MERGES, 3 CRITICAL_RESTARTS, 4 EVICTIONS, 5 WRITEBACKS, 6 OFFERS, 7 MR_WAITS. -/
def State.sliceCount (s : State) (i k : Nat) : State := s.bump 0x3201 i k

/-- An SNF counter: 0 BI_SENT, 1 BI_TIMEOUTS, 2 BI_LATE, 3 FIRST_TOUCH_POISON, 4 WB_DROPPED, 5 FILTER_EVICTIONS,
6 E_DROPPED, 7 ENTRIES_DROPPED. -/
def State.snfCount (s : State) (k : Nat) : State := s.bump 0x3800 2 k

/-- A port's link carries traffic: UP, RECOVERY or L1. -/
def State.linkUp (s : State) (p : Nat) : Bool := decide (2 ≤ (s.port p).link)

/-- The block may issue requests to shelf 3 through a port: its link carries traffic and Bus Master Enable is 1 (R414). -/
def State.hostOk (s : State) (p : Nat) : Bool := s.linkUp p && (s.port p).bme

/-- A request issued to a function in D3hot waits (R470). -/
def State.hostHeld (s : State) (p : Nat) : Bool := (s.port p).dstate = 3

/-- A write to BAR2 of the port's function has not yet taken effect: later BAR writes of the function wait behind it (R410). -/
def State.barHeld (s : State) (p : Nat) : Bool := (s.port p).stage.any (fun r => r.write)

/-- Allocation is enabled (R319, R325). -/
def State.dcaOn (s : State) : Bool := s.rdN 0x3200 0 0 1 = 1

/-! ### The age of a fabric request (R439) -/

/-- GTC[20:9]. -/
def sentOf (gtc : Nat) : BitVec 12 := BitVec.ofNat 12 (gtc / 512)

/-- A request is too old to be forwarded, delivered or performed (R439). -/
def State.staleSent (s : State) (sent : BitVec 12) : Bool :=
  decide (97 ≤ (4096 + (sentOf s.now).toNat - sent.toNat) % 4096)

/-! ### Responses -/

/-- Answer a request. The number of an answer gives its place among those that its slice sends (R17). -/
def State.respond (s : State) (id : Nat) (r : MemRsp) : State :=
  let (n, s) := s.fresh
  { s with rsps := sput s.rsps id { r with num := n } }

/-- The store is accepted and not yet performed (R344). -/
def State.accept (s : State) (id : Nat) : State := s.respond id {}

/-- The request is performed. -/
def State.perform (s : State) (id : Nat) (data : Bytes := []) (poison : Bool := false) : State :=
  s.respond id { performed := true, data := data, poison := poison }

/-- The request ends with an error. -/
def State.failReq (s : State) (id : Nat) (e : MemErr) : State := s.respond id { performed := true, err := e }

/-- A request that was accepted is not yet performed. -/
def State.unperformed (s : State) (id : Nat) : Bool :=
  match sfind s.rsps id with
  | some r => !r.performed
  | none => true

/-! ### Owner tags (R375) -/

/-- The owner tag of the granule of a DPA. -/
def State.owner (s : State) (a : Nat) : Owner := sget {} s.mtu.owners (a >>> 21)

/-- The home slice accepts a request of the ACID at a DPA. -/
def State.ownerOk (s : State) (acid a : Nat) : Bool :=
  let o := s.owner a
  s.onShelf a && (o.mode = 2 || (o.mode = 1 && o.acid = acid))

/-- A refusal: counted, and OWNER_REFUSAL fires. -/
def State.ownerRefused (s : State) (h : Hit) : State := (s.bump 0x4000 1 6).fire uMtu 0 1 h

/-! ### Reservations (R354 to R357) -/

/-- The granule in bytes at a RES_GRANULE; a line on shelf 3 (R355). -/
def Target.granule (t : Target) (gran : Nat) : Nat :=
  match t with
  | .host _ _ => 64
  | _ => 2 ^ gran

/-- RES_GRANULE (R364). -/
def State.resGranule (s : State) : Nat := s.rdN 0x40F1 0 0 1

/-- An ordering counter: 0 STC_OK, 1 STC_FAIL, 2 LOST_WRITE, 3 LOST_SWITCH, 4 LOST_TIME, 5 LOST_EVICT. -/
def State.orderCount (s : State) (k : Nat) (n : Nat := 1) : State := s.bump 0x40F1 1 k n

/-- The agent of a reservation is a remote one. -/
def Agent.remote : Agent → Bool
  | .fabric _ _ => true
  | _ => false

/-- A write of `len` bytes at a target ends the reservations of every other agent on it; they count in LOST_WRITE. -/
def State.killResv (s : State) (who : Agent) (t : Target) (len : Nat) : State :=
  let hit (r : Resv) : Bool := decide (r.agent ≠ who) &&
    (match r.base, t with
     | .dev b, .dev a => decide (a < b + r.size) && decide (b < a + len)
     | .host p b, .host q a => p = q && decide (a < b + r.size) && decide (b < a + len)
     | _, _ => false)
  let n := (s.coh.resv.filter hit).length
  if n = 0 then s
  else { s with coh := { s.coh with resv := s.coh.resv.filter (fun r => !hit r) } }.orderCount 2 n

/-- End the reservation of an agent. -/
def State.dropResv (s : State) (who : Agent) : State :=
  { s with coh := { s.coh with resv := s.coh.resv.filter (fun r => r.agent ≠ who) } }

/-- End every reservation on a shelf 3 line that leaves the DCA (R355). -/
def State.lineLeaves (s : State) (key : Nat) : State :=
  if key < 2 ^ 58 then s
  else
    let hit (r : Resv) : Bool := r.base.key = key
    let n := (s.coh.resv.filter hit).length
    if n = 0 then s
    else { s with coh := { s.coh with resv := s.coh.resv.filter (fun r => !hit r) } }.orderCount 2 n

/-- Set an agent's reservation (R354). A remote LDR that finds 4,096 remote reservations ends the oldest (R356). -/
def State.setResv (s : State) (who : Agent) (t : Target) (gran : Nat) : State :=
  let s := s.dropResv who
  let g := t.granule gran
  let r : Resv := { agent := who, base := t.align g, size := g, since := s.now }
  let rem := s.coh.resv.filter (fun x => x.agent.remote)
  if who.remote && decide (4096 ≤ rem.length) then
    match rem.head? with
    | some old => { s with coh := { s.coh with resv := s.coh.resv.filter (fun x => x ≠ old) ++ [r] } }.orderCount 5
    | none => s
  else { s with coh := { s.coh with resv := s.coh.resv ++ [r] } }

/-- The agent's reservation covers the 8 bytes at a target. -/
def State.resvStands (s : State) (who : Agent) (t : Target) : Bool :=
  s.coh.resv.any (fun r => r.agent = who && t.align r.size = r.base)

/-! ### Atomic operations (Table 7.11) -/

/-- The new value of a fetch-atomic of `w` bits: codes 0x09 to 0x11. -/
def atomicNew (code w old x : Nat) : Nat :=
  let lt (a b : Nat) : Bool := signed w a < signed w b
  match code with
  | 0x09 => (old + x) % 2 ^ w
  | 0x0A => old &&& x
  | 0x0B => old ||| x
  | 0x0C => old ^^^ x
  | 0x0D => x
  | 0x0E => if lt x old then x else old
  | 0x0F => if lt old x then x else old
  | 0x10 => min old x
  | 0x11 => max old x
  | _ => x

/-- Apply an atomic to the old bytes: the new bytes, if it writes. An ACAS (0x12) compares `cmp` and writes `data`. -/
def atomicApply (code : Nat) (old data cmp : Bytes) : Option Bytes :=
  if code = 0x12 then if old = cmp then some data else none
  else some (natLe (atomicNew code (8 * old.length) (leNat old) (leNat data)) old.length)

/-! ### The snoop filter and back-invalidates (R329 to R335) -/

/-- The slice and the entry key of a DPA line, if its partition holds an entry. -/
def State.snfFind (s : State) (line : Nat) : Option (Nat × SnfEnt) :=
  let sl := s.slice (Target.dev (line * 64)).slice
  (List.range 16).findSome? (fun w =>
    let k := snfSet line * 16 + w
    match sfind sl.snf k with
    | some e => if e.line = line then some (k, e) else none
    | none => none)

/-- Write an entry; one without a holder and without BIP is free. -/
def State.setSnf (s : State) (line k : Nat) (e : SnfEnt) : State :=
  let i := (Target.dev (line * 64)).slice
  let sl := s.slice i
  let m := if e.p0 || e.p1 || e.bip then sput sl.snf k e else sdel sl.snf k
  s.setSlice i { sl with snf := m }

/-- The hosts that an entry shows present. -/
def SnfEnt.holders (e : SnfEnt) : List Nat := (if e.p0 then [0] else []) ++ (if e.p1 then [1] else [])

/-- Clear a port's presence bit; E goes with its holder. -/
def SnfEnt.clear (e : SnfEnt) (p : Nat) : SnfEnt :=
  let e := if p = 0 then { e with p0 := false } else { e with p1 := false }
  if e.p0 || e.p1 then e else { e with e := false }

/-- The key of an outstanding back-invalidate. -/
def biKey (p line : Nat) : Nat := 2 ^ 36 * p + line

/-- A back-invalidate of the line is outstanding on some port. -/
def State.biOpen (s : State) (line : Nat) : Bool :=
  (sfind s.coh.bis (biKey 0 line)).isSome || (sfind s.coh.bis (biKey 1 line)).isSome

/-- Outstanding back-invalidates of a slice (R332). -/
def State.biCount (s : State) (i : Nat) : Nat :=
  (s.coh.bis.filter (fun p => (Target.dev (p.1 % 2 ^ 36 * 64)).slice = i)).length

def State.biDead (s : State) (p : Nat) : Bool := sget false s.coh.dead p

/-- BI_TIMEOUT in force, in ms. -/
def State.biLimit (s : State) : Nat := s.rdN 0x3800 0 0 4

/-- Send a back-invalidate snoop (R331). -/
def State.sendBi (s : State) (line p : Nat) (kind : BiKind) : State :=
  match s.snfFind line with
  | none => s
  | some (k, e) =>
    let s := s.setSnf line k { e with bip := true }
    let s := { s with coh := { s.coh with
      bis := sput s.coh.bis (biKey p line) { kind := kind, sent := s.now, limit := s.biLimit } } }
    (s.snfCount 0).emit (.biSnp p kind line)

/-- Invalidate the DCA copy of a line. -/
def State.dcaDrop (s : State) (i key : Nat) : State :=
  let sl := s.slice i
  let s := s.setSlice i { sl with ways := sl.ways.filter (fun p => p.2.key ≠ key) }
  s.lineLeaves key

/-- Write the poison pattern into a line of device memory (R334): its data stays, and its DCA copy goes. -/
def State.poisonLine (s : State) (line : Nat) : State :=
  let s := s.dcaDrop (Target.dev (line * 64)).slice line
  s.backWrite line (s.backRead line).1 true

/-- The back-invalidates that an access needs first (R331): for a write, an atomic or ownership, one to every other
holder; for a read, one to an exclusive holder. `skip` is the requesting host's own port. -/
def SnfEnt.needs (e : SnfEnt) (own : Bool) (kind : BiKind) (skip : Option Nat) : List (Nat × BiKind) :=
  let hs := e.holders.filter (fun p => some p ≠ skip)
  if own then hs.map (fun p => (p, .inv)) else if e.e then hs.map (fun p => (p, kind)) else []

/-- Bring a line's holders to where an access may proceed (R331, R335): the state, and whether it may proceed now. With no
live holder to ask, the line is poisoned at once; a dead sharer beside a live one loses its bit. -/
def State.prepare (s : State) (line : Nat) (own : Bool) (kind : BiKind := .data) (skip : Option Nat := none) :
    State × Bool :=
  if s.biOpen line then (s, false)
  else match s.snfFind line with
  | none => (s, true)
  | some (k, e) =>
    let need := e.needs own kind skip
    if need.isEmpty then (s, true)
    else
      let live := need.filter (fun x => !s.biDead x.1)
      let dead := need.filter (fun x => s.biDead x.1)
      let e' := dead.foldl (fun e x => e.clear x.1) e
      let s := if dead.isEmpty then s else s.setSnf line k e'
      if live.isEmpty then
        if e.holders.all (fun p => s.biDead p) then ((s.poisonLine line).snfCount 3, true) else (s, true)
      else if 256 < s.biCount (Target.dev (line * 64)).slice + live.length then (s, false)
      else (live.foldl (fun s x => s.sendBi line x.1 x.2) s, false)

/-! ### Ways and replacement (R317, R323) -/

/-- The way that holds a line key. -/
def Slice.lookup (sl : Slice) (key : Nat) : Option Nat :=
  (List.range 16).findSome? (fun w =>
    let k := dcaSet key * 16 + w
    match sfind sl.ways k with
    | some x => if x.key = key && x.st ≠ .i then some k else none
    | none => none)

def Slice.way (sl : Slice) (k : Nat) : Way := sget {} sl.ways k
def Slice.setWay (sl : Slice) (k : Nat) (x : Way) : Slice := { sl with ways := sset {} sl.ways k x }

/-- Point the tree of a set away from the way just used: node n of 1 to 15 is bit n - 1, and 0 points left. -/
def plruTouch (t w : Nat) : Nat :=
  [8, 4, 2, 1].foldl (fun t d =>
    let node := (w + 16) / (2 * d)
    let goesRight := decide ((w / d) % 2 = 1)
    let b := 2 ^ (node - 1)
    if goesRight then (if t.testBit (node - 1) then t - b else t)
    else (if t.testBit (node - 1) then t else t + b)) t

/-- The way that the tree names among the eligible ones of 16. -/
def plruPick (t : Nat) (ok : Nat → Bool) : Option Nat :=
  let any (lo n : Nat) : Bool := (List.range n).any (fun i => ok (lo + i))
  let step (nl : Nat × Nat) (h : Nat) : Nat × Nat :=
    let right := t.testBit (nl.1 - 1)
    let right := if right then any (nl.2 + h) h else !any nl.2 h
    if right then (2 * nl.1 + 1, nl.2 + h) else (2 * nl.1, nl.2)
  let r := [8, 4, 2, 1].foldl step (1, 0)
  if ok r.2 then some r.2 else none

/-- Mark a way as used. -/
def Slice.touch (sl : Slice) (k : Nat) : Slice :=
  { sl with plru := sset 0 sl.plru (k / 16) (plruTouch (sget 0 sl.plru (k / 16)) (k % 16)) }

/-- A line has an operation in progress: a miss register, a far atomic or a back-invalidate (R317, R318). -/
def State.busy (s : State) (i key : Nat) : Bool :=
  (s.slice i).misses.any (fun p => p.2.key = key) ||
  (s.biOpen key && decide (key < 2 ^ 58)) ||
  s.shelves.reads.any (fun p => p.2.line = key && decide (key < 2 ^ 58) && p.2.why.holdsLine)

/-- A write to the host's line is under way: its GO has not come (R349). -/
def State.hostWriting (s : State) (key : Nat) : Bool :=
  s.coh.hostReqs.any (fun q => match q.2.why with
    | .write r => r.tgt.key = key
    | _ => false)

/-- Another atomic or ownership request for a line waits at its slice or at the atomic unit, or holds a register there (R338). -/
def State.lineAsked (s : State) (line : Nat) : Bool :=
  let sl := s.slice (keyTarget line).slice
  sl.inq.any (fun q => q.tgt.key = line && q.op.owns) ||
  sl.misses.any (fun m => m.2.key = line && m.2.waiters.any (fun q => q.op.owns)) ||
  s.shelves.reads.any (fun p => p.2.line = line && (match p.2.why with
    | .far _ => true
    | _ => false))

/-- The line needs a back-invalidate for a write (R331). -/
def State.biNeeded (s : State) (line : Nat) : Bool :=
  match s.snfFind line with
  | some (_, e) => !(e.needs true .inv none).isEmpty
  | none => false

/-- Move a way to the victim buffer and start its write, offer or notice (R323). -/
def State.evictWay (s : State) (i k : Nat) : State :=
  let sl := s.slice i
  let x := sl.way k
  if x.st = .i then s
  else
    let t := keyTarget x.key
    let s := s.setSlice i (sl.setWay k {})
    let s := s.sliceCount i 4
    let dirty := x.st = .ml || x.st = .mh
    let s := if dirty then s.sliceCount i 5 else s
    let buffer (s : State) : State :=
      let sl := s.slice i
      let v : Victim := { tgt := t, st := x.st, poison := x.poison, data := x.data }
      s.setSlice i { sl with victims := sput sl.victims x.key v }
    match t with
    | .dev a =>
      if inShelf2 a && s.carveGib ≠ 0 then
        (buffer (s.sliceCount i 6)).carveOffer x.key x.data x.poison dirty
      else if dirty then (buffer s).rawWrite x.key x.data x.poison
      else s
    | .host p a =>
      let s := s.lineLeaves x.key
      let (id, s) := s.fresh
      let kind : D2H := if dirty then .dirtyEvict else .cleanEvictNoData
      let s := buffer s
      let s := { s with coh := { s.coh with
        hostReqs := sput s.coh.hostReqs id { port := p, kind := kind, addr := a, why := .evict i x.key } } }
      s.emit (.d2h p kind id a (if dirty then x.data else []) (dirty && x.poison))
    | .fab _ => s

/-- Find a way for a line key: its own, the lowest-numbered invalid one, or the one the tree names, which is evicted;
none while the victim buffer is full or every way has an operation in progress. -/
def State.takeWay (s : State) (i key : Nat) : Option (State × Nat) :=
  let sl := s.slice i
  match sl.lookup key with
  | some k => some (s, k)
  | none =>
    let base := dcaSet key * 16
    match (List.range 16).find? (fun w => (sl.way (base + w)).st == .i) with
    | some w => some (s, base + w)
    | none =>
      if 32 ≤ sl.victims.length then none
      else match plruPick (sget 0 sl.plru (dcaSet key)) (fun w => !s.busy i (sl.way (base + w)).key) with
        | some w => some (s.evictWay i (base + w), base + w)
        | none => none

/-- Install a line. -/
def State.install (s : State) (i key : Nat) (st : LineSt) (data : Bytes) (poison : Bool) : Option State :=
  match s.takeWay i key with
  | none => none
  | some (s, k) =>
    some (s.setSlice i (((s.slice i).setWay k { key := key, st := st, poison := poison, data := data }).touch k))

/-! ### Opening a read (R294, R320, R327) -/

/-- Ask memory or the host for a line under a miss entry. -/
def State.startFill (s : State) (i m : Nat) (t : Target) (kind : D2H) : State :=
  match t with
  | .dev a => s.openRead (a / 64) (.fill i m)
  | .host p a =>
    let (id, s) := s.fresh
    let s := { s with coh := { s.coh with
      hostReqs := sput s.coh.hostReqs id { port := p, kind := kind, addr := a / 64 * 64, why := .fill i m } } }
    s.emit (.d2h p kind id (a / 64 * 64) [])
  | .fab _ => s

/-- The lowest free miss register a read may take: 0 to 479, and for critical reads 480 to 511 too (R320); a read that
does not allocate takes a number from 512. -/
def Slice.freeMiss (sl : Slice) (alloc crit : Bool) : Option Nat :=
  if alloc then sfree sl.misses (if crit then 512 else 480)
  else some (512 + (List.range (sl.misses.length + 1)).findIdx (fun k => (sfind sl.misses (512 + k)).isNone))

/-- Open a miss entry for a request; none while no register is free. -/
def State.openMiss (s : State) (i : Nat) (r : MemReq) (alloc own : Bool) (kind : D2H) : Option State :=
  let sl := s.slice i
  let crit := r.crit
  match sl.freeMiss alloc crit with
  | none => none
  | some m =>
    let t := r.tgt.align 64
    let x : Miss := { key := r.tgt.key, tgt := t, alloc := alloc, crit := crit, own := own, half := if crit then r.tgt.off / 32 else 0,
                      waiters := [r] }
    let s := s.setSlice i { sl with misses := sput sl.misses m x }
    some ((s.sliceCount i 1).startFill i m t kind)

/-! ### Serving a request (R318 to R322, R337, R338, R354 to R357) -/

/-- A full-line write. -/
def MemReq.full (r : MemReq) : Bool := r.len = 64

/-- Does the access allocate (R319). -/
def State.allocates (s : State) (r : MemReq) : Bool := r.alloc && !r.device && s.dcaOn

/-- The bytes a read returns from its line. -/
def MemReq.cut (r : MemReq) (line : Bytes) : Bytes := bytesAt line r.tgt.off r.len

/-- Apply a write, an STC, an atomic or a read to a whole line in order: the line, its poison, whether it was written, and
the state with the answer. A partial write keeps poison, a full one without poison clears it (R300); an atomic that
finds poison writes nothing and returns poison (R337). An access that was answered when it was taken is not answered
again. -/
def State.applyTo (s : State) (r : MemReq) (data : Bytes) (poison : Bool) : State × Bytes × Bool × Bool :=
  let answer (s : State) (out : Bytes) : State := if r.answered then s else s.perform r.id out
  match r.op with
  | .read => (s.perform r.id (r.cut data) poison, data, poison, false)
  | .ldr => ((s.setResv r.src r.tgt r.gran).perform r.id (r.cut data) poison, data, poison, false)
  | .write =>
    (answer s [], patch data r.tgt.off r.data, if r.full then r.poison else poison || r.poison, true)
  | .stc => (answer s [0], patch data r.tgt.off r.data, poison, true)
  | .atomic code =>
    if poison then (s.perform r.id (r.cut data) true, data, poison, false)
    else
      let old := r.cut data
      match atomicApply code old r.data r.cmp with
      | some new => ((s.killResv r.src r.tgt r.len).perform r.id old, patch data r.tgt.off new, poison, true)
      | none => (s.perform r.id old, data, poison, false)

/-- The atomic predictor's counter for a line key (R338). -/
def State.predKey (s : State) (key : Nat) : Nat := reduce (mix key (s.rdN 0x3800 3 8 8)) 4096

/-- MODE of ATOM_CFG and the predictor choose far. -/
def State.goesFar (s : State) (key : Nat) : Bool :=
  match s.rdN 0x3800 3 0 1 with
  | 1 => false
  | 2 => true
  | _ => decide (2 ≤ sget 1 s.coh.pred (s.predKey key))

/-- Count an atomic at its point and train its counter of the predictor (R338). -/
def State.trained (s : State) (k : Nat) (far contended : Bool) : State :=
  let s := s.bump 0x3800 4 (if far then 1 else 0)
  let v := sget 1 s.coh.pred k
  let v' := if contended then min 3 (v + 1) else v - 1
  let s := { s with coh := { s.coh with pred := sset 1 s.coh.pred k v' } }
  s.bump 0x3800 4 (if contended then 2 else 3)

/-- A clean or modified copy of device memory leaves the slice for a far atomic: an ML copy is written back (R337). -/
def State.pushOut (s : State) (i k : Nat) : State :=
  let x := (s.slice i).way k
  let s := s.setSlice i ((s.slice i).setWay k {})
  if x.st = .ml then (s.sliceCount i 5).backWrite x.key x.data x.poison else s

/-- A request is an atomic. -/
def MemOp.isAtomic : MemOp → Bool
  | .atomic _ => true
  | _ => false

/-- An atomic goes far (R337): in a device region, while the DCA is off, or as chosen at its arrival; never on shelf 3. -/
def State.goesOut (s : State) (r : MemReq) : Bool :=
  match r.op, r.tgt with
  | .atomic _, .dev _ => r.device || !s.dcaOn || r.far
  | _, _ => false

/-- Send an atomic to the atomic unit of its line's controller, which queues up to 64 (R337). -/
def State.sendFar (s : State) (r : MemReq) : Option State :=
  let ctl := ctlOf r.tgt.addr
  let n := (s.shelves.reads.filter (fun p => p.2.ctl = ctl && (match p.2.why with
    | .far _ => true
    | .eng id => s.coh.eng.any (fun e => e.id = id && (match e.key with
      | .far _ => true
      | _ => false))
    | _ => false))).length
  if 64 ≤ n then none else some ((s.trained r.pkey true r.contended).openRead r.tgt.key (.far r))

/-- Send a write that does not allocate to its host (R327). Later accesses of the line wait for its GO (R349). -/
def State.sendWrCur (s : State) (r : MemReq) : State :=
  match r.tgt with
  | .host p a =>
    let (id, s) := (s.killResv r.src r.tgt r.len).fresh
    let s := { s with coh := { s.coh with
      hostReqs := sput s.coh.hostReqs id { port := p, kind := .wrCur, addr := a, why := .write r } } }
    (s.accept r.id).emit (.d2h p .wrCur id a r.data r.poison)
  | _ => s

/-- A request whose line is in way `k` of the DCA (R319, R322, R337, R357). -/
def State.serveHit (s : State) (i : Nat) (r : MemReq) (k : Nat) : Option State :=
  let sl := s.slice i
  let key := r.tgt.key
  let x := sl.way k
  let hit (s : State) : State := (s.setSlice i ((s.slice i).touch k)).sliceCount i 0
  -- an atomic and an STC need the line; a device region never allocates (R342)
  let alloc := s.allocates r
  match r.op with
  | .read => some ((hit s).perform r.id (r.cut x.data) x.poison)
  | op =>
    if x.st = .sh then
      -- ownership of a shared host line first
      if op = .write && !alloc then some ((s.dcaDrop i key).sendWrCur r)
      else
        let s := match op with
          | .atomic _ => s.trained r.pkey false r.contended
          | .write => (s.killResv r.src r.tgt r.len).accept r.id
          | .stc => s.killResv r.src r.tgt r.len
          | _ => s
        let s := if alloc then s else s.dcaDrop i key
        let plain := op = .ldr && !alloc
        s.openMiss i r alloc (!plain) (if r.full then .rdOwnNoData else if plain then .rdCurr else .rdOwn)
    else if s.goesOut r then (s.pushOut i k).sendFar r
    else
      let s := hit s
      let s := if op.isAtomic then s.trained r.pkey false r.contended else s
      let s := match op with
        | .write | .stc => s.killResv r.src r.tgt r.len
        | _ => s
      let (s, d, p, wrote) := s.applyTo r x.data x.poison
      -- a near atomic takes a device line as ML, whether it writes or not (R337)
      let st : LineSt := if key < 2 ^ 58 then (if wrote || op.isAtomic then .ml else x.st) else if wrote then .mh else x.st
      some (s.setSlice i ((s.slice i).setWay k { x with st := st, data := d, poison := p }))

/-- A request whose line is neither in the DCA nor in the victim buffer (R319 to R322, R327, R357). -/
def State.serveMiss (s : State) (i : Nat) (r : MemReq) : Option State :=
  let key := r.tgt.key
  let alloc := s.allocates r
  match r.tgt with
  | .host p _ =>
    if !s.hostOk p then some (s.failReq r.id .hostLost)
    else
      match r.op with
      | .read => s.openMiss i r alloc false (if alloc then .rdShared else .rdCurr)
      | .write =>
        if alloc then
          (s.killResv r.src r.tgt r.len |>.accept r.id).openMiss i r true true (if r.full then .rdOwnNoData else .rdOwn)
        else some (s.sendWrCur r)
      | .ldr => s.openMiss i r alloc alloc (if alloc then .rdOwn else .rdCurr)
      | .stc => s.openMiss i r alloc true .rdOwn
      | .atomic _ => (s.trained r.pkey false r.contended).openMiss i r alloc true .rdOwn
  | .dev a =>
    match r.op with
    | .read => s.openMiss i r alloc false .rdCurr
    | .ldr => s.openMiss i r alloc true .rdCurr
    | .write | .stc =>
      let s := s.killResv r.src r.tgt r.len
      let done (s : State) : State := s.perform r.id (if r.op = .stc then [0] else [])
      if alloc then
        if r.full then (s.install i key .ml r.data r.poison).map (fun s => (done s).sliceCount i 1)
        else (done s).openMiss i { r with answered := true } true true .rdCurr
      else if r.full then some (done (s.backWrite (a / 64) r.data r.poison))
      else some (s.openRead (a / 64) (.rmw r))
    | .atomic _ =>
      if s.goesOut r then s.sendFar r
      else (s.trained r.pkey false r.contended).openMiss i r true true .rdCurr
  | .fab _ => some (s.failReq r.id .badOp)

/-- A read of a line merges into a register that is open for it (R320): a load, or an LDR where the register has what it needs. -/
def Miss.takes (x : Miss) (r : MemReq) : Bool :=
  (r.op = .read || (r.op = .ldr && (x.own || decide (x.key < 2 ^ 58)))) && decide (x.waiters.length < 32) &&
    x.waiters.all (fun w => !w.op.isAtomic)

/-- Serve a request on a line whose holders allow it; none where it must wait. A read that does not allocate holds no register: later
reads of its line do not wait for it (R128). -/
def State.serveLine (s : State) (i : Nat) (r : MemReq) : Option State :=
  let sl := s.slice i
  let key := r.tgt.key
  let mine := sl.misses.filter (fun p => p.2.key = key)
  let plain := r.op = .read && mine.all (fun p => decide (512 ≤ p.1) && p.2.waiters.all (fun w => w.op = .read))
  if s.hostWriting key then none
  else if !mine.isEmpty && !plain then
    match mine.find? (fun p => decide (p.1 < 512)) with
    | some (m, x) =>
      if x.takes r then
        some ((s.setSlice i { sl with misses := sput sl.misses m { x with waiters := x.waiters ++ [r] } }).sliceCount i 2)
      else none
    | none => none
  else
  match sl.lookup key, sfind sl.victims key with
  | some k, _ => s.serveHit i r k
  | none, some v =>
    -- in the victim buffer: a read is served, anything else waits (R323)
    match r.op with
    | .read => some ((s.perform r.id (r.cut v.data) v.poison).sliceCount i 0)
    | _ => none
  | none, none => s.serveMiss i r

/-- What serving a request came to: it waits; it waits with its back-invalidates sent; it was served. -/
inductive Served where
  | waits
  | asked (s : State)
  | served (s : State)

/-- Serve a request at its home slice: the owner check, the STC's reservation, the snoop filter, then the line. -/
def State.serve (s : State) (i : Nat) (r : MemReq) : Served :=
  if r.sent.any s.staleSent then .served (s.failReq r.id .late) else
  let key := r.tgt.key
  let line (s : State) : Served :=
    match s.serveLine i r with
    | some s => .served s
    | none => .waits
  let stcFails : Bool := r.op = .stc &&
    (!s.resvStands r.src r.tgt || (match r.tgt with
                                   | .host _ _ => !s.dcaOn
                                   | _ => false))
  let stcOk (s : State) : State := if r.op = .stc then (s.dropResv r.src).orderCount 0 else s
  match r.tgt with
  | .dev a =>
    if !s.ownerOk r.acid a then .served ((s.ownerRefused r.hit).failReq r.id .owner)
    else if s.shelves.reads.any (fun p => p.2.line = key && p.2.why.holdsLine) then .waits
    else if stcFails then .served (((s.dropResv r.src).orderCount 1).perform r.id [1])
    else
      let (s', ok) := s.prepare (a / 64) r.op.owns
      if !ok then (if s'.out.length = s.out.length then .waits else .asked s')
      else line (stcOk s')
  | .host _ _ =>
    if stcFails then .served (((s.dropResv r.src).orderCount 1).perform r.id [1])
    else line (stcOk s)
  | .fab _ => .served (s.failReq r.id .badOp)

/-- Serve the first request of a slice's input that need not wait: a request waits behind an earlier one to its line, and
behind a host request that was held for it before it came (R318); `blocked` holds lines with the numbers from which on they are. -/
def State.serveNext (s : State) (i : Nat) : List MemReq → List MemReq → List (Nat × Nat) → State
  | _, [], _ => s
  | before, r :: after, blocked =>
    if blocked.any (fun b => b.1 = r.tgt.key && decide (b.2 ≤ r.id)) then s.serveNext i (before ++ [r]) after blocked
    else
      match s.serve i r with
      | .waits =>
        -- a read that finds no register free waits, and is counted once (MR_WAITS)
        let sl := s.slice i
        let noReg := r.alloc && !r.waited && (sl.freeMiss true r.crit).isNone && (sl.lookup r.tgt.key).isNone &&
          sl.misses.all (fun p => p.2.key ≠ r.tgt.key)
        if noReg then (s.setSlice i { sl with inq := before ++ { r with waited := true } :: after }).sliceCount i 7
        else s.serveNext i (before ++ [r]) after ((r.tgt.key, 0) :: blocked)
      | .asked s' =>
        let sl := s'.slice i
        s'.setSlice i { sl with inq := before ++ r :: after }
      | .served s' =>
        let sl := s'.slice i
        s'.setSlice i { sl with inq := before ++ after }

/-- A request as it reaches its home slice: a read of a shelf 3 line is critical (Table 11.2); an atomic's point is chosen, and whether
it contends is seen (R338). -/
def State.arrived (s : State) (r : MemReq) : MemReq :=
  let key := r.tgt.key
  match r.tgt, r.op with
  | .host _ _, .atomic _ => { r with crit := true, pkey := s.predKey key, contended := s.lineAsked key }
  | .host _ _, .write => r
  | .host _ _, _ => { r with crit := true }
  | .dev _, .atomic _ =>
    { r with crit := true, far := s.goesFar key, pkey := s.predKey key, contended := s.lineAsked key || s.biNeeded key }
  | _, _ => r

/-- Put a request at its home slice. -/
def State.toSlice (s : State) (r : MemReq) : State :=
  let i := r.tgt.slice
  let sl := s.slice i
  s.setSlice i { sl with inq := sl.inq ++ [s.arrived r] }

/-! ### Fills (R321) -/

/-- Hand the filled line to the waiters in order: the state, the line, its poison, whether it was written. A write that a
device line took before its fill has been answered. -/
def State.handOut (s : State) (data : Bytes) (poison : Bool) : List MemReq → State × Bytes × Bool × Bool
  | [] => (s, data, poison, false)
  | r :: rest =>
    let (s, d, p, w) := s.applyTo r data poison
    let (s, d, p, w') := s.handOut d p rest
    (s, d, p, w || w')

/-- The first half reaches the slice: each critical waiter in that half restarts (R321), whatever the regime in which the register was
opened. Only reads at the head of the waiters may: a waiter behind a write sees the written line. -/
def State.fillHalf (s : State) (i m : Nat) : State :=
  let sl := s.slice i
  match sfind sl.misses m with
  | none => s
  | some x =>
    if !x.ready || x.got ≠ 0 || x.lost then s
    else
      let heads := x.waiters.takeWhile (fun r => r.op = .read || r.op = .ldr)
      let tails := x.waiters.drop heads.length
      let inHalf (r : MemReq) : Bool := r.crit && r.tgt.off / 32 = x.half && (r.tgt.off + r.len - 1) / 32 = x.half
      let now := heads.filter inHalf
      let s := now.foldl (fun s r => (s.applyTo r x.data x.poison).1.sliceCount i 3) s
      let sl := s.slice i
      let y : Miss := { x with got := 1, waiters := heads.filter (fun r => !inHalf r) ++ tails }
      s.setSlice i { sl with misses := sput sl.misses m y }

/-- The whole line has reached the slice: it is installed where it allocates, and every waiter is served in order. -/
def State.fillWhole (s : State) (i m : Nat) : State :=
  let sl := s.slice i
  match sfind sl.misses m with
  | none => s
  | some x =>
    if !x.ready then s
    else
      let s1 := s.setSlice i { sl with misses := sdel sl.misses m }
      if x.lost then x.waiters.foldl (fun s r => s.failReq r.id .hostLost) s1
      else
        let (s2, d, bad, wrote) := s1.handOut x.data x.poison x.waiters
        let host := decide (2 ^ 58 ≤ x.key)
        let keep := x.alloc && (s.dcaOn || (sl.lookup x.key).isSome)
        -- a near atomic takes a device line as ML, whether it writes or not (R337)
        let wrote := wrote || (keep && !host && x.waiters.any (fun r => r.op.isAtomic))
        -- an LDR's line that is not kept has left the DCA (R355)
        let s2 := if keep then s2 else s2.lineLeaves x.key
        if keep then
          let st : LineSt := if host then (if wrote then .mh else if x.own then .eh else .sh)
                             else if wrote then .ml else .cl
          match s2.install i x.key st d bad with
          | some s3 => s3
          | none => s
        else if wrote then
          match x.tgt with
          | .host p a =>
            let sl := s2.slice i
            if 32 ≤ sl.victims.length then s
            else
              let v : Victim := { tgt := x.tgt, st := .mh, poison := bad, data := d }
              let (id, s3) := (s2.setSlice i { sl with victims := sput sl.victims x.key v }).fresh
              let s3 := { s3 with coh := { s3.coh with
                hostReqs := sput s3.coh.hostReqs id { port := p, kind := .dirtyEvict, addr := a, why := .evict i x.key } } }
              s3.emit (.d2h p .dirtyEvict id a d bad)
          | _ => s2.backWrite x.key d bad
        else s2

/-- A line's data has reached a miss entry. -/
def State.fillReady (s : State) (i m : Nat) (data : Bytes) (poison : Bool) : State :=
  let sl := s.slice i
  match sfind sl.misses m with
  | none => s
  | some x => s.setSlice i { sl with misses := sput sl.misses m { x with ready := true, data := data, poison := poison } }

end Sys2Proof.Machine
end

