-- ==== Sys2Proof/Machine/Coherence.lean ====
section
/-! DEFINITION. What reaches the slices from the controllers and the hosts: line reads, the carve-out tag, snoops, cache
responses, HDM requests, back-invalidate responses and timeouts, the DCA's flush and invalidate, and the loss of a host
port (R294, R301, R324 to R336, R404). -/
namespace Sys2Proof.Machine

/-! ### HDM requests (R330, R332, R404) -/

/-- The HPA of a host request. -/
def hdmHpa : HdmReq → Nat
  | .rdA h => h.toNat
  | .rdS h => h.toNat
  | .rdI h => h.toNat
  | .wb h _ _ => h.toNat
  | .wr h _ => h.toNat

/-- The DPA_BASE in force: HDM_WINDOW's, or the one that a move has put in its place since (R67, R406; DEDUCED, log 86). -/
def State.winBase (s : State) (p : Nat) : Nat := (s.port p).move.moved.getD (s.rdN (portIx p 0x2010) 0 0 8)

/-- The size of HDM_WINDOW in bytes (0: disabled), and its ACID. -/
def State.winSize (s : State) (p : Nat) : Nat :=
  let n := s.rdN (portIx p 0x2010) 0 8 1
  if n = 0 then 0 else 2 ^ n
def State.winAcid (s : State) (p : Nat) : Nat := s.rdN (portIx p 0x2010) 0 9 2 % 4096

/-- The HPA lies in the port's committed decoder (R404). -/
def State.inDecoder (s : State) (p hpa : Nat) : Bool :=
  let h := s.port p
  h.decoded && h.memEn && decide (h.decBase ≤ hpa) && decide (hpa < h.decBase + s.winSize p)

/-- The request must wait for a window move (R406): every request while it recalls, that at the pointer while it copies. -/
def State.moveHolds (s : State) (p hpa : Nat) : Bool :=
  let m := (s.port p).move
  m.phase = 1 || (m.phase = 2 && (hpa - (s.port p).decBase) / 64 = m.pointer)

/-- The DPA of an HPA (R404, R406). -/
def State.hdmDpa (s : State) (p hpa : Nat) : Nat :=
  let h := s.port p
  let off := hpa - h.decBase
  if h.move.phase = 2 then (if off / 64 < h.move.pointer then h.move.new + off else h.move.old + off)
  else s.winBase p + off

/-- Bring the DCA copy of a device line to memory; keep it CL, or drop it (R330). -/
def State.cleanCopy (s : State) (line : Nat) (keep : Bool) : State :=
  let i := (Target.dev (line * 64)).slice
  match (s.slice i).lookup line with
  | none => s
  | some k =>
    let x := (s.slice i).way k
    let s := if x.st = .ml then (s.sliceCount i 5).backWrite line x.data x.poison else s
    if keep then s.setSlice i ((s.slice i).setWay k { x with st := .cl })
    else s.setSlice i ((s.slice i).setWay k {})

/-- Find or make the SNF entry of a line: none while its set is full of entries whose holders must first give up the victim, whose
back-invalidates are sent (R332). A request evicts one entry, and waits for it; `old` is the line of the entry it has evicted. -/
def State.snfEntry (s : State) (line : Nat) (old : Option Nat) : State × Option Nat × Option Nat :=
  match s.snfFind line with
  | some (k, _) => (s, some k, none)
  | none =>
    let i := (Target.dev (line * 64)).slice
    let sl := s.slice i
    let base := snfSet line * 16
    let free (sl : Slice) := (List.range 16).find? (fun w => (sfind sl.snf (base + w)).isNone)
    let place (s : State) (w : Nat) : State × Option Nat × Option Nat :=
      let sl := s.slice i
      (s.setSlice i { sl with snf := sput sl.snf (base + w) { line := line },
                              snfPlru := sset 0 sl.snfPlru (base / 16) (plruTouch (sget 0 sl.snfPlru (base / 16)) w) },
       some (base + w), none)
    match free sl, old.any (fun v => (s.snfFind v).isSome) with
    | some w, _ => place s w
    | none, true => (s, none, old)
    | none, false =>
      match plruPick (sget 0 sl.snfPlru (base / 16)) (fun w => !(sget {} sl.snf (base + w)).bip) with
      | none => (s, none, none)
      | some w =>
        let v := (sget {} sl.snf (base + w)).line
        match s.prepare v true with
        | (s, true) =>
          let s := s.snfCount 5
          let sl := s.slice i
          place (s.setSlice i { sl with snf := sdel sl.snf (base + w) }) w
        | (s', false) => if s'.biOpen v then (s'.snfCount 5, none, some v) else (s', none, none)

/-- The other host port. -/
def otherPort (p : Nat) : Nat := 1 - p

/-- The access that a job has under way. -/
def State.accOf (s : State) (job : EngJob) (k : EngKey) : Option EngAcc := s.coh.eng.find? (fun e => e.job = job && e.key = k)

/-- Put an access under way. -/
def State.addAcc (s : State) (e : EngAcc) : State := { s with coh := { s.coh with eng := s.coh.eng ++ [e] } }

/-- Forget what a job has under way. -/
def State.dropAccs (s : State) (job : EngJob) : State := { s with coh := { s.coh with eng := s.coh.eng.filter (fun e => e.job ≠ job) } }

/-- The line of a host's request. -/
def State.waitLine (s : State) (w : HdmWait) : Nat := s.hdmDpa w.port (hdmHpa w.req) / 64

/-- The lines for which host requests wait at the slices. -/
def State.heldLines (s : State) : List Nat := s.coh.held.map s.waitLine

/-- A request waits at the line's slice. -/
def State.queued (s : State) (line : Nat) : Bool :=
  (s.slice (Target.dev (line * 64)).slice).inq.any (fun r => r.tgt.key = line)

/-- A write-back. -/
def hdmIsWb : HdmReq → Bool
  | .wb _ _ _ => true
  | _ => false

/-- A host request must wait for an earlier request to its line (R318): one that waits or is under way. A write-back that crosses a
back-invalidate to its own host does not wait for that (the BIConflict handshake of CXL 3.2, R331): its data reaches memory first. -/
def State.hdmBusy (s : State) (w : HdmWait) (line : Nat) : Bool :=
  let sl := s.slice (Target.dev (line * 64)).slice
  s.heldLines.contains line || sl.inq.any (fun r => r.tgt.key = line && decide (r.id < w.num)) ||
  sl.misses.any (fun p => p.2.key = line) || s.shelves.reads.any (fun p => p.2.line = line && p.2.why.holdsLine) ||
  (s.biOpen line && !(hdmIsWb w.req && (sfind s.coh.bis (biKey w.port line)).isSome))

/-- The data of a host's read: what memory holds once the DCA copy is in it, or the controller's read of a line that the DCA does not
hold. Where that read must still be made, it is begun. -/
def State.hdmData (s : State) (w : HdmWait) (line : Nat) : State × Option (Bytes × Bool) :=
  let sl := s.slice (Target.dev (line * 64)).slice
  if (sl.lookup line).isSome || (sfind sl.victims line).isSome then (s, some ([], false))
  else match s.accOf (.hdm w.num) (.line line) with
    | some e => (s, if e.ready then some ([], e.bad) else none)
    | none =>
      let (id, s) := s.fresh
      let e : EngAcc := { job := .hdm w.num, who := .host w.port, key := .line line, id := id }
      ((s.addAcc e).openRead line (.eng id), none)

/-- Serve a host request at its line (Table 11.5): the state, and the request where it still waits. -/
def State.hdmServe (s : State) (w : HdmWait) : State × Option HdmWait :=
  let x := w.port
  let hpa := hdmHpa w.req
  let a := s.hdmDpa x hpa
  let line := a / 64
  let i := (Target.dev a).slice
  let rsp (s : State) (bad : Bool) : State :=
    let (d, p) := s.backRead line
    (s.dropAccs (.hdm w.num)).emit (.memRsp x hpa d (p || bad))
  let cmp (s : State) : State := s.emit (.memRsp x hpa [] false)
  let isRead := match w.req with
    | .wb _ _ _ => false
    | .wr _ _ => false
    | _ => true
  if !s.ownerOk (s.winAcid x) a then
    let hit : Hit := { access := if isRead then 1 else 2, mUnit := uHlc x, mNum := x, aspace := 2, acid := s.winAcid x,
                       addr := a }
    let s := ((s.bump 0x4000 1 6).bump (portIx x 0x2000) 1 5).fire (uHlc x) 0 2 hit
    (if isRead then s.emit (.memRsp x hpa (zeros 64) true) else cmp s, none)
  else if s.hdmBusy w line || (!isRead && (sfind (s.slice i).victims line).isSome) then (s, some w)
  else
    match w.req with
    | .rdA _ =>
      match s.prepare line true .inv (some x) with
      | (s, false) => (s, some w)
      | (s, true) =>
        match s.hdmData w line with
        | (s, none) => (s, some w)
        | (s, some (_, bad)) =>
          match s.snfEntry line w.victim with
          | (s, none, v) => (s, some { w with victim := v })
          | (s, some k, _) =>
            let s := s.cleanCopy line false
            (rsp (s.setSnf line k { line := line, p0 := x = 0, p1 := x = 1, e := true }) bad, none)
    | .rdS _ =>
      match s.prepare line false .data (some x) with
      | (s, false) => (s, some w)
      | (s, true) =>
        match s.hdmData w line with
        | (s, none) => (s, some w)
        | (s, some (_, bad)) =>
          match s.snfEntry line w.victim with
          | (s, none, v) => (s, some { w with victim := v })
          | (s, some k, _) =>
            let s := s.cleanCopy line true
            let e := sget {} (s.slice i).snf k
            (rsp (s.setSnf line k { e with line := line, p0 := e.p0 || x = 0, p1 := e.p1 || x = 1, e := false }) bad, none)
    | .rdI _ =>
      match (if w.cur then (s, true) else s.prepare line false .cur (some x)) with
      | (s, false) => (s, some w)
      | (s, true) =>
        match s.hdmData w line with
        | (s, none) => (s, some w)
        | (s, some (_, bad)) => (rsp (s.cleanCopy line true) bad, none)
    | .wb _ data keep =>
      match s.snfFind line with
      | some (k, e) =>
        if e.e && e.holders = [x] then
          let e' := if keep then { e with e := false } else e.clear x
          let s := (s.setSnf line k e').killResv (.host x) (.dev (line * 64)) 64
          (cmp (s.backWrite line (bytesAt data 0 64) false), none)
        else (cmp (s.snfCount 4), none)
      | none => (cmp (s.snfCount 4), none)
    | .wr _ data =>
      match s.prepare line true .inv (some x) with
      | (s, false) => (s, some w)
      | (s, true) =>
        let s := s.killResv (.host x) (.dev (line * 64)) 64
        let d := bytesAt data 0 64
        match (s.slice i).lookup line with
        | some k =>
          let y := (s.slice i).way k
          (cmp (s.setSlice i ((s.slice i).setWay k { y with st := .ml, data := d, poison := false })), none)
        | none => (cmp (s.backWrite line d false), none)

/-- Serve a host request, or hold it. -/
def State.hdmTry (s : State) (w : HdmWait) : State :=
  match s.hdmServe w with
  | (s, none) => s
  | (s, some w) => { s with coh := { s.coh with held := s.coh.held ++ [w] } }

/-- Serve what can be served of the host requests that wait at the slices, in arrival order. -/
def State.retryHeld (s : State) : State :=
  s.coh.held.foldl (fun s w => s.hdmTry w) { s with coh := { s.coh with held := [] } }

/-- A host CXL.mem request arrives (R404): held for a move, or behind earlier requests to its line (R318), or served. -/
def State.hdmArrive (s : State) (x : Nat) (r : HdmReq) : State :=
  let hpa := hdmHpa r
  if !(s.linkUp x && s.inDecoder x hpa) then s
  else if s.moveHolds x hpa then
    let h := s.port x
    s.setPort x { h with held := h.held ++ [r] }
  else
    let (n, s) := s.fresh
    s.hdmTry { port := x, num := n, req := r }

/-- One service of a slice (R318), then what it lets host requests do. -/
def State.sliceServe (s : State) (i : Nat) : State :=
  (s.serveNext i [] (s.slice i).inq (s.coh.held.map (fun w => (s.waitLine w, w.num)))).retryHeld

/-! ### Back-invalidate responses (R331, R334) -/

/-- The entry of a line after its back-invalidate on a port ended: BIP stands while the other port's is open. -/
def State.biEnd (s : State) (p line : Nat) (f : SnfEnt → SnfEnt) : State :=
  let s := { s with coh := { s.coh with bis := sdel s.coh.bis (biKey p line) } }
  match s.snfFind line with
  | none => s
  | some (k, e) => s.setSnf line k { f e with bip := s.biOpen line }

/-- A copy of a device line that still sits in the victim buffer is older than what a host writes back. -/
def State.dropVictim (s : State) (line : Nat) : State :=
  let i := (Target.dev (line * 64)).slice
  let sl := s.slice i
  s.setSlice i { sl with victims := sdel sl.victims line }

/-- A back-invalidate response (R331): written-back data reaches memory first. A response that is not awaited is late
(R334). -/
def State.birsp (s : State) (p line : Nat) (r : BiRsp) : State :=
  match sfind s.coh.bis (biKey p line) with
  | none => s.snfCount 2
  | some b =>
    let s := match r.data with
      | some d => ((s.dropVictim line).killResv (.host p) (.dev (line * 64)) 64).backWrite line (bytesAt d 0 64) false
      | none => s
    if b.kind = .cur then
      let mark (w : HdmWait) : HdmWait := if s.waitLine w = line then { w with cur := true } else w
      State.retryHeld (State.biEnd { s with coh := { s.coh with held := s.coh.held.map mark } } p line id)
    else
      let f (e : SnfEnt) : SnfEnt := if r.keepShared then { e with e := false } else e.clear p
      (s.biEnd p line f).retryHeld

/-- A back-invalidate times out (R334). -/
def State.biTimeout (s : State) (p line : Nat) : State :=
  match sfind s.coh.bis (biKey p line) with
  | none => s
  | some b =>
    if since s.now b.sent < 1000000 * b.limit then s
    else
      let s := ((s.dropVictim line).poisonLine line).biEnd p line (fun e => e.clear p)
      let s := { s with coh := { s.coh with dead := sset false s.coh.dead p true, deadAt := s.now } }
      let hit : Hit := { access := 9, mUnit := uHlc p, mNum := p, aspace := 2, addr := line * 64 }
      ((s.snfCount 1).fire uDca (Target.dev (line * 64)).slice 2 hit).retryHeld

/-! ### Host snoops and cache responses (R327, R328) -/

/-- A snoop must wait: its line has a fill that the host has granted before it, for an atomic or another access in progress (R328). -/
def State.snoopWaits (s : State) (x : Snoop) : Bool :=
  let t : Target := .host x.port (x.addr / 64 * 64)
  (s.slice t.slice).misses.any (fun p => p.2.key = t.key && p.2.ready)

/-- Answer a host-to-device snoop (R328): MH returns its data; SnpInv leaves I, SnpData leaves SH, SnpCur changes nothing. -/
def State.snoopAnswer (s : State) (x : Snoop) : State :=
  let t : Target := .host x.port (x.addr / 64 * 64)
  let i := t.slice
  let sl := s.slice i
  match sl.lookup t.key with
  | some k =>
    let y := sl.way k
    let data := if y.st = .mh then some y.data else none
    match x.kind with
    | .inv => (s.dcaDrop i t.key).emit (.snoopRsp x.port x.addr false data)
    | .data => (s.setSlice i (sl.setWay k { y with st := .sh })).emit (.snoopRsp x.port x.addr true data)
    | .cur => s.emit (.snoopRsp x.port x.addr true data)
  | none =>
    match sfind sl.victims t.key with
    | some v => s.emit (.snoopRsp x.port x.addr false (if v.st = .mh then some v.data else none))
    | none => s.emit (.snoopRsp x.port x.addr false none)

/-- A snoop arrives: it is answered, or waits in order. -/
def State.snoopTry (s : State) (x : Snoop) : State :=
  if s.snoopWaits x || s.coh.snoops.any (fun y => y.port = x.port && y.addr / 64 = x.addr / 64) then
    { s with coh := { s.coh with snoops := s.coh.snoops ++ [x] } }
  else s.snoopAnswer x

/-- Answer the snoops that need wait no longer. -/
def State.answerSnoops (s : State) : State :=
  s.coh.snoops.foldl (fun s x => s.snoopTry x) { s with coh := { s.coh with snoops := [] } }

/-- The host's answer to a device-to-host request: fill data, a write's GO, or an eviction's acknowledgement. -/
def State.cacheResponse (s : State) (p id : Nat) (ext : ExtData) : State :=
  match sfind s.coh.hostReqs id with
  | none => s
  | some q =>
    if q.port ≠ p then s
    else
      let s := { s with coh := { s.coh with hostReqs := sdel s.coh.hostReqs id } }
      match q.why with
      | .fill i m => s.fillReady i m (bytesAt ext.bytes 0 64) ext.poison
      | .write r => s.perform r.id
      | .evict _ _ => s

/-- A victim buffer line's write is acknowledged (R323). -/
def State.victimDone (s : State) (i key : Nat) : State :=
  if s.coh.hostReqs.any (fun q => q.2.why = .evict i key) then s
  else
    let sl := s.slice i
    s.setSlice i { sl with victims := sdel sl.victims key }

/-! ### Controller reads (R294, R301, R302) -/

/-- The controller has read a line for an access of an engine or a host. -/
def State.engReady (s : State) (id : Nat) (bad : Bool) : State :=
  { s with coh := { s.coh with eng := s.coh.eng.map (fun e => if e.id = id then { e with ready := true, bad := bad } else e) } }

/-- The first-error fields of a controller read. -/
def CtlRead.hit (c : CtlRead) (s : State) : Hit :=
  match c.why with
  | .fill i m =>
    let x := sget {} (s.slice i).misses m
    match x.waiters.head? with
    | some r => { r.hit with access := 6, aspace := 2, addr := c.line * 64 }
    | none => { access := 6, mUnit := uDca, mNum := i, aspace := 2, addr := c.line * 64 }
  | .far r => { r.hit with aspace := 2, addr := c.line * 64 }
  | .rmw r => { r.hit with aspace := 2, addr := c.line * 64 }
  | .eng id =>
    let u := (s.coh.eng.find? (fun e => e.id = id)).map (fun e => e.who.unit)
    { access := 1, mUnit := (u.getD (uDca, 0)).1, mNum := (u.getD (uDca, 0)).2, aspace := 2, addr := c.line * 64 }
  | .copy => { access := 8, mUnit := (ctlUnit c.ctl).1, mNum := (ctlUnit c.ctl).2, aspace := 2, addr := c.line * 64 }
  | .scrub => { access := 8, mUnit := (ctlUnit c.ctl).1, mNum := (ctlUnit c.ctl).2, aspace := 2, addr := c.line * 64 }

/-- The data of a foreground read goes to who asked for it: a fill; a far atomic; the merge of a partial write (R300); an access of an
engine or a host. -/
def State.readDone (s : State) (c : CtlRead) (data : Bytes) (bad : Bool) : State :=
  match c.why with
  | .fill i m => s.fillReady i m data bad
  | .far r =>
    let (s, d, p, wrote) := s.applyTo r data bad
    (if wrote then s.backWrite c.line d p else s).retryHeld
  | .rmw r =>
    ((s.backWrite c.line (patch data r.tgt.off r.data) (bad || r.poison)).perform r.id (if r.op = .stc then [0] else [])).retryHeld
  | .eng id => (s.engReady id bad).retryHeld
  | .copy => s
  | .scrub => s

/-- A controller ends a line read (R301): what it found is counted, and the read goes on. A shelf 2 read that returns before its set's
tag line waits for it (R294). -/
def State.lineReturn (s : State) (ctl id : Nat) (ecc : Ecc) : State :=
  match sfind s.shelves.reads id with
  | none => s
  | some c =>
    if c.ctl ≠ ctl || c.got.isSome then s
    else
      let bad := ecc = .uncorrectable
      let s := s.eccFound (c.line * 64) ecc (c.hit s)
      let drop (s : State) : State := { s with shelves := { s.shelves with reads := sdel s.shelves.reads id } }
      if s.shelves.tagReads.any (fun p => p.2.read = id) then
        { s with shelves := { s.shelves with reads := sput s.shelves.reads id { c with got := some bad } } }
      else match c.why with
        | .scrub => (drop s).scrubDone c ecc
        | .copy => ((drop s).copyDone ctl bad).retryHeld
        | _ =>
          let (data, poison) := s.backRead c.line
          (drop s).readDone c data (poison || bad || c.bad)

/-- The carve-out tag line of a set returns (R294), with what the controller found in the line or lines it read of the set: on a hit the
copy is returned, HIT is set, and the shelf 2 read is cancelled if it has not returned; on a miss the shelf 2 data is. A tag line that
is uncorrectable tells nothing of the set, and the read returns poison (R301; DEDUCED, log 95). -/
def State.tagReturn (s : State) (id : Nat) (ecc : Ecc) : State :=
  match sfind s.shelves.tagReads id with
  | none => s
  | some t =>
    let s := { s with shelves := { s.shelves with tagReads := sdel s.shelves.tagReads id } }
    match sfind s.shelves.reads t.read with
    | none => s
    | some c =>
      let n := carveLine t.line
      let a := s.carveAddr (s.carveSet n)
      let s := s.eccFound a ecc { c.hit s with addr := a }
      let bad := ecc = .uncorrectable
      let drop (s : State) : State := { s with shelves := { s.shelves with reads := sdel s.shelves.reads t.read } }
      match s.carveFind n, c.got with
      | some k, _ =>
        let x := s.carveWay k
        let s := (s.setCarve k { x with hit := true }).carveTouch k
        let s := (s.setReuse n (min 3 (s.reuseOf n + 1))).carveCount 0
        (drop s).readDone c x.data (x.poison || bad || s.carveLost t.line)
      | none, some lost =>
        let (data, poison) := s.backRead t.line
        (drop s).readDone c data (poison || lost || bad)
      | none, none => { s with shelves := { s.shelves with reads := sput s.shelves.reads t.read { c with bad := bad } } }

/-! ### Flush and invalidate (R324 to R326) -/

/-- Move lines of a slice whose target satisfies a predicate to its victim buffer, as far as that has room (R323, R325). -/
def State.flushSlice (s : State) (i : Nat) (p : Target → Bool) : State :=
  let keys := ((s.slice i).ways.filter (fun kv => kv.2.st ≠ .i && p (keyTarget kv.2.key))).map (fun kv => kv.1)
  keys.foldl (fun s k => if 32 ≤ (s.slice i).victims.length then s else s.evictWay i k) s

/-- The flush goes on in every slice. -/
def State.flushOn (s : State) (p : Target → Bool) : State := (List.range 16).foldl (fun s i => s.flushSlice i p) s

/-- Every line of the predicate has been written out and marked I, and its write acknowledged. -/
def State.flushed (s : State) (p : Target → Bool) : Bool :=
  (List.range 16).all (fun i =>
    (s.slice i).ways.all (fun kv => kv.2.st = .i || !p (keyTarget kv.2.key)) && (s.slice i).victims.all (fun kv => !p kv.2.tgt))

/-- What a flush writes out: every line but those of a port that is down, which are left for R336. -/
def State.flushes (s : State) (t : Target) : Bool :=
  match t with
  | .host p _ => s.linkUp p
  | _ => true

/-- The invalidate runs on a slice (R324): every way and every miss register is free. A register's waiters wait at the slice again, ahead
of later requests (R320), and what its fill brings is of no use any more. -/
def State.invalidateSlice (s : State) (i : Nat) : State :=
  let sl := s.slice i
  let open_ := sl.misses.filter (fun p => decide (p.1 < 512))
  let back := (open_.flatMap (fun p => p.2.waiters)).filter (fun r => !r.answered)
  let mine (c : ReadFor) : Bool := match c with
    | .fill j m => j = i && decide (m < 512)
    | _ => false
  let host (c : HostWhy) : Bool := match c with
    | .fill j m => j = i && decide (m < 512)
    | _ => false
  let gone := (s.shelves.reads.filter (fun p => mine p.2.why)).map (fun p => p.1)
  -- a store that was accepted before its fill is merged into the line at memory
  let s := (open_.flatMap (fun p => p.2.waiters)).foldl (fun s r =>
    match r.answered, r.tgt with
    | true, .dev a => s.backMerge (a / 64) (a % 64) r.data r.poison
    | _, _ => s) s
  State.setSlice { s with
    shelves := { s.shelves with reads := s.shelves.reads.filter (fun p => !mine p.2.why),
                                tagReads := s.shelves.tagReads.filter (fun p => !gone.contains p.2.read) },
    coh := { s.coh with hostReqs := s.coh.hostReqs.filter (fun q => !host q.2.why) } } i
    { sl with ways := [], invDone := true, misses := sl.misses.filter (fun p => decide (512 ≤ p.1)), inq := back ++ sl.inq }

/-! ### Loss of a host port (R336) -/

/-- The modified lines of a port in the DCA and its victim buffers, as host addresses. -/
def State.lostLines (s : State) (p : Nat) : List Nat :=
  (List.range 16).flatMap (fun i =>
    let sl := s.slice i
    let mine (st : LineSt) (t : Target) : Option Nat :=
      match t with
      | .host q a => if q = p && st = .mh then some a else none
      | _ => none
    sl.ways.filterMap (fun kv => mine kv.2.st (keyTarget kv.2.key)) ++
      sl.victims.filterMap (fun kv => mine kv.2.st kv.2.tgt))

/-- A target is on the host of a port. -/
def Target.onHost (t : Target) (p : Nat) : Bool :=
  match t with
  | .host q _ => q = p
  | _ => false

/-- The slices' and partitions' part of HLx (R336). Lost MH lines are read from the state before with `lostLines`. -/
def State.cohPortLost (s : State) (p : Nat) : State :=
  -- reservations on the port's lines
  let hit (r : Resv) : Bool := r.base.onHost p
  let n := (s.coh.resv.filter hit).length
  let s := { s with coh := { s.coh with resv := s.coh.resv.filter (fun r => !hit r) } }
  let s := if n = 0 then s else s.orderCount 2 n
  -- lines, registers, victims, waiting requests
  let s := (List.range 16).foldl (fun s i =>
    let sl := s.slice i
    let gone := (sl.misses.filter (fun m => m.2.tgt.onHost p)).flatMap (fun m => m.2.waiters) ++
      sl.inq.filter (fun r => r.tgt.onHost p)
    let s := s.setSlice i { sl with
      ways := sl.ways.filter (fun w => !(keyTarget w.2.key).onHost p),
      misses := sl.misses.filter (fun m => !m.2.tgt.onHost p),
      victims := sl.victims.filter (fun v => !v.2.tgt.onHost p),
      inq := sl.inq.filter (fun r => !r.tgt.onHost p) }
    gone.foldl (fun s r => s.failReq r.id .hostLost) s) s
  let writes := s.coh.hostReqs.filterMap (fun q =>
    if q.2.port = p then (match q.2.why with
                          | .write r => some r
                          | _ => none) else none)
  let s := writes.foldl (fun s r => s.failReq r.id .hostLost) s
  let s := { s with coh := { s.coh with hostReqs := s.coh.hostReqs.filter (fun q => q.2.port ≠ p) } }
  -- snoop filter entries and back-invalidates
  let s := { s with coh := { s.coh with bis := s.coh.bis.filter (fun b => b.1 / 2 ^ 36 ≠ p),
                                        dead := sdel s.coh.dead p,
                                        eng := s.coh.eng.filter (fun e => !(s.coh.held.any (fun w => w.port = p && e.job = EngJob.hdm w.num))),
                                        held := s.coh.held.filter (fun w => w.port ≠ p),
                                        snoops := s.coh.snoops.filter (fun x => x.port ≠ p) } }
  let s := (List.range 16).foldl (fun s i =>
    (s.slice i).snf.foldl (fun s ke =>
      let e := ke.2
      if e.holders.contains p then
        let s := s.snfCount 7
        let s := if e.e then s.snfCount 6 else s
        s.setSnf e.line ke.1 { e.clear p with bip := s.biOpen e.line }
      else s.setSnf e.line ke.1 { e with bip := s.biOpen e.line }) s) s
  s.retryHeld

end Sys2Proof.Machine
end

