-- ==== Sys2Proof/Machine/Mem.lean ====
section
/-! DEFINITION. Memory as the engines that run whole within one command see it: accesses by physical target, served in one
piece through the home slices, and the sending of a fabric request (R343, R440). -/
namespace Sys2Proof.Machine

/-- Split `n` bytes from an address at multiples of `size`: the offset and length of each piece. -/
def pieces (a n size : Nat) : List (Nat × Nat) :=
  if n = 0 then []
  else (List.range ((a + n - 1) / size - a / size + 1)).map (fun k =>
    let lo := max a ((a / size + k) * size)
    let hi := min (a + n) ((a / size + k + 1) * size)
    (lo - a, hi - lo))

/-- The bytes that fall to each of the pieces, which follow one another: a piece's offset with its bytes. -/
def cutBytes : List (Nat × Nat) → Bytes → List (Nat × Bytes)
  | [], _ => []
  | oc :: l, b => (oc.1, b.take oc.2) :: cutBytes l (b.drop oc.2)

/-! ### Accesses of engines under way

An engine's work runs whole within one command, once every access that it makes is at hand: the controller has read the lines that it
reads, the hosts and remote devices have answered, its pages are translated. Until then the command has no other effect than to begin
those accesses (log 9). -/

def State.needs (s : State) (n : Need) : State := { s with coh := { s.coh with need := s.coh.need ++ [n] } }

/-- The work that runs must wait already: its further accesses are not made yet. -/
def State.stalled (s : State) : Bool := !s.coh.need.isEmpty

/-- The running work's access under way. -/
def State.acc (s : State) (k : EngKey) : Option EngAcc := s.coh.eng.find? (fun e => some e.job = s.coh.job && e.key = k)

/-- The running work needs an access, which is begun unless it is under way. -/
def State.wants (s : State) (who : Agent) (acid : Nat) (k : EngKey) : State :=
  s.needs (if (s.acc k).isSome then .hold else .acc who acid k)

/-- Forget answers. -/
def State.forget (s : State) (ids : List Nat) : State := { s with rsps := s.rsps.filter (fun p => !ids.contains p.1) }

/-- Requests that are cancelled (R223, R385) are discarded wherever they wait in the block, and nobody awaits their answers. -/
def State.discardReqs (s : State) (ids : List Nat) : State :=
  let keep (r : MemReq) : Bool := !ids.contains r.id
  let slices := s.coh.slices.map (fun p => (p.1, { p.2 with
    inq := p.2.inq.filter keep,
    misses := p.2.misses.map (fun m => (m.1, { m.2 with waiters := m.2.waiters.filter keep })) }))
  let gone (p : Nat × TagFor) : Bool := match p.2 with
    | .mem id _ => ids.contains id
    | _ => false
  let tags := (s.fab.tags.filter gone).map (fun p => p.1)
  let mine (w : Waiting) : Bool := w.src.isNone && decide (w.msg.op.toNat ≤ 5) && tags.contains w.msg.tag.toNat
  State.forget { s with
    coh := { s.coh with slices := slices },
    shelves := { s.shelves with reads := s.shelves.reads.filter (fun p => match p.2.why with
      | .far r => keep r
      | _ => true) },
    fab := { s.fab with tags := s.fab.tags.filter (fun p => !gone p), msgs := s.fab.msgs.filter (fun p => !mine p.2) } } ids

/-! ### Device lines -/

/-- An engine's access to a line must wait: earlier requests to it wait or are under way (R318), or its holders must first answer. -/
def State.lineBusy (s : State) (line : Nat) : Bool :=
  s.busy (Target.dev (line * 64)).slice line || s.queued line || s.heldLines.contains line

/-- Read bytes of one line of device memory through its home slice: from the DCA or its victim buffer, or from memory once the controller
has read the line (R301). -/
def State.devRead (s : State) (who : Agent) (acid a n : Nat) : State × Bytes × Bool × MemErr :=
  let line := a / 64
  let i := (Target.dev a).slice
  if !s.ownerOk acid a then
    (s.ownerRefused { access := 1, mUnit := who.unit.1, mNum := who.unit.2, aspace := 2, acid := acid, addr := a },
     zeros n, false, .owner)
  else if s.lineBusy line then (s.needs (.line line false), zeros n, false, .none)
  else
    let (s, ok) := s.prepare line false
    if !ok then (s.needs (.line line false), zeros n, false, .none)
    else
      match (s.slice i).lookup line, sfind (s.slice i).victims line with
      | some k, _ =>
        let x := (s.slice i).way k
        (s.sliceCount i 0, bytesAt x.data (a % 64) n, x.poison, .none)
      | none, some v => (s.sliceCount i 0, bytesAt v.data (a % 64) n, v.poison, .none)
      | none, none =>
        match s.acc (.line line) with
        | some { ready := true, bad := bad, .. } =>
          let (d, p) := s.backRead line
          (s.sliceCount i 1, bytesAt d (a % 64) n, p || bad, .none)
        | _ => (s.wants who acid (.line line), zeros n, false, .none)

/-- A ring's work keeps that it has written bytes of a line. -/
def State.wrote (s : State) (who : Agent) (a : Nat) (b : Bytes) (poison : Bool) : State :=
  match s.coh.job with
  | some (.ring g) =>
    let (id, s) := s.fresh
    s.addAcc { job := .ring g, who := who, key := .put (.dev a) b poison, id := id, ready := true }
  | _ => s

/-- Write bytes of a line that nothing holds: in the DCA, or in memory. -/
def State.devPut (s : State) (who : Agent) (a : Nat) (b : Bytes) (poison bad : Bool) : State :=
  let line := a / 64
  let i := (Target.dev a).slice
  let s := (s.wrote who a b poison).killResv who (.dev a) b.length
  match (s.slice i).lookup line with
  | some k =>
    let x := (s.slice i).way k
    let y : Way := { x with st := .ml, data := patch x.data (a % 64) b,
                            poison := if b.length = 64 then poison else x.poison || poison }
    s.setSlice i ((s.slice i).setWay k y)
  | none => if b.length = 64 then s.backWrite line b poison else s.backMerge line (a % 64) b (poison || bad)

/-- What the running work has learnt of a line that the controller has read: its error. -/
def State.lineBad (s : State) (line : Nat) : Bool :=
  match s.acc (.line line) with
  | some e => e.bad
  | none => false

/-- Write the device lines that a list of accesses has written. -/
def State.done (l : List EngAcc) (s : State) : State :=
  l.foldl (fun s e => match e.key with
    | .put (.dev a) b poison => s.devPut e.who a b poison (s.lineBad (a / 64))
    | _ => s) s

/-- Write bytes of one line of device memory through its home slice, without allocating (R322). A partial write that misses is a
read-modify-write at the controller (R300). -/
def State.devWrite (s : State) (who : Agent) (acid a : Nat) (b : Bytes) (poison : Bool) : State × MemErr :=
  let line := a / 64
  let i := (Target.dev a).slice
  if s.stalled || (s.acc (.put (.dev a) b poison)).isSome then (s, .none)
  else if !s.ownerOk acid a then
    (s.ownerRefused { access := 2, mUnit := who.unit.1, mNum := who.unit.2, aspace := 2, acid := acid, addr := a }, .owner)
  else if s.lineBusy line || (sfind (s.slice i).victims line).isSome then (s.needs (.line line true), .none)
  else
    let (s, ok) := s.prepare line true
    if !ok then (s.needs (.line line true), .none)
    else
      if ((s.slice i).lookup line).isSome || b.length = 64 then (s.devPut who a b poison false, .none)
      else match s.acc (.line line) with
        | some { ready := true, bad := bad, .. } => (s.devPut who a b poison bad, .none)
        | _ => (s.wants who acid (.line line), .none)

/-! ### Fabric requests (R439, R440) -/

/-- This device's node. -/
def State.node (s : State) : BitVec 16 := BitVec.ofNat 16 (s.rdN 0x8000 0 0 2)

/-- WINDOW (Table 15.1). -/
def State.fabWindow (s : State) (n : Nat) : Bytes := s.rd (0x8800 + n / 256) (n % 256)

/-- Put a message at the router, from a port or from this device. A request for this device meets the window that is in force now (R424). -/
def State.toRouter (s : State) (m : FabMsg) (src : Option Nat) : State :=
  let (k, s) := s.fresh
  let win := if m.dst = s.node && decide (m.op.toNat ≤ 5) then s.fabWindow (m.addr.toNat / 2 ^ 36) else []
  { s with fab := { s.fab with msgs := sput s.fab.msgs k { msg := m, src := src, since := s.now, win := win } } }

/-- The next free fabric tag after the one assigned last. -/
def Fab.freeTag (f : Fab) : Option Nat :=
  match sfreeFrom f.tags (131072 - f.nextTag) f.nextTag with
  | some t => some t
  | none => sfreeFrom f.tags f.nextTag 0

/-- Send a request under a fabric tag (R440); none while every tag is taken. -/
def State.fabRequest (s : State) (what : TagFor) (op : Nat) (fa len : Nat) (payload : Bytes) (poison : Bool)
    (issued : Nat) : Option State :=
  match s.fab.freeTag with
  | none => none
  | some tag =>
    let m : FabMsg := { dst := BitVec.ofNat 16 (fa >>> 48), src := s.node, op := BitVec.ofNat 4 op, len := len,
                        tag := BitVec.ofNat 17 tag, sent := sentOf issued, addr := BitVec.ofNat 48 fa, poison := poison,
                        payload := payload }
    some ({ s with fab := { s.fab with tags := sput s.fab.tags tag what, nextTag := (tag + 1) % 131072 } }.toRouter m none)

/-! ### Targets -/

/-- The host and remote accesses of a queue travel on the queue's own port (R260). -/
def Agent.route (who : Agent) (t : Target) : Target :=
  match who, t with
  | .sqe q, .host p h => .host (if q < 256 then q / 128 else p) h
  | _, t => t

/-- What an engine's access to a host or to the fabric must first find: a port that is lost ends it, and one in D3hot holds it. -/
def State.reach (s : State) (t : Target) : Option MemErr :=
  match t with
  | .host p _ => if !s.hostOk p then some .hostLost else if s.hostHeld p then none else some .none
  | _ => some .none

/-- Read at most one line outside the device: the answer, once it has come. -/
def State.getPiece (s : State) (who : Agent) (acid : Nat) (t : Target) (n : Nat) : State × Bytes × Bool × MemErr :=
  match s.reach t with
  | none => (s.needs .hold, zeros n, false, .none)
  | some .none =>
    match (s.acc (.get t n)).bind (fun e => sfind s.rsps e.id) with
    | some { performed := true, data := d, poison := q, err := e, .. } => (s, bytesAt d 0 n, q, e)
    | _ => (s.wants who acid (.get t n), zeros n, false, .none)
  | some e => (s, zeros n, false, e)

/-- Write at most one line outside the device: done once it has been performed (R343, R344). -/
def State.putPiece (s : State) (who : Agent) (acid : Nat) (t : Target) (b : Bytes) (poison : Bool) : State × MemErr :=
  match s.reach t with
  | none => (s.needs .hold, .none)
  | some .none =>
    match (s.acc (.put t b poison)).bind (fun e => sfind s.rsps e.id) with
    | some { performed := true, err := e, .. } => (s, e)
    | _ => (s.wants who acid (.put t b poison), .none)
  | some e => (s, e)

/-- Read `n` bytes at a target for an engine, line by line. -/
def State.readAt (s : State) (who : Agent) (acid : Nat) (t : Target) (n : Nat) : State × Bytes × Bool × MemErr :=
  let t := who.route t
  if s.stalled then (s, zeros n, false, .none)
  else (pieces t.addr n 64).foldl (fun x oc =>
    match x.2.2.2 with
    | .none =>
      let (s, d, q, e) := match t with
        | .dev a => x.1.devRead who acid (a + oc.1) oc.2
        | t => x.1.getPiece who acid (t.plus oc.1) oc.2
      (s, x.2.1 ++ d, x.2.2.1 || q, e)
    | _ => x) (s, [], false, MemErr.none)

/-- Write bytes at a target for an engine, line by line. -/
def State.writeAt (s : State) (who : Agent) (acid : Nat) (t : Target) (b : Bytes) (poison : Bool := false) : State × MemErr :=
  let t := who.route t
  if s.stalled then (s, .none)
  else (cutBytes (pieces t.addr b.length 64) b).foldl (fun (s, e) ob =>
    match e with
    | .none =>
      match t with
      | .dev a => s.devWrite who acid (a + ob.1) ob.2 poison
      | t => s.putPiece who acid (t.plus ob.1) ob.2 poison
    | _ => (s, e)) (s, MemErr.none)

/-- Atomic operations that wait at the atomic unit of a controller (R337). -/
def State.atomicsAt (s : State) (ctl : Nat) : Nat :=
  (s.shelves.reads.filter (fun p => p.2.ctl = ctl && (match p.2.why with
    | .far _ => true
    | .eng id => s.coh.eng.any (fun e => e.id = id && (match e.key with
      | .far _ => true
      | _ => false))
    | _ => false))).length

/-- The 64-byte compare-and-swap of R153, of a line whose holder alone changes it within one command: `b` replaces the bytes at a
device address. It is performed near, in the slice, or far, by the atomic unit, which reads the line with correction, as R337 and R338
choose. One that finds the line poisoned writes nothing. -/
def State.lineSwap (s : State) (who : Agent) (acid a : Nat) (b : Bytes) : State × MemErr :=
  let line := a / 64
  let i := (Target.dev a).slice
  if s.stalled then (s, .none)
  else if !s.ownerOk acid a then
    (s.ownerRefused { access := 3, mUnit := who.unit.1, mNum := who.unit.2, aspace := 2, acid := acid, addr := a }, .owner)
  else if s.lineBusy line || (sfind (s.slice i).victims line).isSome then (s.needs (.line line true), .none)
  else
    let far := !s.dcaOn || s.goesFar line
    let contended := s.lineAsked line
    let (s, ok) := s.prepare line true
    if !ok then (s.needs (.line line true), .none)
    else
      let note (s : State) : State := (s.killResv who (.dev a) b.length).trained (s.predKey line) far contended
      let key : EngKey := if far then .far line else .line line
      let got := match s.acc key with
        | some { ready := true, bad := bad, .. } => some bad
        | _ => none
      match (s.slice i).lookup line, far, got with
      | some k, false, _ =>
        let s := note s
        let x := (s.slice i).way k
        let y : Way := if x.poison then x else { x with st := .ml, data := patch x.data (a % 64) b }
        ((s.setSlice i (((s.slice i).setWay k y).touch k)).sliceCount i 0, .none)
      | _, _, none => (s.wants who acid key, .none)
      | hit, true, some bad =>
        let s := match hit with
          | some k => s.pushOut i k
          | none => s
        let p := (s.backRead line).2 || bad
        (if p then note s else (note s).backMerge line (a % 64) b false, .none)
      | none, false, some bad =>
        let (d, p) := s.backRead line
        let p := p || bad
        match ((note s).sliceCount i 1).install i line .ml (if p then d else patch d (a % 64) b) p with
        | some s => (s, .none)
        | none => (s.needs (.line line true), .none)

end Sys2Proof.Machine
end

