-- ==== Sys2Proof/Machine/Task.lean ====
section
/-! DEFINITION. The end of a task: its causes, TASK_END, and the context configuration it runs under (R228, R229, R485). -/
namespace Sys2Proof.Machine

/-- Status codes of Table 9.4. -/
def stOk : Nat := 0x00
def stShed : Nat := 0x01
def stMalformed : Nat := 0x02
def stHostLost : Nat := 0x03
def stXlateFault : Nat := 0x04
def stUnrecorded : Nat := 0x05
def stXlateDrain : Nat := 0x06
def stXferTimeout : Nat := 0x07
def stBadXfer : Nat := 0x08
def stPoison : Nat := 0x09
def stBadGather : Nat := 0x0A
def stBadScan : Nat := 0x0B
def stRemoteLost : Nat := 0x0C
def stEpochAbsent : Nat := 0x0D
def stSessionBusy : Nat := 0x0E
def stBadSegment : Nat := 0x0F
def stOverDemand : Nat := 0x10
def stTrapped : Nat := 0x11

/-- Statuses that are reported on their own paths and set no TASK_END (R485). -/
def quietStatus (st : Nat) : Bool :=
  [stXlateFault, stUnrecorded, stHostLost, stShed, stMalformed, stSessionBusy, stEpochAbsent].contains st

/-- The tiles of a request's task: those of its cabinet that hold a context of it. -/
def State.taskTiles (s : State) (r : Nat) : List Nat :=
  (s.tiles.tile.filter (fun p => p.2.ctxs.any (fun c => c.2.phase ≠ 0 && c.2.req = r))).map (fun p => p.1)

/-- The request has a cause of its end. -/
def Request.ending (q : Request) : Bool := !q.causes.isEmpty

/-- A request whose task may still end early: bound, and no completion decided. -/
def Request.live (q : Request) : Bool := decide (1 ≤ q.phase) && decide (q.phase ≤ 3)

/-! ### What a task's end does to its contexts (R228, R229) -/

/-- The transfers of a context, from a bundle on, that still queue in the XFU are discarded. -/
def Tile.cut (x : Tile) (c seq : Nat) : Tile :=
  { x with xfers := x.xfers.filter (fun p => !(p.2.ctx = c && decide (p.2.phase ≤ 1) && decide (seq ≤ p.2.seq))) }

/-- A context whose task ends leaves its tile's issue at the bundle boundary; one that a trap stops stays in its place until the
trap has run (R495). -/
def Tile.leave (x : Tile) (c now : Nat) : Tile :=
  let k := x.ctx c
  let x := (x.cut c k.lastSeq).setCtx c { k with phase := 5, waits := [], missed := false, slots := 0, resv := none }
  if x.active = some c && x.trap.phase = 0 then x.rest now else x

/-- One context of a task that ends: the faulting context from its faulting bundle on, any other from its last bundle on. A
context between the slots of one bundle leaves when the bundle is whole. -/
def Tile.stopCtx (x : Tile) (c : Nat) (pos : Option (Nat × Nat)) (now : Nat) : Tile :=
  let k := x.ctx c
  let x := match pos with
    | some (d, q) => if d = c then x.cut c q else x
    | none => x
  if c = 16 || k.phase = 5 || k.slots ≠ 0 then x else x.leave c now

/-- TASK_ABORT (R229): every context of the task ends. `pos` is the tile, context and bundle of the cause. -/
def State.abortTask (s : State) (r : Nat) (pos : Option (Nat × Nat × Nat)) : State :=
  { s with
    coh := { s.coh with resv := s.coh.resv.filter (fun v =>
      match v.agent with
      | .tile t c => ((s.tile t).ctx c).req ≠ r || ((s.tile t).ctx c).phase = 0
      | _ => true) },
    tiles := { s.tiles with tile := s.tiles.tile.map (fun p =>
      let here := match pos with
        | some (t, c, q) => if t = p.1 then some (c, q) else none
        | none => none
      (p.1, (p.2.ctxs.filter (fun c => c.2.phase ≠ 0 && c.2.req = r)).foldl (fun x c => x.stopCtx c.1 here (s.tileTicks p.1)) p.2)) } }

/-- A cause of a task's end (R228): it joins the task's causes. The first one counts in ABORTS and ends every context; where
it is not reported on its own path it sets TASK_END of the tile, with a trap into every tile of the task where the
reaction holds TRAP (R495). `pos` is the faulting bundle: its tile, context and number. -/
def State.addCause (s : State) (r : Nat) (c : Cause) (pos : Option (Nat × Nat × Nat) := none) : State :=
  match sfind s.sqe.reqs r with
  | none => s
  | some q =>
    if !q.live then s
    else
      let first := q.causes.isEmpty
      let tiles := s.taskTiles r
      let s := s.setReq r { q with causes := q.causes ++ [c] }
      if first then
        let s := s.bump (0x5100 + 0x10 * c.tile) 2 2
        let s :=
          if quietStatus c.status then s
          else s.fireWith (fun s => s.trapTiles tiles (Config.trapCause uTile 2)) id id uTile c.tile 2
            { mUnit := uTile, mNum := c.tile, acid := q.acid, queue := q.q }
        s.abortTask r pos
      else
        match pos with
        | some (t, k, n) => s.setTile t ((s.tile t).cut k n)
        | none => s

/-- A task ends with a status, found by a tile. -/
def State.endTask (s : State) (r st tile : Nat) (pos : Option (Nat × Nat × Nat) := none) : State :=
  s.addCause r { gtc := s.now, status := st, tile := tile } pos

/-- A locked run cannot go on (R256): its task ends FAILED. The spec names no status for it (log 15). -/
def State.lockFail (s : State) (r tile why : Nat) (pos : Option (Nat × Nat × Nat) := none) : State :=
  match sfind s.sqe.reqs r with
  | none => s
  | some q =>
    if !q.live || !q.locked then s
    else
      let s := { s with sched := { s.sched with lock := { s.sched.lock with failed := true } } }
      if !q.causes.isEmpty then s
      else
        let c : Cause := { gtc := s.now, status := (Config.lockStatus why).toNat, tile := tile }
        ((s.setReq r { q with causes := [c] }).bump (0x5100 + 0x10 * tile) 2 2).abortTask r pos

/-- The first cause by GTC; at one count the lowest logical tile (R229). -/
def firstCause : List Cause → Option Cause
  | [] => none
  | c :: rest =>
    match firstCause rest with
    | none => some c
    | some d => if c.gtc < d.gtc || (c.gtc = d.gtc && c.tile ≤ d.tile) then some c else some d

/-- A fault record decides the status of what it stands for (R382). -/
def State.decideRec (s : State) (w : RecFor) (written : Bool) : State :=
  let st := if written then stXlateFault else stUnrecorded
  match w with
  | .task r k =>
    match sfind s.sqe.reqs r with
    | none => s
    | some q =>
      match q.causes[k]? with
      | none => s
      | some c => s.setReq r { q with causes := q.causes.set k { c with status := st, open_ := false } }
  | .epm g =>
    let x := s.ring g
    match x.batch with
    | some b => s.setRing g { x with batch := some { b with undecided := false } }
    | none => s
  | .ssu g =>
    let x := s.evRing g
    match x.batch with
    | some b => s.setEvRing g { x with batch := some { b with undecided := false } }
    | none => s

end Sys2Proof.Machine
end

