-- ==== Sys2Proof/Machine/Mtu.lean ====
section
/-! DEFINITION. The memory translation unit (chapter 13): contexts, page table entries, TLBs and walks, fault records and
queues, invalidation, access counters. -/
namespace Sys2Proof.Machine

/-! ### Contexts (R365, R392) -/

def ctxIx (acid : Nat) : Nat := 0x4010 + acid / 256
def State.ctxN (s : State) (acid off n : Nat) : Nat := s.rdN (ctxIx acid) (acid % 256) off n
def State.ctxRoot (s : State) (acid : Nat) : Nat := s.ctxN acid 0 8
def State.ctxFlag (s : State) (acid k : Nat) : Bool := (s.ctxN acid 12 1).testBit k
def State.ctxOn (s : State) (acid : Nat) : Bool := s.ctxFlag acid 0
def State.ctxPort (s : State) (acid : Nat) : Nat := b2n (s.ctxFlag acid 1)
def State.ctxAts (s : State) (acid : Nat) : Bool := s.ctxFlag acid 2
/-- The PASID of a context, when PASID_EN is 1. -/
def State.ctxPasid (s : State) (acid : Nat) : Option Nat :=
  let v := s.ctxN acid 8 4
  if v.testBit 31 then some (v % 2 ^ 20) else none
/-- Counter mode: MIG_MODE, or forced by the number of reachable nodes (R390). -/
def State.counterMode (s : State) (acid : Nat) : Bool := s.ctxFlag acid 3 || s.mtu.forced

/-- MTU counters: 0 WALKS, 1 WALK_READS, 2 TLB_MISSES, 3 RECORDS_DROPPED, 4 NOTICES_DROPPED, 5 COALESCED,
6 OWNER_REFUSALS, 7 DRAIN_CANCELLED. -/
def State.mtuCount (s : State) (k : Nat) : State := s.bump 0x4000 1 k

/-! ### Fault types (Table 13.8) -/

def ftNotPresent : Nat := 1
def ftWrite : Nat := 2
def ftBadEntry : Nat := 3
def ftAddress : Nat := 4
def ftContext : Nat := 5
def ftOwner : Nat := 6
def ftAts : Nat := 7
def ftWalkPoison : Nat := 8
def ftMigrate : Nat := 9
def ftHot : Nat := 10

/-- The access writes (R369): LDR reads, STC writes; the record's code 3 covers both, so the caller says which. -/
def Access.code : Access → Nat
  | .read => 0
  | .write => 1
  | .atomic => 2
  | .ldrStc => 3
  | .walk => 4

/-! ### Page table entries (R366 to R368) -/

/-- The page size of a leaf at a level (Table 13.2). -/
def leafSize (level : Nat) (c : Bool) : Nat :=
  if level = 0 then (if c then 2 ^ 16 else 2 ^ 12) else if level = 1 then 2 ^ 21 else 2 ^ 30

/-- What an entry says: not present, bad, a table, or a leaf's translation. -/
inductive PtEntry where
  | absent
  | bad
  | table (a : Nat)
  | leaf (e : TlbEnt)
  deriving DecidableEq, Repr

/-- Decode an entry read at a level for an address (Tables 13.3, 13.4). A HOST leaf leads to the host of the context's
port. -/
def State.ptDecode (s : State) (acid va level x : Nat) : PtEntry :=
  let kind := (x >>> 1) % 4
  let w := x.testBit 3
  let c := x.testBit 4
  let attr := (x >>> 5) % 16
  let mot := x.testBit 9
  let resv := (x >>> 10) % 4 ≠ 0
  let addr := 4096 * (x >>> 12)
  if !x.testBit 0 then .absent
  else if resv then .bad
  else if kind = 0 then
    if level = 0 || w || c || attr ≠ 0 || mot || addr / 2 ^ 42 ≠ 0 then .bad else .table addr
  else
    let size := leafSize level c
    if 3 ≤ level || (c && level ≠ 0) || addr % size ≠ 0 || (kind = 1 && addr / 2 ^ 42 ≠ 0) then .bad
    else
      let t : Target := if kind = 1 then .dev addr else if kind = 2 then .host (s.ctxPort acid) addr else .fab addr
      .leaf { acid := acid, base := va / size * size, size := size, tgt := t, w := w, attr := attr, mot := mot }

/-! ### Translation caches (R373) -/

/-- The smallest page of a cache that covers an address (R373). -/
def tlbFind (l : List TlbEnt) (acid va : Nat) : Option TlbEnt :=
  l.foldl (fun best e =>
    if e.acid = acid && decide (e.base ≤ va) && decide (va < e.base + e.size) then
      match best with
      | some b => if e.size < b.size then some e else some b
      | none => some e
    else best) none

/-- The set of an entry in a cache of some sets (Table 13.5); its index is the part's (log 97). -/
def TlbEnt.set (e : TlbEnt) (sets : Nat) : Nat := Config.tlbSet e.acid e.base e.size % sets

/-- Put an entry into its set; a full set gives up an entry that the part chooses (log 6). -/
def tlbPut (sets ways : Nat) (l : List TlbEnt) (e : TlbEnt) (choice : Nat) : List TlbEnt :=
  let l := l.filter (fun x => !(x.acid = e.acid && x.base = e.base && x.size = e.size))
  let mine := l.filter (fun x => x.set sets = e.set sets)
  e :: (if mine.length < ways then l else l.erase (mine.getD (choice % mine.length) e))

/-- Which caches serve a requester: the tile's micro-TLB and its cabinet's, a cabinet's, or the control TLB. -/
inductive TlbPath where
  | tile (t : Nat)
  | cab (c : Nat)
  | ctl
  deriving DecidableEq, Repr

def State.micro (s : State) (t : Nat) : List TlbEnt := sget [] s.mtu.micro t
def State.cabTlb (s : State) (c : Nat) : List TlbEnt := sget [] s.mtu.cab c
def State.putMicro (s : State) (t : Nat) (e : TlbEnt) : State :=
  let (f, s) := s.draw
  { s with mtu := { s.mtu with micro := sset [] s.mtu.micro t (tlbPut 1 64 (s.micro t) e f) } }
def State.putCab (s : State) (c : Nat) (e : TlbEnt) : State :=
  let (f, s) := s.draw
  { s with mtu := { s.mtu with cab := sset [] s.mtu.cab c (tlbPut 512 8 (s.cabTlb c) e f) } }
def State.putCtl (s : State) (e : TlbEnt) : State :=
  let (f, s) := s.draw
  { s with mtu := { s.mtu with ctl := tlbPut 128 8 s.mtu.ctl e f } }

/-- Install a translation in the caches of a path. -/
def State.tlbInstall (s : State) (p : TlbPath) (e : TlbEnt) : State :=
  match p with
  | .tile t => (s.putCab (cabOf t) e).putMicro t e
  | .cab c => s.putCab c e
  | .ctl => s.putCtl e

/-- Drop cached translations by a predicate, from every cache. -/
def State.tlbDrop (s : State) (p : TlbEnt → Bool) : State :=
  let keep (l : List TlbEnt) := l.filter (fun e => !p e)
  let drop (m : SMap (List TlbEnt)) : SMap (List TlbEnt) :=
    (m.map (fun kv => (kv.1, keep kv.2))).filter (fun kv => !kv.2.isEmpty)
  { s with mtu := { s.mtu with micro := drop s.mtu.micro, cab := drop s.mtu.cab, ctl := keep s.mtu.ctl } }

/-- Look an address up along a path; a cabinet hit fills the micro-TLB. -/
def State.tlbLook (s : State) (p : TlbPath) (acid va : Nat) : State × Option TlbEnt :=
  match p with
  | .tile t =>
    match tlbFind (s.micro t) acid va with
    | some e => (s, some e)
    | none =>
      match tlbFind (s.cabTlb (cabOf t)) acid va with
      | some e => (s.putMicro t e, some e)
      | none => (s, none)
  | .cab c => (s, tlbFind (s.cabTlb c) acid va)
  | .ctl => (s, tlbFind s.mtu.ctl acid va)

/-! ### The check of a translation (R369, R371) -/

/-- What a translation comes to. -/
inductive Xl where
  | go (t : Target) (e : TlbEnt)
  | fault (type level : Nat)
  | miss
  | ats (e : TlbEnt)
  deriving DecidableEq, Repr

/-- Check an entry for an access: MOT in fault mode, W, ATS. -/
def State.xlCheck (s : State) (acid va : Nat) (writes : Bool) (e : TlbEnt) : Xl :=
  if e.mot && !s.counterMode acid then .fault ftMigrate 7
  else if writes && !e.w then .fault ftWrite 7
  else
    match e.tgt, s.ctxAts acid with
    | .host p _, true =>
      match e.ats with
      | none =>
        -- through a port that is lost, the access ends on its own (R414)
        if !s.hostOk p then .go (e.tgt.plus (va - e.base)) e else
        -- a result is asked for, and kept, for 4 KiB
        let base := 4096 * (va / 4096)
        .ats { e with base := base, size := 4096, tgt := e.tgt.plus (base - e.base) }
      | some r =>
        if !r.read && !r.write then .fault ftAts 7
        else if writes && !r.write then .fault ftWrite 7
        else .go (.host p (r.addr + (va - e.base))) e
    | t, _ => .go (t.plus (va - e.base)) e

/-- Translate an address along a path, without a walk (R369). A result by which the host granted nothing is used for its
fault and not kept. -/
def State.xlate (s : State) (p : TlbPath) (acid va : Nat) (writes : Bool) : State × Xl :=
  if 2 ^ 57 ≤ va then (s, .fault ftAddress 7)
  else if !s.ctxOn acid then (s, .fault ftContext 7)
  else
    match s.tlbLook p acid va with
    | (s, some e) =>
      match s.xlCheck acid va writes e with
      | .fault ty l => (if ty = ftAts then s.tlbDrop (fun x => x = e) else s, .fault ty l)
      | r => (s, r)
    | (s, none) => (s, .miss)

/-! ### Walks (R369, R370, R374) -/

/-- The table and level at which a walk begins: the deepest walk-cache entry that covers the address, or ROOT. -/
def State.walkFrom (s : State) (acid va : Nat) : Nat × Nat :=
  s.mtu.walkC.foldl (fun best w =>
    if w.acid = acid && va / 2 ^ (12 + 9 * w.level) * 2 ^ (12 + 9 * w.level) = w.base && w.level ≤ best.1 then
      (w.level - 1, w.table)
    else best) (4, s.ctxRoot acid)

/-- One level of a walk: what the read at the level gives. -/
inductive WalkStep where
  | down (level table : Nat)
  | found (e : TlbEnt)
  | fault (type level : Nat)
  deriving DecidableEq, Repr

/-- Read the entry of a level and decide (R369). A TABLE entry enters the walk cache. -/
def State.walkRead (s : State) (acid va level table : Nat) : State × WalkStep :=
  let ix := (va >>> (12 + 9 * level)) % 512
  let (s, b, poison, err) := (s.mtuCount 1).devRead .mtu acid (table + 8 * ix) 8
  match err with
  | .owner => (s, .fault ftOwner level)
  | _ =>
    if poison then (s, .fault ftWalkPoison level)
    else match s.ptDecode acid va level (leNat b) with
      | .absent => (s, .fault ftNotPresent level)
      | .bad => (s, .fault ftBadEntry level)
      | .table a =>
        let span := 2 ^ (12 + 9 * level)
        let w : WalkEnt := { acid := acid, level := level, base := va / span * span, table := a }
        let l := s.mtu.walkC.filter (fun x => x ≠ w)
        let (f, s) := s.draw
        let l := if l.length < 8192 then l else l.eraseIdx (f % l.length)
        ({ s with mtu := { s.mtu with walkC := w :: l } }, .down (level - 1) a)
      | .leaf e => (s, .found e)

/-- Translate an address for an engine. A miss waits for its walk among all others (R374): where the walk met a fault, that is what the
translation comes to. What must be waited for is left in `need`. -/
def State.xlateNow (s : State) (p : TlbPath) (acid va : Nat) (writes : Bool) : State × Xl :=
  match s.xlate p acid va writes with
  | (s, .miss) =>
    match (s.acc (.page acid (va / 4096))).bind (fun e => e.fault) with
    | some (t, l) => (s, .fault t l)
    | none => (s.wants .mtu acid (.page acid (va / 4096)), .miss)
  | (s, .ats e) => (s.needs (.ats e), .ats e)
  | r => r

/-- The contents of a device line as they stand. -/
def State.lineNow (s : State) (line : Nat) : Bytes :=
  let sl := s.slice (Target.dev (line * 64)).slice
  match sl.lookup line, sfind sl.victims line with
  | some k, _ => (sl.way k).data
  | none, some v => v.data
  | none, none => (s.backRead line).1

/-- The leaf that a walk would find as the tables stand. -/
def State.leafNow (s : State) (acid va : Nat) : Nat → Nat → Nat → Option TlbEnt
  | 0, _, _ => none
  | n + 1, level, table =>
    let a := table + 8 * ((va >>> (12 + 9 * level)) % 512)
    match s.ptDecode acid va level (leNat (bytesAt (s.lineNow (a / 64)) (a % 64) 8)) with
    | .table t => s.leafNow acid va n (level - 1) t
    | .leaf e => some e
    | _ => none

/-- What an address translates to as the caches and the tables stand. -/
def State.xlSeen (s : State) (p : TlbPath) (acid va : Nat) (writes : Bool) : Xl :=
  match (s.xlate p acid va writes).2 with
  | .miss =>
    match s.leafNow acid va 5 4 (s.ctxRoot acid) with
    | some e => s.xlCheck acid va writes e
    | none => .miss
  | r => r

/-- What an engine's access to virtual memory comes to. -/
inductive VErr where
  | none
  | fault (type level : Nat) (va : Nat)
  | hostLost
  deriving DecidableEq, Repr

/-- A memory-side refusal of a translated request is a fault of type OWNER (R375). -/
def vErrOf (e : MemErr) (va : Nat) : VErr :=
  match e with
  | .none => .none
  | .owner => .fault ftOwner 7 va
  | .badOp => .fault ftOwner 7 va
  | .hostLost => .hostLost
  | .late => .fault ftOwner 7 va

/-- Keep the page of the first access that must wait. -/
def State.markPage (s : State) (acid : Nat) (e : TlbEnt) : State :=
  if s.coh.need.isEmpty || s.coh.needPage.isSome then s
  else { s with coh := { s.coh with needPage := some (acid, e.page) } }

/-- Read `n` bytes at a virtual address for an engine (R365): translated page by page. -/
def State.vread (s : State) (who : Agent) (p : TlbPath) (acid va n : Nat) : State × Bytes × Bool × VErr :=
  (pieces va n 4096).foldl (fun (s, b, q, e) oc =>
    match e with
    | .none =>
      if s.stalled then (s, b ++ zeros oc.2, q, .none)
      else match s.xlateNow p acid (va + oc.1) false with
        | (s, .go t l) =>
          let (s, d, q', e) := s.readAt who acid t oc.2
          (s.markPage acid l, b ++ d, q || q', vErrOf e (va + oc.1))
        | (s, .fault t l) => (s, b, q, .fault t l (va + oc.1))
        | (s, _) => (s, b ++ zeros oc.2, q, .none)
    | _ => (s, b, q, e)) (s, [], false, VErr.none)

/-- Write bytes at a virtual address for an engine. -/
def State.vwrite (s : State) (who : Agent) (p : TlbPath) (acid va : Nat) (b : Bytes) (poison : Bool := false) : State × VErr :=
  (cutBytes (pieces va b.length 4096) b).foldl (fun (s, e) ob =>
    match e with
    | .none =>
      if s.stalled then (s, .none)
      else match s.xlateNow p acid (va + ob.1) true with
        | (s, .go t l) =>
          let (s, e) := s.writeAt who acid t ob.2 poison
          (s.markPage acid l, vErrOf e (va + ob.1))
        | (s, .fault t l) => (s, .fault t l (va + ob.1))
        | (s, _) => (s, .none)
    | _ => (s, e)) (s, VErr.none)

/-! ### Beginning the accesses that work waits for -/

/-- Ask the host's IOMMU for a leaf's IOVA, with the context's PASID (R371), once. -/
def State.atsAsk (s : State) (e : TlbEnt) : State :=
  let iova := e.tgt.addr
  if s.mtu.atsWait.any (fun w => w.acid = e.acid && w.ats.any (fun x => x.tgt = e.tgt)) then s
  else
    let p := match e.tgt with
      | .host p _ => p
      | _ => 0
    let w : Walk := { acid := e.acid, va := e.base, ats := some e }
    State.emit { s with mtu := { s.mtu with atsWait := s.mtu.atsWait ++ [w] } } (.atsReq p e.acid iova (s.ctxPasid e.acid))

/-- Wait for a walk of the page: misses on one ACID and page share a walk, of at most 1,024 that wait. -/
def State.joinWalk (s : State) (acid va : Nat) (w : Waiter) : State :=
  let w := { w with va := va }
  let same (x : Walk) : Bool := x.acid = acid && x.va / 4096 = va / 4096
  let add (x : Walk) : Walk := if same x && !x.waiters.contains w then { x with waiters := x.waiters ++ [w] } else x
  if s.mtu.walkers.any (fun p => same p.2) || s.mtu.waiting.any same then
    { s with mtu := { s.mtu with walkers := s.mtu.walkers.map (fun p => (p.1, add p.2)), waiting := s.mtu.waiting.map add } }
  else if s.mtu.waiting.length < 1024 then
    State.mtuCount { s with mtu := { s.mtu with
      waiting := s.mtu.waiting ++ [{ acid := acid, va := va, table := s.ctxRoot acid, level := 4, waiters := [w] }] } } 2
  else s

/-- Wait for the host's answer on a leaf (R371). -/
def State.joinAts (s : State) (e : TlbEnt) (w : Waiter) : State :=
  let s := s.atsAsk e
  let add (x : Walk) : Walk :=
    if x.acid = e.acid && x.ats.any (fun y => y.tgt = e.tgt) && !x.waiters.contains w then
      { x with waiters := x.waiters ++ [w] }
    else x
  { s with mtu := { s.mtu with atsWait := s.mtu.atsWait.map add } }

/-- A descriptor or record read of SQE is in the critical regime (Table 11.2). -/
def Agent.critical : Agent → Bool
  | .sqe _ => true
  | _ => false

/-- Begin an access of a job: a controller read, a request to a home slice or to the fabric, or a walk. One that finds no place waits. -/
def State.begin (s : State) (job : EngJob) (who : Agent) (acid : Nat) (k : EngKey) : State :=
  let (id, s') := s.fresh
  let e : EngAcc := { job := job, who := who, key := k, id := id }
  let req (t : Target) : MemReq := { id := id, src := who, acid := acid, tgt := t, crit := who.critical, issued := s.now }
  match k with
  | .line n => (s'.addAcc e).openRead n (.eng id)
  | .far n => if 64 ≤ s.atomicsAt (ctlOf (n * 64)) then s else (s'.addAcc e).openRead n (.eng id)
  | .get (.fab fa) n => ((s'.fabRequest (.mem id .read) 0 fa n [] false s.now).map (fun s => s.addAcc e)).getD s
  | .get t n => (s'.addAcc e).toSlice { req t with op := .read, len := n }
  | .put (.fab fa) b poison => ((s'.fabRequest (.mem id .write) 1 fa b.length b poison s.now).map (fun s => s.addAcc e)).getD s
  | .put t b poison => (s'.addAcc e).toSlice { req t with op := .write, len := b.length, data := b, poison := poison }
  | .page a pg =>
    let w : Waiter := { who := .eng id, va := 4096 * pg }
    let j := s'.joinWalk a (4096 * pg) w
    if j = s' then s else j.addAcc e

/-- Bring about what the accesses of a job wait for. -/
def State.askFor (s : State) (job : EngJob) (n : Need) : State :=
  match n with
  | .line l own => if s.lineBusy l then s else (s.prepare l own).1
  | .ats e => s.atsAsk e
  | .acc who acid k => if s.coh.eng.any (fun e => e.job = job && e.key = k) then s else s.begin job who acid k
  | .hold => s

/-- Jobs have ended: what they had under way is forgotten, and a request of theirs that has not been answered is discarded. -/
def State.endJobs (s : State) (p : EngJob → Bool) : State :=
  let ids := (s.coh.eng.filter (fun e => p e.job)).map (fun e => e.id)
  let s := { s with coh := { s.coh with eng := s.coh.eng.filter (fun e => !p e.job) } }
  if ids.isEmpty then s else s.discardReqs ids

/-- A job has ended. -/
def State.endJob (s : State) (job : EngJob) : State :=
  State.endJobs { s with coh := { s.coh with job := none } } (fun j => j = job)

/-- What a job must wait for is begun. Before a write that leaves the device is issued, the device lines that the work has written are
written, and stay so when the work runs again. -/
def State.waitFor (s s' : State) (job : EngJob) : State :=
  let out := s'.coh.need.any (fun n => match n with
    | .acc _ _ (.put _ _ _) => true
    | _ => false)
  let done := if out then s'.coh.eng.filter (fun e => !s.coh.eng.contains e) else []
  let s := State.done done { s with coh := { s.coh with job := some job } }
  s'.coh.need.foldl (fun s n => s.askFor job n) { s with coh := { s.coh with job := none } }

/-- Run a job's effect whole, unless an access of it must wait: then only what it waits for is begun, and the command has no other
effect yet (log 9). -/
def State.direct (s : State) (job : EngJob) (f : State → State) : State :=
  let s' := f { s with coh := { s.coh with job := some job } }
  if s'.coh.need.isEmpty then s'.endJob job else s.waitFor s' job

/-- The same for a batch: where an access waits, `mark` keeps the page it was translated under (R385). -/
def State.directFor (s : State) (job : EngJob) (mark : State → Nat × Page → State) (f : State → State) : State :=
  let s' := f { s with coh := { s.coh with job := some job } }
  if s'.coh.need.isEmpty then s'.endJob job
  else
    let s := s.waitFor s' job
    match s'.coh.needPage with
    | some p => mark s p
    | none => s

/-- Begin what a job's first accesses wait for, and nothing else: a read that is issued at once. -/
def State.prefetch (s : State) (job : EngJob) (f : State → State) : State :=
  let s' := f { s with coh := { s.coh with job := some job } }
  s.waitFor s' job

/-! ### Fault records and queues (R378 to R382) -/

/-- FQ_CFG of a port (R392). -/
def State.fqN (s : State) (p off n : Nat) : Nat := s.rdN 0x4031 p off n
def State.fqOn (s : State) (p : Nat) : Bool := (s.fqN p 9 1).testBit 0
def State.fqSize (s : State) (p : Nat) : Nat := 2 ^ s.fqN p 8 1
def State.fqHead (s : State) (p : Nat) : Nat := s.rdN 0x4032 p 0 4

/-- The 32 bytes of a record (Table 13.7). -/
def FaultRec.bytes (r : FaultRec) (phase : Bool) : Bytes :=
  let low := b2n phase + r.count % 65536 * 2 ^ 7 + 2 ^ 23 * (r.unit % 128) + 2 ^ 30 * (r.source % 16) +
    2 ^ 34 * (r.level % 8) + 2 ^ 37 * (r.access % 8) + 2 ^ 40 * (r.type % 16) + 2 ^ 44 * (r.acid % 4096) + 2 ^ 56 * (r.queue % 256)
  natLe low 8 ++ natLe r.reqId 8 ++ natLe r.gtc 8 ++ natLe r.va 8

def State.ctxFault (s : State) (acid : Nat) : CtxFault := sget {} s.mtu.ctx acid
def State.setCtxFault (s : State) (acid : Nat) (c : CtxFault) : State :=
  { s with mtu := { s.mtu with ctx := sset {} s.mtu.ctx acid c } }

/-- A record without room is dropped (FAULT_RECORD_DROP, R381). A HOT notice counts in NOTICES_DROPPED only. -/
def State.dropRecord (s : State) (p : Nat) (r : FaultRec) : State :=
  if r.type = ftHot then s.mtuCount 4
  else
    let c := s.ctxFault r.acid
    let s := s.setCtxFault r.acid { c with dropped := min (2 ^ 64 - 1) (c.dropped + r.count), overflow := true }
    let s := s.setFq p { s.fq p with overflow := true }
    let s := s.mtuCount 3
    let s := s.fire uMtu 0 0 { mUnit := uMtu, mNum := p, acid := r.acid, aspace := 1, addr := r.va, queue := r.queue }
    r.who.foldl (fun s w => s.decideRec w false) s

/-- Write to a host through the home slices without waiting for the writes, and without allocating: the numbers of the line writes. -/
def State.postWrites (s : State) (who : Agent) (acid : Nat) (t : Target) (b : Bytes) : State × List Nat :=
  (pieces t.addr b.length 64).foldl (fun (s, ids) oc =>
    let (id, s) := s.fresh
    (s.toSlice { id := id, src := who, acid := acid, op := .write, tgt := t.plus oc.1, len := oc.2, data := bytesAt b oc.1 oc.2,
                 issued := s.now }, ids ++ [id])) (s, [])

/-- Write one record at the queue's tail, or drop it (R379, R381): the numbers of the writes of the open batch follow. -/
def State.placeRecord (s : State) (p : Nat) (r : FaultRec) : State :=
  let q := s.fq p
  let n := s.fqSize p
  if !s.fqOn p || !s.hostOk p || (q.tail + n - s.fqHead p) % n = n - 1 then s.dropRecord p r
  else
    let (s, ids) := s.postWrites .mtu 0 (.host p (s.fqN p 0 8 + 32 * q.tail)) (r.bytes (q.pass % 2 = 0))
    let open_ := q.flying.getLastD []
    let q := { s.fq p with flying := q.flying.dropLast ++ [open_ ++ ids], tail := (q.tail + 1) % n, pass := if q.tail + 1 = n then q.pass + 1 else q.pass,
                           written := q.written + 1 }
    let s := s.setFq p q
    if r.type = ftHot then s
    else
      let c := s.ctxFault r.acid
      let s := s.setCtxFault r.acid { c with faults := min 0xFFFF_FFFF (c.faults + 1) }
      r.who.foldl (fun s w => s.decideRec w true) s

/-- Write a port's batch (R380): the records in the order they entered it. -/
def State.writeBatch (s : State) (p : Nat) : State :=
  let q := s.fq p
  if q.batch.isEmpty then s
  else
    let s := s.setFq p { q with batch := [], flying := q.flying ++ [[]] }
    let s := q.batch.foldl (fun s r => s.placeRecord p r) s
    let q := s.fq p
    s.setFq p { q with flying := q.flying.filter (fun l => !l.isEmpty) }

/-- The fields by which a record is coalesced (R380). -/
def FaultRec.sameAs (a b : FaultRec) : Bool :=
  a.acid = b.acid && a.type = b.type && a.access = b.access && a.source = b.source && a.va / 4096 = b.va / 4096

/-- The fault was met by a table read of a walk: refused at the memory side, or poisoned. -/
def FaultRec.ofWalk (r : FaultRec) : Bool := r.type = ftWalkPoison || (r.type = ftOwner && r.level ≠ 7)

/-- A record enters its port's open batch, or is coalesced into an equal one (FAULT_RECORD, R378, R380). -/
def State.record (s : State) (r : FaultRec) : State :=
  let r := if r.ofWalk then { r with access := Access.walk.code } else r
  let p := s.ctxPort r.acid
  let s := if 32 ≤ (s.fq p).batch.length then s.writeBatch p else s
  let q := s.fq p
  match if r.type = ftHot then none else q.batch.findIdx? (fun x => x.sameAs r) with
  | some k =>
    let x := q.batch.getD k {}
    let y : FaultRec := { x with count := min 65535 (x.count + 1), who := x.who ++ r.who }
    (s.setFq p { q with batch := q.batch.set k y }).mtuCount 5
  | none =>
    s.setFq p { q with batch := q.batch ++ [r], batchAt := if q.batch.isEmpty then s.now else q.batchAt }

/-- The REQ_ID and queue of a request's descriptor (Table 9.2). -/
def State.reqTag (s : State) (r : Nat) : Nat × Nat :=
  match sfind s.sqe.reqs r with
  | some q => (le q.desc 0 8, q.q)
  | none => (0, 0xFF)

/-- A translation fault ends a task (R377): its record decides between XLATE_FAULT and FAULT_UNRECORDED. -/
def State.taskFault (s : State) (r tile : Nat) (rec : FaultRec) (pos : Option (Nat × Nat × Nat) := none) : State :=
  let k := match sfind s.sqe.reqs r with
    | some q => if q.live then some q.causes.length else none
    | none => none
  let (rid, qn) := s.reqTag r
  let s := match k with
    | some _ => s.addCause r { gtc := s.now, status := stXlateFault, tile := tile, open_ := true } pos
    | none => s
  s.record { rec with gtc := s.now, reqId := rid, queue := qn, count := 1,
                      who := match k with
                             | some k => [.task r k]
                             | none => [] }

/-! ### Invalidation (R383 to R387) -/

/-- An entry's page overlaps the range, or ALL or GLOBAL takes it. -/
def Inval.takes (v : Inval) (acid base size : Nat) : Bool :=
  v.global || (acid = v.acid && (v.all || (decide (base < v.hi) && decide (v.lo < base + size))))

/-- A walk-cache entry matches when its whole span lies within the range. -/
def Inval.takesWalk (v : Inval) (w : WalkEnt) : Bool :=
  let span := 2 ^ (12 + 9 * w.level)
  v.global || (w.acid = v.acid && (v.all || (decide (v.lo ≤ w.base) && decide (w.base + span ≤ v.hi))))

/-- A request travels under a fabric tag. -/
def State.onFabric (s : State) (id : Nat) : Bool :=
  s.fab.tags.any (fun p => match p.2 with
                           | .mem k _ => k = id
                           | _ => false)

/-- A store that is accepted has not yet been sent: it waits for its line's fill at the slice, or its acknowledgement from the fabric
has not come (R385). -/
def State.unsent (s : State) (id : Nat) : Bool :=
  s.unperformed id && (s.onFabric id || s.coh.slices.any (fun i => i.2.misses.any (fun m => m.2.waiters.any (fun r => r.id = id))))

/-- The transfers on the network whose translation a predicate on the ACID and the page takes. -/
def State.matching (s : State) (p : Nat → Page → Bool) : List XferRef :=
  let tiles := s.tiles.tile.flatMap (fun t =>
    (t.2.xfers.filter (fun x => x.2.phase = 2 && x.2.pages.any (fun g => p (s.req x.2.req).acid g))).map
      (fun x => XferRef.tile t.1 x.1))
  let stores := s.tiles.tile.flatMap (fun t =>
    (t.2.tracker.filter (fun x => s.unsent x.id && x.pages.any (fun g => p (s.req x.req).acid g))).map (fun x => XferRef.store t.1 x.id))
  let gpes := s.gpes.flatMap (fun g =>
    (g.2.tags.filter (fun x => x.2.id.isSome && p x.2.acid x.2.page)).map
      (fun x => XferRef.gpe g.1 x.1))
  let hses := s.hses.flatMap (fun c =>
    (c.2.tags.filter (fun x => x.2.id.isSome && p x.2.acid x.2.page)).map (fun x => XferRef.hse c.1 x.1))
  let held (m : SMap RingSt) (f : Nat → XferRef) : List XferRef :=
    (m.filter (fun r => match r.2.batch.bind (fun b => b.held) with
                        | some (_, a, g) => p a g
                        | none => false)).map (fun r => f r.1)
  tiles ++ stores ++ gpes ++ hses ++ held s.epm.rings .epm ++ held s.ssu.rings .ssu

/-- Carry out an invalidation (R384): matching entries leave every cache, walks restart from ROOT, and the transfers in
flight under them are what it waits for. -/
def State.invalidate (s : State) (v : Inval) : State × Inval :=
  let waits := s.matching (fun a g => v.takes a g.base g.size)
  let s := s.tlbDrop (fun e => v.takes e.acid e.base e.size)
  let again (w : Walk) : Walk :=
    if v.takes w.acid w.va 1 then { w with level := 4, table := s.ctxRoot w.acid, ats := none } else w
  let back := s.mtu.atsWait.filter (fun w => v.takes w.acid w.va 1 && !w.waiters.isEmpty)
  let s := { s with mtu := { s.mtu with
    walkC := s.mtu.walkC.filter (fun w => !v.takesWalk w),
    walkers := s.mtu.walkers.map (fun kv => (kv.1, again kv.2)),
    waiting := s.mtu.waiting ++ back.map again,
    atsWait := s.mtu.atsWait.filter (fun w => !v.takes w.acid w.va 1) } }
  (s, { v with running := true, since := s.now, waits := waits, settled := 0, cancelled := 0 })

/-- A transfer is settled, or cancelled, for every invalidation that waits for it (R385, R386). An ATS invalidation whose
last one it was is completed (R387). -/
def State.settle (s : State) (x : XferRef) (cancel : Bool) : State :=
  let one (v : Inval) : Inval :=
    if v.running && v.waits.contains x then
      { v with waits := v.waits.filter (fun y => y ≠ x),
               settled := v.settled + b2n (!cancel), cancelled := v.cancelled + b2n cancel }
    else v
  let ats := s.mtu.atsInv.map (fun pv => (pv.1, one pv.2))
  let s := { s with mtu := { s.mtu with inv := s.mtu.inv.map (fun kv => (kv.1, one kv.2)),
                                        atsInv := ats.filter (fun pv => !pv.2.waits.isEmpty) } }
  (ats.filter (fun pv => pv.2.waits.isEmpty)).foldl (fun s pv => s.emit (.atsDone pv.1)) s

/-- A transfer's tag completes while parts of it are still under way: they take its place in what an invalidation waits for. -/
def State.handOver (s : State) (x : XferRef) (l : List XferRef) : State :=
  if l.isEmpty then s.settle x false
  else
    let one (v : Inval) : Inval :=
      if v.running && v.waits.contains x then { v with waits := v.waits.filter (fun y => y ≠ x) ++ l } else v
    { s with mtu := { s.mtu with inv := s.mtu.inv.map (fun kv => (kv.1, one kv.2)),
                                 atsInv := s.mtu.atsInv.map (fun pv => (pv.1, one pv.2)) } }

/-- Stores that an invalidation waits for and that have been sent or performed are settled (R385). -/
def State.settleStores (s : State) : State :=
  let waits := (s.mtu.inv.filter (fun kv => kv.2.running)).flatMap (fun kv => kv.2.waits) ++ s.mtu.atsInv.flatMap (fun pv => pv.2.waits)
  waits.foldl (fun s x => match x with
    | .store _ id => if s.unsent id then s else s.settle x false
    | _ => s) s

/-- An invalidation holds the transfer's translation (R223, R385). -/
def State.heldByInv (s : State) (x : XferRef) : Bool :=
  s.mtu.inv.any (fun kv => kv.2.running && kv.2.waits.contains x) || s.mtu.atsInv.any (fun pv => pv.2.waits.contains x)

/-- Drop every ATS result of a port at once (R387). -/
def State.dropAts (s : State) (p : Nat) : State :=
  s.tlbDrop (fun e => e.ats.isSome && e.tgt.onHost p)

/-! ### Access counters (R389) -/

/-- MIG_CFG (R392). -/
def State.migBase (s : State) : Nat := s.rdN 0x4000 3 0 8
def State.migEntries (s : State) : Nat :=
  let n := s.rdN 0x4000 3 8 1
  if n = 0 then 0 else 2 ^ n
def State.migThreshold (s : State) : Nat := s.rdN 0x4000 3 10 2

/-- The kinds that COUNT_KINDS selects. -/
def State.migKind (s : State) (t : Target) : Bool :=
  let k := s.rdN 0x4000 3 9 1
  match t with
  | .dev a => inShelf2 a && k.testBit 0
  | .host _ _ => k.testBit 1
  | .fab _ => k.testBit 2

/-- The counter table's memory, through its home slices (R18) and beside the owner check (R392: its granules stay UNOWNED). -/
def State.tabRead (s : State) (a n : Nat) : Bytes := bytesAt (s.lineNow (a / 64)) (a % 64) n
def State.tabWrite (s : State) (a : Nat) (b : Bytes) : State :=
  let line := a / 64
  let i := (Target.dev a).slice
  let sl := s.slice i
  match sl.lookup line, sfind sl.victims line with
  | some k, _ => s.setSlice i (sl.setWay k { sl.way k with st := .ml, data := patch (sl.way k).data (a % 64) b })
  | none, some v => s.setSlice i { sl with victims := sput sl.victims line { v with data := patch v.data (a % 64) b } }
  | none, none => s.backMerge line (a % 64) b false

/-- One 64-byte access is reported to the access counters; a count that reaches THRESHOLD writes one HOT notice
(HOT_NOTICE). -/
def State.countAccess (s : State) (acid va : Nat) (t : Target) : State :=
  let n := s.migEntries
  if n = 0 || !s.counterMode acid || !s.migKind t then s
  else
    let region := va >>> 16
    let a := s.migBase + 16 * (Config.counterIndex acid region n % n)
    let e := s.tabRead a 16
    let mine := bit e 96 && le e 0 8 = region && le e 8 2 = acid
    let cnt := le e 10 2
    let put (region acid cnt : Nat) (notified : Bool) : Bytes :=
      natLe region 8 ++ natLe acid 2 ++ natLe cnt 2 ++ natLe (1 + 2 * b2n notified) 4
    if mine then
      let cnt := min 65535 (cnt + 1)
      let note := bit e 97
      let hot := decide (s.migThreshold ≤ cnt) && !note
      let s := s.tabWrite a (put region acid cnt (note || hot))
      if hot then
        s.record { va := 65536 * region, gtc := s.now, acid := acid, type := ftHot, source := 7, count := cnt }
      else s
    else if bit e 96 && decide (1 < cnt) then
      s.tabWrite a (put (le e 0 8) (le e 8 2) (cnt - 1) (bit e 97))
    else s.tabWrite a (put region acid 1 false)

/-- One SWEEP slot (R389): it halves the counts and clears the notified marks of one line of the table. -/
def State.sweepStep (s : State) : State :=
  let n := s.migEntries
  if s.mtu.sweeps = 0 || n = 0 then s
  else
    let k := s.mtu.sweepPos
    let s := [0, 1, 2, 3].foldl (fun s i =>
      let a := s.migBase + 16 * (k + i)
      let e := s.tabRead a 16
      s.tabWrite a (patch (patch e 10 (natLe (le e 10 2 / 2) 2)) 12 (natLe (le e 12 1 % 2) 1))) s
    if k + 4 < n then { s with mtu := { s.mtu with sweepPos := k + 4 } }
    else { s with mtu := { s.mtu with sweepPos := 0, sweeps := s.mtu.sweeps - 1 } }

/-! ### The MTU's unit reset (Table 17.2) -/

/-- TLBs and walk cache are cleared and walks restart from ROOT. -/
def State.mtuReset (s : State) : State :=
  { s with
    mtu := { s.mtu with micro := [], cab := [], ctl := [], walkC := [],
                        walkers := s.mtu.walkers.map (fun kv => (kv.1, { kv.2 with level := 4, table := s.ctxRoot kv.2.acid })) },
    faults := { s.faults with resets := s.faults.resets ++ [uMtu * 256] } }

end Sys2Proof.Machine
end

