-- ==== Sys2Proof/Machine/Admit.lean ====
section
/-! DEFINITION. Program images as ADM and the tiles read them (R238 to R240), and the response-time test (R279 to R286) in IEEE
binary64, round to nearest even, in the order in which R280 writes it. -/
namespace Sys2Proof.Machine

/-! ### Program and segment images (R238 to R240) -/

/-- A field of the demand record (Table 8.2). -/
def demand (img : Bytes) (lo w : Nat) : Nat := fld img (512 + lo) w

def imgNseg (img : Bytes) : Nat := fld img 416 16
def imgFrameWords (img : Bytes) : Nat := fld img 240 16
def imgFrames (img : Bytes) : Nat := fld img 232 8
def imgPlacement (img : Bytes) : Nat := fld img 212 12
/-- ENTRY[n]. -/
def imgEntry (img : Bytes) (n : Nat) : Nat := fld img (256 + 16 * n) 16
def imgTrapSeg (img : Bytes) : Nat := fld img 432 16

/-- The lanes that a program uses. -/
def imgLanes (img : Bytes) : List Nat := (List.range 8).filter (fun n => imgEntry img n ≠ 0xFFFF)

/-- Segment table entry k: offset, length, SEG_ID. -/
def segRow (img : Bytes) (k : Nat) : Nat × Nat × Nat :=
  (le img (128 + 16 * k) 8, le img (128 + 16 * k + 8) 4, le img (128 + 16 * k + 12) 2)

/-- The bytes of segment image k. -/
def segBytes (img : Bytes) (k : Nat) : Bytes :=
  let r := segRow img k
  (img.drop r.1).take r.2.1

/-- The image of the segment with a SEG_ID. -/
def segFind (img : Bytes) (id : Nat) : Option Bytes :=
  ((List.range (imgNseg img)).find? (fun k => (segRow img k).2.2 = id)).map (segBytes img)

/-- Header fields of a segment image (Table 8.3). -/
def segVcount (g : Bytes) : Nat := fld g 416 32
def segMaxRuns (g : Bytes) : Nat := fld g 384 32
def segLongest (g : Bytes) : Nat := fld g 352 32
def segExact (g : Bytes) : Nat := fld g 320 32
def segGate (g : Bytes) : Nat := fld g 280 8
def segAllot (g : Bytes) : Nat := fld g 272 8 + 1
def segNbuf (g : Bytes) : Nat := fld g 264 8
def segNdesc (g : Bytes) : Nat := fld g 255 9
def segId (g : Bytes) : Nat := fld g 228 12
def segLane (g : Bytes) : Nat := fld g 216 3
def segTrap (g : Bytes) : Bool := bit g 209
def segStrict (g : Bytes) : Bool := bit g 208
def segBundles (g : Bytes) : Nat := fld g 176 32

/-- Declaration k: FIRST_WORD, WORDS, KIND. -/
def segBuf (g : Bytes) (k : Nat) : Nat × Nat × Nat :=
  let b := bytesAt g (64 + 8 * k) 8
  (fld b 48 16, fld b 32 16, fld b 28 4)

/-- Descriptor k. -/
def segDesc (g : Bytes) (k : Nat) : Bytes := bytesAt g (64 + 8 * segNbuf g + 32 * k) 32

/-- Bundle k. -/
def segBundle (g : Bytes) (k : Nat) : Bytes := bytesAt g (64 + 8 * segNbuf g + 32 * segNdesc g + 32 * k) 32

/-! ### binary64 on values that are not negative -/

/-- m · 2^e. -/
structure Dbl where
  m : Nat := 0
  e : Int := 0
  deriving DecidableEq, Repr

/-- Round a number of any length to 53 bits, nearest even. -/
def dblRound (m : Nat) (e : Int) : Dbl :=
  let n := Nat.log2 m + 1
  if n ≤ 53 then ⟨m, e⟩
  else
    let k := n - 53
    let q := m >>> k
    let r := m % 2 ^ k
    let half := 2 ^ (k - 1)
    let q := if half < r || (r = half && q % 2 = 1) then q + 1 else q
    ⟨q, e + k⟩

def Dbl.ofNat (n : Nat) : Dbl := dblRound n 0

/-- a · 2^(a.e - e), for an e not above the exponent. -/
def Dbl.scaled (a : Dbl) (e : Int) : Nat := a.m * 2 ^ (a.e - e).toNat

def Dbl.add (a b : Dbl) : Dbl :=
  let e := min a.e b.e
  dblRound (a.scaled e + b.scaled e) e

/-- The difference of two values of which the first is not below the second. -/
def Dbl.sub (a b : Dbl) : Dbl :=
  let e := min a.e b.e
  dblRound (a.scaled e - b.scaled e) e

def Dbl.mul (a b : Dbl) : Dbl := dblRound (a.m * b.m) (a.e + b.e)

/-- The quotient; the last bit kept before rounding is sticky. -/
def Dbl.div (a b : Dbl) : Dbl :=
  let n := 2 ^ 120 * a.m
  dblRound (2 * (n / b.m) + b2n (n % b.m ≠ 0)) (a.e - b.e - 121)

def Dbl.lt (a b : Dbl) : Bool :=
  let e := min a.e b.e
  decide (a.scaled e < b.scaled e)

def Dbl.max (a b : Dbl) : Dbl := if a.lt b then b else a

/-- Sum in the order of the list. -/
def Dbl.sum (l : List Dbl) : Dbl := l.foldl Dbl.add ⟨0, 0⟩

/-- The least integer not below a value times k (R281: ceilings are exact). -/
def Dbl.ceil (a : Dbl) (k : Nat := 1) : Nat :=
  if 0 ≤ a.e then a.m * k * 2 ^ a.e.toNat else ceilDiv (a.m * k) (2 ^ (-a.e).toNat)

/-- The binary64 value nearest n / d. -/
def Dbl.rat (n d : Nat) : Dbl := Dbl.div ⟨n, 0⟩ ⟨d, 0⟩

/-! ### What the test counts -/

/-- A field of CLASS_CFG (Table 9.5). -/
def State.clsN (s : State) (c lo w : Nat) : Nat := fld (s.rd 0x7801 c) lo w
def State.clsOn (s : State) (c : Nat) : Bool := s.clsN c 320 1 = 1
def State.clsProg (s : State) (c : Nat) : Nat := s.clsN c 338 6
def State.clsPlacement (s : State) (c : Nat) : Nat := s.clsN c 356 12
def State.clsPriority (s : State) (c : Nat) : Nat := s.clsN c 332 6
def State.clsAcid (s : State) (c : Nat) : Nat := s.clsN c 344 12
def State.clsBurst (s : State) (c : Nat) : Nat := s.clsN c 400 16
def State.clsDeadline (s : State) (c : Nat) : Nat := s.clsN c 368 32

/-- The rate in force: 0 for a class that a cap dropped (R284). -/
def State.clsRate (s : State) (c : Nat) : Nat := if (s.cls c).dropped then 0 else s.clsN c 416 32

/-- CAB_STATE SERVING (R259). -/
def State.serving (s : State) (k : Nat) : Bool :=
  let c := s.cab k
  !c.draining && !c.locked && !c.out

/-- A counted class of a test: a class, or its old class under R286. -/
structure AdmRec where
  cls    : Nat := 0
  old    : Bool := false
  rho    : Nat := 0
  b      : Nat := 0
  pri    : Nat := 0
  cabs   : List Nat := []
  n      : Nat := 0
  e      : Dbl := {}
  beta   : Dbl := {}
  d1     : Dbl := {}
  d2     : Dbl := {}
  hport  : Nat := 0
  dh     : Nat := 0
  sw     : Nat := 0
  g      : Nat := 0
  hse    : Nat := 0
  f      : Nat := 0
  hops   : Nat := 0
  pd     : Nat := 0
  fports : Nat := 0
  frames : Nat := 0
  lr     : Nat := 0
  dl     : Nat := 0
  deriving DecidableEq, Repr

/-- The terms of a class under a program (Table 9.6). -/
def State.admRec (s : State) (c : Nat) (old : Bool) (img : Bytes) (hz : Nat) (absent : Option Nat) : AdmRec :=
  let cabs := (List.range 12).filter (fun k => (s.clsPlacement c).testBit k && s.serving k && some k ≠ absent)
  let n := cabs.length
  let b := s.clsBurst c
  let s2 := s.clsN c 325 7
  let g1 := demand img 416 32
  let g3 := demand img 384 32
  let hse := demand img 320 32
  let l := g1 + hse + demand img 288 32
  let sw := demand img 456 24
  { cls := c, old := old, rho := s.clsRate c, b := b, pri := s.clsPriority c, cabs := cabs, n := n,
    e := (Dbl.ofNat (demand img 480 32 + 48 * sw)).div (Dbl.ofNat hz),
    beta := (Dbl.ofNat (b + n - 1)).div (Dbl.ofNat n),
    d1 := (Dbl.ofNat (l * (100 - s2))).div (Dbl.ofNat 100),
    d2 := (Dbl.ofNat (l * s2)).div (Dbl.ofNat 100),
    hport := s.clsN c 321 1, dh := g3 + demand img 256 32, sw := sw, g := g1 + g3, hse := hse,
    f := demand img 224 32 + 257 * demand img 352 32, hops := demand img 448 8, pd := demand img 352 32,
    fports := s.clsN c 322 3, frames := imgFrames img,
    lr := ((List.range (imgNseg img)).map (fun k => segLongest (segBytes img k))).foldl max 0,
    dl := s.clsDeadline c }

/-- The programs other than its own under which a class still has a request that has not ended (R286). -/
def State.oldProgs (s : State) (c : Nat) : List Nat :=
  (List.range 64).filter (fun p => p ≠ s.clsProg c &&
    s.sqe.reqs.any (fun r => r.2.admitted && r.2.cls = c && r.2.prog = p))

/-- A verdict: the class bounds and PD_IN_BOUND, or the term and the class that LAST_REFUSAL names. -/
inductive Verdict where
  | pass (bounds : List (Nat × Bound)) (pdIn : Nat)
  | refuse (term cls : Nat)
  deriving DecidableEq, Repr

/-- The counted classes in increasing number, each before its old classes; or the class without a program. -/
def State.admRecs (s : State) (hz : Nat) (absent : Option Nat) (out : List Nat) : List AdmRec × Option Nat :=
  (List.range 64).foldl (fun (l, bad) c =>
    if !s.clsOn c || s.clsRate c = 0 || out.contains c then (l, bad)
    else
      (s.clsProg c :: s.oldProgs c).foldl (fun (l, bad) p =>
        let g := s.prog p
        if g.state = 2 then (l ++ [s.admRec c (p ≠ s.clsProg c) g.image hz absent], bad)
        else (l, bad <|> some c)) (l, bad)) ([], none)

/-- Fabric ports that are UP. -/
def State.fabPortsUp (s : State) : Nat := ((List.range 6).filter (fun p => (s.fport p).state = 3)).length

/-- c_F of a class in lines/s. -/
def State.cFab (s : State) (i : AdmRec) : Dbl := (Dbl.ofNat (min i.fports s.fabPortsUp)).mul (Dbl.ofNat 3100000000)

/-- Σ ρ_j · x_j / n_j over the classes on a cabinet. -/
def loadOn (on : List AdmRec) (x : AdmRec → Dbl) : Dbl :=
  Dbl.sum (on.map (fun j => ((Dbl.ofNat j.rho).mul (x j)).div (Dbl.ofNat j.n)))

/-- The only class of a list of counted classes, else 0xFFFF (R281). -/
def soleClass (l : List AdmRec) : Nat :=
  match (l.map (fun j => j.cls)).eraseDups with
  | [c] => c
  | _ => 0xFFFF

/-- The admission test of R280 over the configuration that a state holds, with f of an operating point, a cabinet absent
(R285) and classes dropped (R284). -/
def State.admTest (s : State) (point : Nat) (absent : Option Nat) (out : List Nat) : Verdict :=
  let hz := pointHz point
  let (recs, bad) := s.admRecs hz absent out
  let cfg := s.rd 0x7800 0
  let us := 1000000
  let wHome := Dbl.rat (le cfg 0 4) us
  let iRho := 1000000 * le cfg 4 4
  let iB := le cfg 8 4
  let iS := le cfg 12 1
  let share (x p : Nat) : Dbl := (Dbl.ofNat (x * p)).div (Dbl.ofNat 100)
  let h := Dbl.rat (s.rdN 0x8000 1 0 4) 1000000000
  let c1 := Dbl.ofNat 130000000000
  let c2 := Dbl.ofNat 10000000000
  let cH := Dbl.ofNat 1600000000
  let rhoOf (j : AdmRec) (x : Dbl) : Dbl := (Dbl.ofNat j.rho).mul x
  let bOf (j : AdmRec) (x : Dbl) : Dbl := (Dbl.ofNat j.b).mul x
  let on (k : Nat) := recs.filter (fun j => j.cabs.contains k)
  let onFab := recs.filter (fun j => j.f ≠ 0)
  let onHost (x : Nat) := recs.filter (fun j => j.hport = x && j.dh ≠ 0)
  let onShelf (d : AdmRec → Dbl) := recs.filter (fun j => (d j).m ≠ 0)
  let fabLoad := Dbl.sum (onFab.map (fun j => rhoOf j (Dbl.ofNat j.f)))
  let noCab := recs.findSome? (fun j => if j.n = 0 then some (0x000B, j.cls) else none)
  let cabs := (List.range 12).findSome? (fun k =>
    if !(loadOn (on k) (fun j => j.e)).lt (Dbl.ofNat 1) then some (0x0002, 0xFFFF)
    else if (Dbl.ofNat 14175000000).lt (loadOn (on k) (fun j => Dbl.ofNat j.g)) then some (0x0003, 0xFFFF)
    else if (Dbl.ofNat 7200000000).lt (loadOn (on k) (fun j => Dbl.ofNat j.hse)) then some (0x0004, 0xFFFF)
    else none)
  let shelf (d : AdmRec → Dbl) (p : Nat) (c : Dbl) : Option (Nat × Nat) :=
    let load := (Dbl.sum ((onShelf d).map (fun j => rhoOf j (d j)))).add (share iRho p)
    if c.lt load then some (0x0005, if iRho * p = 0 then soleClass (onShelf d) else 0xFFFF) else none
  let hosts := [0, 1].findSome? (fun x =>
    if cH.lt (Dbl.sum ((onHost x).map (fun j => rhoOf j (Dbl.ofNat j.dh)))) then some (0x0006, soleClass (onHost x))
    else none)
  let fab := recs.findSome? (fun i => if (s.cFab i).lt fabLoad then some (0x0007, i.cls) else none)
  let bound (i : AdmRec) : Bound × Option (Nat × Nat) :=
    let tCpu := (i.cabs.map (fun k =>
      let hep := (on k).filter (fun j => decide (i.pri ≤ j.pri))
      let low := (on k).filter (fun j => decide (j.pri < i.pri))
      let b := if low.isEmpty then (⟨0, 0⟩ : Dbl)
        else (Dbl.ofNat (24 + (low.map (fun j => j.lr)).foldl max 0)).div (Dbl.ofNat hz)
      let num := b.add (Dbl.sum (hep.map (fun j => j.beta.mul j.e)))
      num.div ((Dbl.ofNat 1).sub (loadOn hep (fun j => j.e))))).foldl Dbl.max ⟨0, 0⟩
    let shelfT (d : AdmRec → Dbl) (p : Nat) (lam c : Dbl) : List Dbl :=
      if (d i).m = 0 then []
      else [lam.add (((share iB p).add (Dbl.sum ((onShelf d).map (fun j => bOf j (d j))))).div c)]
    let hostT : List Dbl :=
      if i.dh = 0 then []
      else [(Dbl.rat 15 10000000).add
        ((Dbl.sum ((onHost i.hport).map (fun j => bOf j (Dbl.ofNat j.dh)))).div cH)]
    let tMem := Dbl.sum (shelfT (fun j => j.d1) (100 - iS) (Dbl.rat 7 10000000) c1 ++
      shelfT (fun j => j.d2) iS (Dbl.rat 9 10000000) c2 ++ hostT)
    let tFab := if i.hops = 0 && i.f = 0 then (⟨0, 0⟩ : Dbl)
      else
        let a := ((Dbl.ofNat (2 * i.hops)).mul h).add (if i.pd ≠ 0 then wHome else ⟨0, 0⟩)
        if onFab.isEmpty then a
        else a.add ((Dbl.sum (onFab.map (fun j => bOf j (Dbl.ofNat j.f)))).div (s.cFab i))
    let tBg := (Dbl.rat 2 us).mul (Dbl.ofNat i.sw)
    let r := ((tCpu.add tMem).add tFab).add tBg
    let frames := (i.beta.add ((rhoOf i r).div (Dbl.ofNat i.n))).ceil
    let ns := 1000000000
    ({ r := r.ceil ns, cpu := tCpu.ceil ns, mem := tMem.ceil ns, fab := tFab.ceil ns, bg := tBg.ceil ns,
       frames := frames, at_ := s.now },
     if (Dbl.rat i.dl us).lt r then some (0x0008, i.cls)
     else if i.frames < frames then some (0x0009, i.cls) else none)
  let verdicts := recs.map (fun i => (i, bound i))
  let refusal := (bad.map (fun c => (0x0001, c))) <|> noCab <|> cabs <|>
    shelf (fun j => j.d1) (100 - iS) c1 <|> shelf (fun j => j.d2) iS c2 <|> hosts <|> fab <|>
    verdicts.findSome? (fun v => v.2.2)
  match refusal with
  | some (t, c) => .refuse t c
  | none =>
    let pdIn := ((Dbl.rat 7 10000000).add (((Dbl.ofNat iB).add
      (Dbl.sum ((onShelf (fun j => j.d1)).map (fun j => bOf j j.d1)))).div c1)).add (Dbl.rat 2 us)
    .pass ((verdicts.filter (fun v => !v.1.old)).map (fun v => (v.1.cls, v.2.1))) (pdIn.ceil us)

/-- The counted classes in the order in which FORCE drops them (R284): increasing PRIORITY, then decreasing number. -/
def State.dropOrder (s : State) : List Nat :=
  (List.range 64).flatMap (fun pri =>
    ((List.range 64).filter (fun c => s.clsOn c && s.clsRate c ≠ 0 && s.clsPriority c = pri)).reverse)

/-- The test under FORCE (R284): classes are dropped in order until it passes. -/
def State.admForced (s : State) (point : Nat) : List Nat → List Nat → List Nat × Verdict
  | out, [] => (out, s.admTest point none out)
  | out, c :: rest =>
    match s.admTest point none out with
    | .pass b p => (out, .pass b p)
    | .refuse _ _ => s.admForced point (out ++ [c]) rest

/-- The figures of a passing test come into force (R281): CLASS_BOUND of every class, zero for one that is not counted, and
PD_IN_BOUND. -/
def State.setBounds (s : State) (bounds : List (Nat × Bound)) (pdIn : Nat) : State :=
  let s := (List.range 64).foldl (fun s c =>
    s.setCls c { s.cls c with bound := ((bounds.find? (fun b => b.1 = c)).map (fun b => b.2)).getD {} }) s
  { s with sqe := { s.sqe with inb := { s.sqe.inb with bound := pdIn } } }

end Sys2Proof.Machine
end

