-- ==== Sys2Proof/Machine/Sqe.lean ====
section
/-! DEFINITION. Service queues, policing, and a request from admission to its end (chapter 9; R23 to R26, R246, R249). -/
namespace Sys2Proof.Machine

/-! ### Queues (R260 to R262) -/

/-- A field of SQ_CFG (Table 9.1). -/
def State.sqN (s : State) (q lo w : Nat) : Nat := fld (s.rd 0x2801 q) lo w
def State.sqBase (s : State) (q : Nat) : Nat := s.sqN q 199 57
def State.cqBase (s : State) (q : Nat) : Nat := s.sqN q 135 57
def State.sqAcid (s : State) (q : Nat) : Nat := s.sqN q 116 12
def State.sqClass (s : State) (q : Nat) : Nat := s.sqN q 110 6
def State.sqSize (s : State) (q : Nat) : Nat := 2 ^ s.sqN q 105 5
def State.sqVector (s : State) (q : Nat) : Nat := s.sqN q 88 8
def State.sqErrVector (s : State) (q : Nat) : Nat := s.sqN q 80 8
def State.sqIrqEn (s : State) (q : Nat) : Bool := s.sqN q 1 1 = 1

/-- QUEUE_COUNTS: 0 FETCHED, 1 MALFORMED, 2 BAD_DOORBELL, 3 STALLS. -/
def State.queueCount (s : State) (q k : Nat) : State := s.bump 0x2803 q k

/-- CLASS_COUNTS: 0 ADMITTED, 1 SHED, 2 COMPLETED_OK, 3 COMPLETED_ERR, 4 LATE, 5 DISCARDED. -/
def State.classCount (s : State) (c k : Nat) : State := s.bump 0x7802 c k

/-- CAB_COUNTS: 0 DISPATCHES, 1 SEG_STARTS, 2 PICKS, 3 OVER_DEMAND, 4 BAD_SEGMENT, 5 TASK_ENDS. -/
def State.cabCount (s : State) (c k : Nat) : State := s.bump 0x5003 c k

/-- A doorbell's form is good (R262, R401): 32 bits wide, no reserved bit, the queue enabled, the index below its size. -/
def State.bellOk (s : State) (q width v : Nat) : Bool :=
  width = 32 && (s.queue q).enabled && decide (v < 2 ^ 16) && decide (v < s.sqSize q)

/-- SQ_TAIL_DOORBELL (R262): the descriptors up to the index before the tail become eligible for fetch. -/
def execSqTailDoorbell (port : Fin 2) (queue : Fin 128) (width : Nat) (value : BitVec 32) (s : State) : Answer :=
  let s := s.wakeUp
  .next (
    if s.barHeld port then s else
    let q := 128 * port.val + queue.val
    let v := value.toNat
    if !s.bellOk q width v then s.queueCount q 2
    else
      let x := s.queue q
      let n := s.sqSize q
      let last := x.pos + (v + n - x.pos % n) % n
      s.setQueue q { x with tail := v, avail := max x.avail last })

/-- CQ_HEAD_DOORBELL (R262): entries are released; a head that passes the completion index is ignored. -/
def execCqHeadDoorbell (port : Fin 2) (queue : Fin 128) (width : Nat) (value : BitVec 32) (s : State) : Answer :=
  let s := s.wakeUp
  .next (
    if s.barHeld port then s else
    let q := 128 * port.val + queue.val
    let v := value.toNat
    let x := s.queue q
    let n := s.sqSize q
    let head := x.cqHead + (v + n - x.cqHead % n) % n
    if !s.bellOk q width v || decide (x.cqPos < head) then s.queueCount q 2
    else s.setQueue q { x with cqHead := head })

/-! ### Fetching descriptors (R264 to R267) -/

/-- SQE holds the fetches and completion writes of a port whose function is in D3hot or on its way there (R470). -/
def State.fetchHeld (s : State) (p : Nat) : Bool := s.hostHeld p || (s.port p).d3req

/-- Reads in flight over all queues. -/
def State.readsInFlight (s : State) : Nat := (s.sqe.queues.map (fun p => p.2.reads.length)).foldl (· + ·) 0

/-- Read the descriptor at a stream position. -/
def State.descLoad (s : State) (q p : Nat) : State × Bytes × Bool × VErr :=
  s.vread (.sqe q) .ctl (s.sqAcid q) (s.sqBase q + 64 * (p % s.sqSize q)) 64

/-- Issue the read of the descriptor at a stream position. -/
def State.descIssue (s : State) (q p : Nat) : State :=
  let (n, s) := s.fresh
  let x := s.queue q
  (s.setQueue q { x with reads := x.reads ++ [{ pos := p, num := n }] }).prefetch (.desc n) (fun s => (s.descLoad q p).1)

/-- DESCRIPTOR_FETCH (R265). -/
def execDescriptorFetch (q : Fin 256) (s : State) : Answer :=
  .next (
    let x := s.queue q
    if !s.frozen && !s.fetchHeld (q.val / 128) && x.enabled && !x.stalled && x.retry.isNone && decide (x.fetchPos < x.avail) &&
        decide (x.reads.length < 8) && decide (s.readsInFlight < 512) && decide (x.fetchPos + 1 - x.cqHead < s.sqSize q) then
      ((s.setQueue q { x with fetchPos := x.fetchPos + 1 }).queueCount q 0).descIssue q x.fetchPos
    else s)

/-- The microseconds after f at which re-read k of R266 issues: 1, 3, 7, 15, 31, 63. -/
def retryAt (k : Nat) : Nat := 2 ^ (k + 1) - 1

/-- A schedule's next re-read is due. -/
def State.retryDue (s : State) (r : Retry) : Bool :=
  decide (r.issued < 6) && decide (1000 * retryAt r.issued ≤ since s.now r.f)

/-- A schedule has ended without success (R266). -/
def State.retryOver (s : State) (r : Retry) : Bool := decide (6 ≤ r.returned) && decide (64000 ≤ since s.now r.f)

/-- A translation fault that an engine met enters its context's fault queue. -/
def State.engineFault (s : State) (acid type level va : Nat) (access : Access) (source unit : Nat)
    (who : List RecFor := []) : State :=
  s.record { va := va, gtc := s.now, acid := acid, type := type, access := access.code, level := level,
             source := source, unit := unit, who := who }

/-- A descriptor carries the tag of its stream position (R264). -/
def State.descTagOk (s : State) (q p : Nat) (b : Bytes) : Bool :=
  fld b 504 8 = p % 256 && fld b 503 1 = 1 - p / s.sqSize q % 2

/-- A new request number. -/
def State.newReq (s : State) : Nat × State :=
  (s.sqe.nextReq, { s with sqe := { s.sqe with nextReq := s.sqe.nextReq + 1 } })

/-- Step past descriptors that completed at their check. -/
def Queue.skip (x : Queue) : Queue :=
  let n := (x.ready.takeWhile (fun b => b.isEmpty)).length
  { x with ready := x.ready.drop n, pos := x.pos + n }

/-- A request that is not admitted ends with a status and waits for its entry (R25, R267). -/
def State.refuseReq (s : State) (q p : Nat) (b : Bytes) (st : Nat) : State :=
  let (r, s) := s.newReq
  let s := s.setReq r { q := q, pos := p, desc := b, cls := s.sqClass q, phase := 4, status := st }
  let x := s.queue q
  s.setQueue q { x with order := x.order ++ [r] }

/-- Reads whose results are ignored (R266). -/
def staleReads (l : List DescRead) : List DescRead := l.map (fun r => { r with stale := true })

/-- A read's result passes (R264): the queue goes on; a descriptor with a reserved bit set completes MALFORMED (R267). -/
def State.descGood (s : State) (q p : Nat) (rest : List DescRead) (b : Bytes) : State :=
  let x := s.queue q
  let rest := if x.retry.isSome then staleReads rest else rest
  let x := { x with reads := rest, retry := none, fetchPos := max x.fetchPos (p + 1) }
  if fld b 448 55 ≠ 0 then
    let s := s.setQueue q (Queue.skip { x with ready := x.ready ++ [[]] })
    (s.queueCount q 1).refuseReq q p b stMalformed
  else s.setQueue q { x with ready := x.ready ++ [b] }

/-- A read's result fails (R266): the first failure gives f and discards every later descriptor. -/
def State.descBad (s : State) (q p : Nat) (rest : List DescRead) : State :=
  let x := s.queue q
  match x.retry with
  | some r => s.setQueue q { x with reads := rest, retry := some { r with returned := r.returned + 1 } }
  | none =>
    s.setQueue q { x with reads := staleReads rest, fetchPos := p, retry := some { f := s.now } }

/-- A descriptor read returns and is checked (R264); translation faults and poison fail it (R377, R264). -/
def State.descReturn (s : State) (q p : Nat) (rest : List DescRead) : State :=
  let (s, b, poison, e) := s.descLoad q p
  match e with
  | .fault ty l a => (s.engineFault (s.sqAcid q) ty l a .read 5 0).descBad q p rest
  | .none => if !poison && s.descTagOk q p b then s.descGood q p rest b else s.descBad q p rest
  | _ => s.descBad q p rest

/-- DESCRIPTOR_READ_RETURN (R264): the oldest read of the queue, once its bytes have come. -/
def execDescriptorReadReturn (q : Fin 256) (s : State) : Answer :=
  .next (
    let x := s.queue q
    match x.reads with
    | [] => s
    | r :: rest =>
      if s.frozen then s
      else if r.stale then (s.setQueue q { x with reads := rest }).endJob (.desc r.num)
      else s.direct (.desc r.num) (fun s => s.descReturn q r.pos rest))

/-- DESCRIPTOR_REREAD (R266). -/
def execDescriptorReread (q : Fin 256) (s : State) : Answer :=
  .next (
    let x := s.queue q
    match x.retry with
    | some r =>
      if !s.frozen && !s.fetchHeld (q.val / 128) && !x.stalled && s.retryDue r then
        (s.setQueue q { x with retry := some { r with issued := r.issued + 1 } }).descIssue q x.fetchPos
      else s
    | none => s)

/-- QUEUE_STALL (R266): state DOORBELL_AHEAD; ERR_VECTOR is raised. -/
def execQueueStall (q : Fin 256) (s : State) : Answer :=
  .next (
    let x := s.queue q
    let late (r : Option Retry) : Bool := r.any (fun r => s.retryOver r)
    if !s.frozen && !x.stalled && (late x.retry || late x.cqRetry) then
      (((s.setQueue q { x with stalled := true }).queueCount q 3).raise (q.val / 128) (s.sqErrVector q)).fire uSqe 0 0
        { mUnit := uSqe, queue := q.val }
    else s)

/-! ### Policing (R23, R24, R275 to R277) -/

/-- Z of a class at this count (R275, R277). -/
def State.bucket (s : State) (c : Nat) : Nat :=
  let x := s.cls c
  let rate := s.clsRate c
  if rate = 0 then 0 else min (1000000000 * s.clsBurst c) (x.z + rate * since s.now x.zAt)

/-- A class's bucket holds a whole token (R275). -/
def State.hasToken (s : State) (c : Nat) : Bool := decide (1000000000 ≤ s.bucket c)

/-- Bring Z up to date. -/
def State.fillBucket (s : State) (c : Nat) : State :=
  s.setCls c { s.cls c with z := s.bucket c, zAt := s.now }

/-- The cabinet that R23 assigns next: round robin over the SERVING cabinets of PLACEMENT. -/
def State.nextCab (s : State) (c : Nat) : Option Nat :=
  let rr := (s.cls c).rr
  (List.range 12).findSome? (fun k =>
    let k := (rr + k) % 12
    if (s.clsPlacement c).testBit k && s.serving k then some k else none)

/-- The pin of a rail switch: its number, and 1 for closed (Table 16.10). -/
def State.railPin (s : State) (sw v : Nat) : State :=
  if sw < 12 then s.emit (.pin "CAB_PSW_REQ" (2 * sw + v)) else s.emit (.pin "SPARE_PSW_REQ" (2 * (sw - 12) + v))

/-- Tell a rail switch to open (1) or to close (3). -/
def State.railTell (s : State) (sw r : Nat) : State :=
  State.railPin { s with pcs := { s.pcs with railReq := sput s.pcs.railReq sw r, railAt := sput s.pcs.railAt sw s.now } } sw (if r = 3 then 1 else 0)

/-- A cabinet leaves its idle level, or an entry is reversed (R468, R469): its rail, where it is open, must close first. -/
def State.wakeCab (s : State) (k : Nat) : State :=
  let c := s.pcs
  if sget 0 c.cabLevel k = 0 && sget 0 c.entering k = 0 then s
  else
    let r := sget 0 c.railReq k
    if r = 3 then s
    else
      let s := { s with pcs := { c with entering := sdel c.entering k, levelAt := s.now,
                                        cabLevel := if r = 0 then sdel c.cabLevel k else c.cabLevel } }
      let s := s.bump 0x9006 0 4
      if r = 0 then s.runClock k else s.railTell k 3

/-- REQUEST_ADMIT: the token, the snapshot (R24) with its reader counter (R163), the cabinet, the dispatch queue. -/
def State.admitHead (s : State) (q p : Nat) (b : Bytes) (c k : Nat) : State :=
  let s := s.fillBucket c
  let s := s.setCls c { s.cls c with z := (s.cls c).z - 1000000000, rr := (k + 1) % 12 }
  let (r, s) := s.newReq
  let g := s.epm.gen
  let s := { s with epm := { s.epm with
    readers := sset 0 s.epm.readers (g % 16) (sget 0 s.epm.readers (g % 16) + 1) } }
  let s := s.setReq r { q := q, pos := p, desc := b, cls := c, prog := s.clsProg c, cab := k, acid := s.clsAcid c,
                        prio := s.clsPriority c, admitted := true, admitAt := s.now, deadline := s.clsDeadline c, order := r, snapshot := g,
                        phase := 1, counted := true, recVa := fld (s.rd 0x7801 c) 448 64 }
  let s := s.setCab k { s.cab k with dispatch := (s.cab k).dispatch ++ [r] }
  let x := s.queue q
  (s.setQueue q { x with order := x.order ++ [r] }).classCount c 0

/-- A head descriptor of a class can be policed now: it is shed, or a cabinet takes it, or that cabinet must be told to wake. -/
def State.canPolice (s : State) (c : Nat) : Bool :=
  if !s.hasToken c then true
  else match s.nextCab c with
    | none => false
    | some k => sget 0 s.pcs.cabLevel k = 0 || sget 0 s.pcs.railReq k ≠ 3

/-- The queue whose turn it is among those with a valid head descriptor (R276). One that waits for a cabinet holds up no other. -/
def State.policeTurn (s : State) : Option Nat :=
  (List.range 256).findSome? (fun k =>
    let q := (s.sqe.polRound + k) % 256
    let x := s.queue q
    if x.enabled && !x.ready.isEmpty && s.canPolice (s.sqClass q) then some q else none)

/-- Police the head descriptor of the queue whose turn it is (R276): it is shed without a token, whatever the cabinets are doing. A
cabinet at an idle level is woken first (R469). -/
def State.police (s : State) (q : Nat) : State :=
  let x := s.queue q
  match x.ready with
  | [] => s
  | b :: rest =>
    let c := s.sqClass q
    let p := x.pos
    let take (s : State) : State :=
      let s := s.setQueue q (Queue.skip { x with ready := rest, pos := p + 1 })
      { s with sqe := { s.sqe with polRound := (q + 1) % 256 } }
    if !s.hasToken c then ((take s).refuseReq q p b stShed).classCount c 1
    else match s.nextCab c with
      | none => s
      | some k => if sget 0 s.pcs.cabLevel k ≠ 0 then s.wakeCab k else (take s).admitHead q p b c k

/-- REQUEST_POLICE (R276). An uncorrectable error in SQE's storage fires SQE_UE. -/
def execRequestPolice (q : Fin 256) (found : Ecc) (s : State) : Answer :=
  .next (
    if s.frozen then s
    else if found = .uncorrectable then s.fireBlk uSqe 0 2 { mUnit := uSqe, queue := q.val }
    else if s.policeTurn = some q.val then s.police q else s)

/-! ### Binding a request to a frame (R246, R272) -/

/-- The lowest free frame of a program on a cabinet: its context number. -/
def State.freeFrame (s : State) (cab prog : Nat) : Option (Nat × FrameSt) :=
  ((s.cab cab).frames.filter (fun f => f.2.prog = prog && f.2.req.isNone)).foldl (fun best f =>
    match best with
    | none => some f
    | some g => if f.2.idx < g.2.idx then some f else some g) none

/-- The lanes of a frame. -/
def FrameSt.lanes (f : FrameSt) : List Nat := (List.range 8).filter (fun n => f.mask.testBit n)

/-- Write the request record (R272); a record that does not translate to shelf 1 or 2 ends the task with BAD_XFER. -/
def State.writeRecord (s : State) (r va : Nat) : State :=
  let q := s.req r
  let b := q.desc.take 56 ++ zeros 8
  let tile := 8 * q.cab
  let fault (s : State) (ty l : Nat) : State :=
    s.taskFault r tile { va := va, acid := q.acid, type := ty, access := Access.write.code, level := l, source := 5 }
  match s.xlateNow .ctl q.acid va true with
  | (s, .go (.dev a) _) =>
    match s.devWrite (.sqe q.q) q.acid a b false with
    | (s, .owner) => fault s ftOwner 7
    | (s, _) => s
  | (s, .go _ _) => s.endTask r stBadXfer tile
  | (s, .fault ty l) => fault s ty l
  | (s, _) => s

/-- Bind a request to a frame: every used lane's context takes the request at its ENTRY segment. -/
def State.bindTo (s : State) (r cn : Nat) (f : FrameSt) : State :=
  let q := s.req r
  let k := q.cab
  let img := (s.prog q.prog).image
  let s := s.setCab k { s.cab k with dispatch := (s.cab k).dispatch.filter (fun x => x ≠ r),
                                     frames := sput (s.cab k).frames cn { f with req := some r } }
  let s := f.lanes.foldl (fun s n =>
    let t := 8 * k + n
    s.setTile t ((s.tile t).setCtx cn { phase := 1, req := r, seg := imgEntry img n, prog := q.prog, frame := cn })) s
  s.setReq r { q with phase := 2, ctx := cn, lanes := f.mask, recVa := q.recVa + 64 * (16 * k + f.idx) }

/-- The oldest queued request of the program takes its lowest free frame, and SQE writes its record (R246). -/
def State.bindNext (s : State) (k p : Nat) : State :=
  match (s.cab k).dispatch.find? (fun r => (s.req r).prog = p && !(s.req r).ending), s.freeFrame k p with
  | some r, some (cn, f) =>
    let s := (s.bindTo r cn f).cabCount k 0
    s.writeRecord r (s.req r).recVa
  | _, _ => s

/-- A segment of a lane starts or waits for its GATE (R247): the context becomes ready, or stays gated. -/
def State.gateCtx (s : State) (t c : Nat) : State :=
  let x := (s.tile t).ctx c
  let q := s.req x.req
  let g := ((segFind (s.prog q.prog).image x.seg).map segGate).getD 0
  let ok := decide (g ≤ sget 0 q.releases (t % 8))
  s.setTile t ((s.tile t).setCtx c { x with phase := if ok then 2 else 1, gated := x.gated || !ok })

/-- BAD_SEGMENT: counted, and the task ends. -/
def State.badSegment (s : State) (r t : Nat) (pos : Option (Nat × Nat × Nat)) : State :=
  (s.cabCount (cabOf t) 4).endTask r stBadSegment t pos

/-- Every lane is FINAL or waits for a gate, and some lane waits: nobody can release it (R248). -/
def State.stuck (s : State) (r : Nat) : Bool :=
  let q := s.req r
  let ph := ((List.range 8).filter (fun n => q.lanes.testBit n)).map (fun n => ((s.tile (8 * q.cab + n)).ctx q.ctx).phase)
  ph.all (fun p => p = 5 || p = 1) && ph.contains 1

/-- A task that is bound with every lane waiting for its gate ends with BAD_SEGMENT (R248). -/
def State.bindStuck (s : State) (r : Nat) : State :=
  let q := s.req r
  if s.stuck r then s.badSegment r (8 * q.cab + ((List.range 8).find? (fun n => q.lanes.testBit n)).getD 0) none else s

/-- REQUEST_RECORD_ACK (R272): the lanes become ready, subject to GATE. -/
def execRequestRecordAck (req : Nat) (s : State) : Answer :=
  .next (
    let q := s.req req
    if s.frozen || q.phase ≠ 2 || q.ending then s
    else
      let img := (s.prog q.prog).image
      let lanes := (List.range 8).filter (fun n => q.lanes.testBit n)
      let runs := lanes.foldl (fun m n => sput m (imgEntry img n) (sget 0 m (imgEntry img n) + 1)) q.runs
      let s := s.setReq req { q with phase := 3, runs := runs }
      (lanes.foldl (fun s n => s.gateCtx (8 * q.cab + n) q.ctx) s).bindStuck req)

/-! ### The end of a task (R249, R229) -/

/-- Transfers, stores or engine commands of a request are outstanding. -/
def State.taskBusy (s : State) (r : Nat) : Bool :=
  s.tiles.tile.any (fun t => t.2.xfers.any (fun x => x.2.req = r) || t.2.tracker.any (fun x => x.req = r && s.unperformed x.id)) ||
  s.gpes.any (fun g => g.2.posted.any (fun c => c.req = r && c.pd.isNone) ||
    g.2.cmds.any (fun c => c.2.req = r && c.2.pd.isNone)) ||
  s.hses.any (fun h => h.2.posted.any (fun c => c.req = r) || h.2.queue.any (fun c => c.req = r))

/-- A request still holds a context of a tile. -/
def State.holdsCtx (s : State) (r : Nat) : Bool :=
  s.tiles.tile.any (fun t => t.2.ctxs.any (fun c => decide (c.1 < 16) && c.2.phase ≠ 0 && c.2.req = r))

/-- The task has ended with a status: its frame becomes free, and its entry waits to be written; an entry of a lost queue
is discarded (R271), and a locked run has none. -/
def State.finishTask (s : State) (r st : Nat) : State :=
  let q := s.req r
  let k := q.cab
  let cab := s.cab k
  let frames := cab.frames.map (fun f => if f.2.req = some r then (f.1, { f.2 with req := none }) else f)
  let s := s.setCab k { cab with frames := frames, dispatch := cab.dispatch.filter (fun x => x ≠ r) }
  let tiles := s.tiles.tile.map (fun t =>
    (t.1, { t.2 with ctxs := t.2.ctxs.filter (fun c => !(c.2.req = r && decide (c.1 < 16))) }))
  let s := { s with tiles := { s.tiles with tile := tiles.filter (fun t => t.2 ≠ ({} : Tile)) } }
  let s := s.cabCount k 5
  let s := s.setReq r { q with phase := if q.discard || q.locked then 5 else 4, status := st }
  if q.discard && !q.locked then s.classCount q.cls 5 else s

/-- TASK_COMPLETE (R249, R229): OK once every lane is FINAL and every transfer has completed; with the first cause's status
once every context is released and the status is decided. -/
def execTaskComplete (req : Nat) (s : State) : Answer :=
  .next (
    let q := s.req req
    if s.frozen || !q.live then s
    else if q.ending then
      if s.holdsCtx req || s.taskBusy req || q.causes.any (fun c => c.open_) then s
      else match firstCause q.causes with
        | some c => s.finishTask req c.status
        | none => s
    else if q.phase = 3 && q.finals = q.lanes && !s.taskBusy req then s.finishTask req stOk
    else s)

/-! ### Completions (R268 to R270) -/

/-- The 16 bytes of a completion entry (Table 9.3). -/
def cqEntry (rid elapsed status head : Nat) (late vary phase : Bool) : Bytes :=
  natLe (b2n phase + 2 * b2n vary + 4 * b2n late + 2 ^ 16 * (head % 65536) + 2 ^ 32 * (status % 256) +
    2 ^ 40 * min elapsed 0xFF_FFFF) 8 ++ natLe rid 8

/-- The request whose entry comes next in ring order, if it has ended. -/
def State.nextEntry (s : State) (q : Nat) : Option Nat :=
  let x := s.queue q
  x.order.find? (fun r => (s.req r).pos = x.cqPos && (s.req r).phase = 4)

/-- A try of a completion write failed: the schedule of R266 starts or goes on (R377). -/
def State.cqFailed (s : State) (q : Nat) : State :=
  let x := s.queue q
  s.setQueue q { x with cqRetry := some (match x.cqRetry with
    | some r => { r with returned := r.returned + 1 }
    | none => { f := s.now }) }

/-- Issue a write of an entry's 16 bytes: the numbers of the writes that are still to be acknowledged, unless a fault ends the try. -/
def State.issueEntry (s : State) (q va rid : Nat) (b : Bytes) : State × Option (List Nat) :=
  let fault (s : State) (ty l : Nat) : State × Option (List Nat) :=
    (s.record { va := va, gtc := s.now, reqId := rid, queue := q, acid := s.sqAcid q, type := ty,
                access := Access.write.code, level := l, source := 5 }, none)
  match s.xlateNow .ctl (s.sqAcid q) va true with
  | (s, .go t _) =>
    match Agent.route (.sqe q) t with
    | .dev a =>
      match s.devWrite (.sqe q) (s.sqAcid q) a b false with
      | (s, .none) => (s, some [])
      | (s, _) => fault s ftOwner 7
    | .host p h =>
      if s.stalled then (s, none)
      else if !s.hostOk p then (s, none)
      else
        let (s, ids) := s.postWrites (.sqe q) (s.sqAcid q) (.host p h) b
        (s, some ids)
    | .fab fa =>
      let (id, s) := s.fresh
      match s.fabRequest (.mem id .write) 1 fa b.length b false s.now with
      | some s => (s, some [id])
      | none => (s.needs .hold, none)
  | (s, .fault ty l) => fault s ty l
  | (s, _) => (s, none)

/-- The entry of the request that comes next has been issued: a request that was admitted has completed (R269, R270). -/
def State.entryIssued (s : State) (q r : Nat) (late : Bool) : State :=
  let x := s.queue q
  let t := s.req r
  let s := s.setQueue q { x with order := x.order.filter (fun y => y ≠ r), cqPos := x.cqPos + 1 }
  if t.admitted then
    let s := (s.setReq r { t with phase := 5, late := late }).classCount t.cls (if t.status = stOk then 2 else 3)
    if late then (s.classCount t.cls 4).fire uSqe 0 1 { mUnit := uSqe, acid := t.acid, queue := q } else s
  else { s with sqe := { s.sqe with reqs := sdel s.sqe.reqs r } }

/-- Write the next entry (R268), or again the one whose write failed (R377). -/
def State.writeEntry (s : State) (q : Nat) : State :=
  let again := (s.queue q).cqRetry.isSome
  let sent (s : State) (w : CqWrite) : State :=
    let x := s.queue q
    s.setQueue q { x with acks := if again then w :: x.acks else x.acks ++ [w], redo := none }
  match (s.queue q).redo with
  | some w =>
    match s.issueEntry q w.va (le w.bytes 8 8) w.bytes with
    | (s, some ids) => sent s { w with ids := ids, again := again }
    | (s, none) => s.cqFailed q
  | none =>
    match s.nextEntry q with
    | none => s
    | some r =>
      let x := s.queue q
      let t := s.req r
      let n := s.sqSize q
      let dt := if t.admitted then since s.now t.admitAt else 0
      let late := t.admitted && decide (1000 * t.deadline < dt)
      let b := cqEntry (le t.desc 0 8) (dt / 1000) t.status ((t.pos + 1) % n) late t.vary (x.cqPos / n % 2 = 0)
      let va := s.cqBase q + 16 * (x.cqPos % n)
      match s.issueEntry q va (le t.desc 0 8) b with
      | (s, some ids) => (sent s { va := va, bytes := b, ids := ids, again := again }).entryIssued q r late
      | (s, none) => s.cqFailed q

/-- COMPLETION_WRITE (R268). A queue stalled at a descriptor still posts the entries of its requests in flight (R266); a write under
R377's schedule waits for COMPLETION_WRITE_RETRY. -/
def execCompletionWrite (q : Fin 256) (s : State) : Answer :=
  .next (
    let x := s.queue q
    if s.frozen || s.fetchHeld (q.val / 128) || !x.enabled || x.cqRetry.isSome then s
    else s.direct (.entry q) (fun s => s.writeEntry q))

/-- A try of the schedule of R377 is issued. -/
def State.cqTry (s : State) (q : Nat) (r : Retry) : State :=
  s.direct (.entry q) (fun s => State.writeEntry (s.setQueue q { s.queue q with cqRetry := some { r with issued := r.issued + 1 } }) q)

/-- COMPLETION_WRITE_RETRY (R377). -/
def execCompletionWriteRetry (q : Fin 256) (s : State) : Answer :=
  .next (
    match (s.queue q).cqRetry with
    | some r => if !s.frozen && !s.fetchHeld (q.val / 128) && s.retryDue r then s.cqTry q r else s
    | none => s)

/-- The answers to posted writes, once all have been performed: the first error among them. -/
def State.writesDone (s : State) (ids : List Nat) : Option MemErr :=
  ids.foldl (fun e id =>
    match e, sfind s.rsps id with
    | some .none, some { performed := true, err := x, .. } => some x
    | some x, some { performed := true, .. } => some x
    | _, _ => none) (some .none)

/-- COMPLETION_WRITE_ACK (R268): VECTOR follows the entry's acknowledgement. An entry that was refused is written again on the schedule of
R266 (R377). -/
def execCompletionWriteAck (q : Fin 256) (s : State) : Answer :=
  .next (
    let x := s.queue q
    match x.acks with
    | [] => s
    | w :: rest =>
      match s.writesDone w.ids with
      | none => s
      | some .none =>
        let s := (s.setQueue q { x with acks := rest, cqRetry := if w.again then none else x.cqRetry }).forget w.ids
        if s.sqIrqEn q then s.raise (q.val / 128) (s.sqVector q) else s
      | some _ =>
        if x.redo.isSome then s
        else
          let s := ((s.setQueue q { x with acks := rest, redo := some w }).forget w.ids).record
            { va := w.va, gtc := s.now, reqId := le w.bytes 8 8, queue := q, acid := s.sqAcid q, type := ftOwner,
              access := Access.write.code, level := 7, source := 5 }
          s.cqFailed q)

/-- QUEUE_RESUME's effect (R266): a fresh read of the descriptor at once, or the completion write again (R377). -/
def State.queueResume (s : State) (q : Nat) : State :=
  let x := s.queue q
  let s := s.setQueue q { x with stalled := false, retry := none, cqRetry := none }
  if x.retry.isSome then (s.setQueue q { s.queue q with fetchPos := x.fetchPos + 1 }).descIssue q x.fetchPos
  else s.direct (.entry q) (fun s => s.writeEntry q)

/-! ### The request's last end (R163, R176, R286) -/

/-- The reader counter of a request's snapshot drops (R163). -/
def State.dropReader (s : State) (q : Request) : State :=
  if q.counted then
    let k := q.snapshot % 16
    { s with epm := { s.epm with readers := sset 0 s.epm.readers k (sget 0 s.epm.readers k - 1) } }
  else s

/-- PINS of the request's session drops (R176). -/
def State.unpin (s : State) (q : Request) : State :=
  match q.binding with
  | some b =>
    if b.live then
      let d := s.drawer b.slot
      s.setDrawer b.slot { d with pins := d.pins - 1 }
    else s
  | none => s

/-- A request that every unit has finished with leaves the block. -/
def State.endReq (s : State) (r : Nat) : State :=
  let q := s.req r
  let s := ((s.dropReader q).unpin q).endJobs (fun j => j = .bindReq r)
  { s with sqe := { s.sqe with reqs := sdel s.sqe.reqs r } }

/-! ### Configuration and loss (R261, R271, R275) -/

/-- SQ_CFG took effect: where ENABLE changes from 0 to 1 everything starts at 0 (R261). -/
def State.sqApplied (s : State) (q : Nat) : State :=
  let on := s.sqN q 0 1 = 1
  let x := s.queue q
  if on && !x.enabled then s.setQueue q { enabled := true }
  else if !on && x.enabled then s.setQueue q { x with enabled := false }
  else s

/-- The queue is quiescent (R261). -/
def State.sqQuiet (s : State) (q : Nat) : Bool :=
  let x := s.queue q
  !x.enabled || (x.reads.isEmpty && x.ready.isEmpty && x.order.isEmpty && x.retry.isNone &&
    x.tail = x.pos % s.sqSize q)

/-- CLASS_CFG of a class took effect (R275): Z starts full at ENABLE, and is clamped where it stays enabled. `was` is the
state before the commit instant. -/
def State.classApplied (s : State) (was : State) (c : Nat) : State :=
  let cap := 1000000000 * s.clsBurst c
  let z := if was.clsOn c then min cap (was.bucket c) else cap
  s.setCls c { s.cls c with z := if s.clsOn c then z else 0, zAt := s.now, dropped := false }

/-- The port's queues are lost (R271): their state is default, and the entries of their requests are discarded. -/
def State.queuesLost (s : State) (p : Nat) : State :=
  let mine (q : Request) : Bool := q.q / 128 = p && !q.locked
  let kept := s.sqe.reqs.filter (fun r => !(mine r.2 && !r.2.admitted))
  let lost := kept.filter (fun r => mine r.2 && r.2.phase = 4)
  let reqs := kept.map (fun r =>
    if mine r.2 then (r.1, { r.2 with discard := true, phase := if r.2.phase = 4 then 5 else r.2.phase }) else r)
  let gone := s.sqe.queues.filter (fun q => q.1 / 128 = p)
  let s := s.endJobs (fun j => match j with
    | .desc n => gone.any (fun q => q.2.reads.any (fun r => r.num = n))
    | .entry q => q / 128 = p
    | _ => false)
  let s := s.discardReqs (gone.flatMap (fun q => q.2.acks.flatMap (fun w => w.ids)))
  let s := { s with sqe := { s.sqe with reqs := reqs,
                                        queues := s.sqe.queues.filter (fun q => q.1 / 128 ≠ p) } }
  lost.foldl (fun s r => s.classCount r.2.cls 5) s

end Sys2Proof.Machine
end

