-- ==== Sys2Proof/Machine/Table.lean ====
section
/-! DEFINITION. Table descriptors, epoch configurations, and the slot that serves a row (R98 to R106, R133 to R141, R171). -/
namespace Sys2Proof.Machine

/-! ### Descriptors (Table 4.1) -/

/-- The descriptor of a table. -/
def State.tableDesc (s : State) (n : Nat) : Bytes := s.rd (0x6100 + n / 256) (n % 256)

def tdBase (d : Bytes) : Nat := fld d 448 57
def tdDirBase (d : Bytes) : Nat := fld d 384 57
def tdSeed (d : Bytes) : Nat := fld d 320 64
def tdRowsM1 (d : Bytes) : Nat := fld d 280 40
def tdDefSlot (d : Bytes) : Nat := fld d 240 40
def tdTscale (d : Bytes) : Nat := fld d 208 32
def tdEmpty (d : Bytes) : Nat := fld d 176 32
def tdStride (d : Bytes) : Nat := fld d 161 15 + 1
def tdDim (d : Bytes) : Nat := fld d 149 12 + 1
def tdAcid (d : Bytes) : Nat := fld d 136 12
def tdDirLog (d : Bytes) : Nat := fld d 130 6
def tdProbeM1 (d : Bytes) : Nat := fld d 126 4
def tdFmt (d : Bytes) : Nat := fld d 122 4
def tdBlk (d : Bytes) : Nat := fld d 120 2
/-- KIND: 0 DIRECT, 1 HASHED, 2 DIRECTORY. -/
def tdKind (d : Bytes) : Nat := fld d 118 2
/-- DEFAULT: 0 SKIP, 1 ZERO, 2 ROW. -/
def tdDefault (d : Bytes) : Nat := fld d 116 2
def tdImm (d : Bytes) : Bool := bit d 115
def tdAlloc (d : Bytes) : Bool := bit d 114
def tdPush (d : Bytes) : Bool := bit d 113
def tdValid (d : Bytes) : Bool := bit d 112
def tdRemote (d : Bytes) : Nat := fld d 100 12
def tdMap (d : Bytes) : Nat := fld d 94 6
def tdShards (d : Bytes) : Nat := fld d 86 8 + 1
def tdShardSeed (d : Bytes) : Nat := fld d 0 64

/-- The row bytes of a table (Table 4.2). -/
def tdRowBytes (d : Bytes) : Nat := rowBytes (tdFmt d) (tdBlk d) (tdDim d)

/-- TABLE_COUNTS: 0 LOOKUPS, 1 DEFAULTS, 2 POISONED, 3 LINES. -/
def State.tabCount (s : State) (n k : Nat) (by_ : Nat := 1) : State := s.bump (0x6300 + n / 256) (n % 256) k by_

/-- The home of an ID under a PUSHDOWN table: its shard and the shard's node (R119). -/
def State.shardOf (s : State) (d : Bytes) (id : Nat) : Nat × Nat :=
  let sh := reduce (mix id (tdShardSeed d)) (tdShards d)
  (sh, le (s.rd 0x6200 (tdMap d)) (2 * sh) 2)

/-! ### Epoch configuration (Table 5.10) -/

def State.epochCfg (s : State) (n : Nat) : Bytes := s.rd (0x6900 + n / 256) (n % 256)
def ecVer (b : Bytes) : Nat := fld b 455 57
def ecSb (b : Bytes) : Nat := fld b 391 57
def ecInit (b : Bytes) : Nat := fld b 320 64
def ecSlots (b : Bytes) : Nat := fld b 280 40 + 1
def ecHome (b : Bytes) : Nat := fld b 240 40
def ecGtk (b : Bytes) : Nat := fld b 208 32

/-- SLOT_BASE (R141). -/
def ecSlotBase (b : Bytes) : Nat := 8192 + ecSb b + 64 * ceilDiv (8 * ecSlots b) 64

/-! ### Epochs (R133 to R136) -/

/-- A tag is at or before an epoch (R133). -/
def tagLe (t e : Nat) : Bool := decide ((2 ^ 16 + e - t % 2 ^ 16) % 2 ^ 16 < 2 ^ 15)

/-- Generation a is at or before b, modulo 2^32 (R134). -/
def genLe (a b : Nat) : Bool := decide ((2 ^ 32 + b - a % 2 ^ 32) % 2 ^ 32 < 2 ^ 31)

/-- Table states (Table 5.3). -/
def tsServing : Nat := 0
def tsStaging : Nat := 1
def tsSealed : Nat := 2
def tsReady : Nat := 3
def tsDraining : Nat := 4
def tsCompacting : Nat := 5
def tsRetreat : Nat := 6
def tsDiscarding : Nat := 7

/-- Both the epoch and prev_epoch are live. -/
def EpochSt.twoLive (t : EpochSt) : Bool := t.state = tsDraining || t.state = tsRetreat

/-- The table epoch that a request with snapshot g reads (R135). -/
def EpochSt.epochFor (t : EpochSt) (g : Nat) : Nat :=
  if t.twoLive && genLe t.prevFrom g && !genLe t.genChanged g then t.prev else t.epoch

/-- A home serves a part that names an epoch (R136). -/
def EpochSt.serves (t : EpochSt) (e : Nat) : Bool := e = t.epoch || (t.twoLive && e = t.prev)

/-- Pushdown parts in service at this device that name a table's prev_epoch (R163). -/
def State.inboundParts (s : State) (n : Nat) : Nat :=
  let t := s.table n
  (s.gpes.map (fun g => (g.2.cmds.filter (fun c => c.2.pd.isSome && c.2.table = n && c.2.epoch = t.prev && t.prev ≠ t.epoch)).length)).foldl
    (· + ·) 0

/-! ### Directory entries and version entries (Tables 5.1, 5.2) -/

def deKey (e : Bytes) : Nat := fld e 192 64
def deHome (e : Bytes) : Nat := fld e 152 40
def deNext (e : Bytes) : Nat := fld e 112 40
def deHomeTag (e : Bytes) : Nat := fld e 96 16
def deNextTag (e : Bytes) : Nat := fld e 80 16
def deNextDel (e : Bytes) : Bool := bit e 4
def deNextValid (e : Bytes) : Bool := bit e 3
/-- STATE: 0 FREE, 1 USED, 2 TOMB. -/
def deState (e : Bytes) : Nat := fld e 0 2
/-- STATE 0b00 is FREE (Table 5.1), whatever the other bytes hold. -/
def deFree (e : Bytes) : Bool := deState e = 0

/-- A directory entry's bytes. -/
def deMake (key home next homeTag nextTag : Nat) (del valid : Bool) (state : Nat) : Bytes :=
  natLe (state + 8 * b2n valid + 16 * b2n del + 2 ^ 80 * (nextTag % 2 ^ 16) + 2 ^ 96 * (homeTag % 2 ^ 16) +
    2 ^ 112 * (next % 2 ^ 40) + 2 ^ 152 * (home % 2 ^ 40) + 2 ^ 192 * (key % 2 ^ 64)) 32

def veNext (e : Bytes) : Nat := fld e 24 40
def veTag (e : Bytes) : Nat := fld e 8 16
def veValid (e : Bytes) : Bool := bit e 0

/-- A version entry's bytes. -/
def veMake (next tag : Nat) (valid : Bool) : Bytes := natLe (b2n valid + tag % 2 ^ 16 * 2 ^ 8 + 2 ^ 24 * (next % 2 ^ 40)) 8

/-- The slot that serves a row, or a miss (R105, R140). -/
inductive SlotRes where
  | home (n : Nat)
  | side (i : Nat)
  | miss
  deriving DecidableEq, Repr

/-- `resolve_directory` of R140; an IMMEDIATE table reads the home slot of a USED entry. -/
def resolveDir (imm : Bool) (e : Bytes) (epoch : Nat) : SlotRes :=
  if imm then (if deState e = 1 then .home (deHome e) else .miss)
  else if deNextValid e && tagLe (deNextTag e) epoch then (if deNextDel e then .miss else .side (deNext e))
  else if deState e = 1 && tagLe (deHomeTag e) epoch then .home (deHome e)
  else .miss

/-- `resolve_rowed` of R140. -/
def resolveRowed (row : Nat) (v : Bytes) (epoch : Nat) : SlotRes :=
  if veValid v && tagLe (veTag v) epoch then .side (veNext v) else .home row

/-- What one bucket says of an ID (R104): the entry with its place in the bucket, a stop, or neither. -/
inductive BucketRes where
  | found (j : Nat) (e : Bytes)
  | stop
  | onward
  deriving DecidableEq, Repr

/-- Search a bucket, entry 0 before entry 1. -/
def bucketFind (b : Bytes) (id : Nat) : BucketRes :=
  let e0 := bytesAt b 0 32
  let e1 := bytesAt b 32 32
  if deFree e0 then .stop
  else if deKey e0 = id then .found 0 e0
  else if deFree e1 then .stop
  else if deKey e1 = id then .found 1 e1
  else .onward

/-- The virtual address of bucket `probe` of an ID's search. -/
def bucketVa (d : Bytes) (id probe : Nat) : Nat :=
  let n := 2 ^ tdDirLog d
  tdDirBase d + 64 * ((reduce (mix id (tdSeed d)) n + probe) % n)

/-- The virtual address of a slot. -/
def slotVa (d ec : Bytes) : SlotRes → Nat
  | .home n => tdBase d + n * tdStride d
  | .side i => ecSlotBase ec + i * tdStride d
  | .miss => 0

/-- The lines that `n` bytes from an address touch. -/
def linesOf (a n : Nat) : List Nat :=
  if n = 0 then [] else (List.range ((a + n - 1) / 64 - a / 64 + 1)).map (fun k => (a / 64 + k) * 64)

end Sys2Proof.Machine
end

