-- ==== Sys2Proof/Machine/Job.lean ====
section
/-! DEFINITION. Jobs: the accesses of a batch, a compaction or a session operation, in order, each of which may end it with a status. -/
namespace Sys2Proof.Machine

/-! ### Jobs

A batch reads and writes virtual memory in order, and the first failure ends it with a status. -/

/-- A run of accesses that may end with a status. -/
abbrev Job (α : Type) := ExceptT Nat (StateM State) α

/-- Run a job: its result, or its status. -/
def Job.go {α : Type} (j : Job α) (s : State) : Except Nat α × State := StateT.run (ExceptT.run j) s

/-- Completion statuses (Table 5.5). -/
def bsOk : Nat := 0
def bsNotReady : Nat := 1
def bsBadEpoch : Nat := 2
def bsBadBatch : Nat := 3
def bsNoSlot : Nat := 4
def bsDirFull : Nat := 5
def bsFault : Nat := 6
def bsHostLost : Nat := 7
def bsPoison : Nat := 8
def bsMalformed : Nat := 9

/-- Who a job works for: a batch of an update ring, the compaction or sweep of a table, a batch of an event ring, or the SSU's own
work. -/
inductive JobFor where
  | ring (g : Nat)
  | table
  | ev (g : Nat)
  | ssu
  deriving DecidableEq, Repr

/-- The agent, and the SOURCE and UNIT of a fault record (Table 13.7). -/
def JobFor.agent : JobFor → Agent
  | .ring g => .epm g
  | .table => .epm 8
  | .ev g => .ssu g
  | .ssu => .ssu 8
def JobFor.source : JobFor → Nat × Nat
  | .ring g => (3, g)
  | .table => (3, 0)
  | .ev g => (4, g)
  | .ssu => (4, 0)

/-- A job met a translation fault: its record is written, and decides a batch's status (R377, R382). -/
def State.jobFault (s : State) (w : JobFor) (acid ty l va : Nat) (access : Access) : State :=
  let put (who : List RecFor) : State := s.engineFault acid ty l va access w.source.1 w.source.2 who
  match w with
  | .ring g =>
    let s := put [.epm g]
    let x := s.ring g
    s.setRing g { x with batch := x.batch.map (fun b => { b with undecided := true }) }
  | .ev g =>
    let s := put [.ssu g]
    let x := s.evRing g
    s.setEvRing g { x with batch := x.batch.map (fun b => { b with undecided := true }) }
  | _ => put []

/-- Every page of a range leads to shelf 1 or 2, or does not translate (R143). A page whose walk is still to come is waited for. -/
def State.allDev (s : State) (acid va n : Nat) (writes : Bool) : State × Bool :=
  (pieces va n 4096).foldl (fun (s, ok) oc =>
    if s.stalled then (s, ok)
    else match s.xlateNow .ctl acid (va + oc.1) writes with
      | (s, .go (.dev _) _) => (s, ok)
      | (s, .go _ _) => (s, false)
      | (s, _) => (s, ok)) (s, true)

/-- Read virtual memory with its poison. -/
def jReadP (w : JobFor) (acid va n : Nat) : Job (Bytes × Bool) := do
  let (s, b, poison, e) := (← get).vread w.agent .ctl acid va n
  set s
  match e with
  | .fault ty l a =>
    modify (fun s => s.jobFault w acid ty l a .read)
    throw bsFault
  | .hostLost => throw bsHostLost
  | .none => pure (b, poison)

/-- Read virtual memory; poison ends the job. -/
def jRead (w : JobFor) (acid va n : Nat) : Job Bytes := do
  let (b, poison) ← jReadP w acid va n
  if poison then throw bsPoison else pure b

/-- Write virtual memory. -/
def jWrite (w : JobFor) (acid va : Nat) (b : Bytes) (poison : Bool := false) : Job Unit := do
  let (s, e) := (← get).vwrite w.agent .ctl acid va b poison
  set s
  match e with
  | .fault ty l a =>
    modify (fun s => s.jobFault w acid ty l a .write)
    throw bsFault
  | .hostLost => throw bsHostLost
  | .none => pure ()

/-- The range must lie on shelf 1 or 2 (R143). -/
def jHome (acid va n : Nat) (writes : Bool) : Job Unit := do
  let (s, ok) := (← get).allDev acid va n writes
  set s
  if ok then pure () else throw bsMalformed

/-- Swap the entry bytes at an address within one line (R153). R143 binds the version array alone to shelves 1 and 2: the entry of a
directory that lies elsewhere is written there (DEDUCED, log 91). -/
def jSwap (w : JobFor) (acid va : Nat) (b : Bytes) : Job Unit := do
  if (← get).stalled then pure ()
  else match (← get).xlateNow .ctl acid va true with
  | (s, .go t e) =>
    let (s, err) := match t with
      | .dev a => s.lineSwap w.agent acid a b
      | _ => s.writeAt w.agent acid t b
    set (s.markPage acid e)
    match err with
    | .none => pure ()
    | .hostLost => throw bsHostLost
    | _ =>
      modify (fun s => s.jobFault w acid ftOwner 7 va .atomic)
      throw bsFault
  | (s, .fault ty l) =>
    set (s.jobFault w acid ty l va .atomic)
    throw bsFault
  | (s, _) => set s

end Sys2Proof.Machine
end

