-- ==== Sys2Proof/Machine/Router.lean ====
section
/-! DEFINITION. Messages at the router: their size in credits, their age, and the answers a device sends (R427 to R431, R439, R440). -/
namespace Sys2Proof

/-- A request (Table 15.4). -/
def FabMsg.isReq (m : FabMsg) : Bool := decide (m.op.toNat ≤ 5)
/-- A response. -/
def FabMsg.isRsp (m : FabMsg) : Bool := decide (6 ≤ m.op.toNat) && decide (m.op.toNat ≤ 0xA)

/-- The credit class code of a message (Table 15.4). -/
def FabMsg.cls (m : FabMsg) : Nat :=
  if m.isReq then 1 + (if m.dl then 1 else 0) else if m.isRsp then 3 + (if m.dl then 1 else 0) else if m.op.toNat ≤ 0xD then 5 else 6

/-- What a message costs in its class: a header and its data slots (R430). -/
def FabMsg.units (m : FabMsg) : Nat := 1 + 4 * ((m.payload.length + 63) / 64)

/-- The flits a message takes, at most ten data slots each. -/
def FabMsg.flits (m : FabMsg) : Nat := max 1 (((m.payload.length + 63) / 64 + 9) / 10)

/-- The STATUS of a response. -/
def FabMsg.status (m : FabMsg) : Nat := m.addr.toNat % 256

end Sys2Proof

namespace Sys2Proof.Machine

/-- GFR_COUNTS: 0 STALE, 1 NO_ROUTE, 2 LOST_ON_DOWN, 3 LATE_RSP, 4 MGT_DROPPED, 5 FAILOVERS, 6 NAK_SENT, 7 HOP_OVER. -/
def State.gfrCount (s : State) (k : Nat) (n : Nat := 1) : State := s.bump 0x8000 3 k n

/-- A class's buffer in units (R430). -/
def clsBuffer (c : Nat) : Nat := if c ≤ 4 then 12288 else if c = 5 then 64 else 256

/-- A message leaves the router: the port it came on owes its credits again. -/
def State.dropMsg (s : State) (k : Nat) : State :=
  match sfind s.fab.msgs k with
  | none => s
  | some w =>
    let s := { s with fab := { s.fab with msgs := sdel s.fab.msgs k } }
    match w.src with
    | some p =>
      let x := s.fport p
      s.setFport p { x with owed := sset 0 x.owed w.msg.cls (sget 0 x.owed w.msg.cls + w.msg.units) }
    | none => s

/-- The message `k`, if it is addressed to this device. -/
def State.localMsg (s : State) (k : Nat) : Option FabMsg :=
  match sfind s.fab.msgs k with
  | some w => if w.msg.dst = s.node && w.msg.op ≠ 0xF then some w.msg else none
  | none => none

/-- Send a response to a request: its operation, status, poison, length in its units, and payload. -/
def State.fabAnswer (s : State) (m : FabMsg) (op status : Nat) (poison : Bool) (len : Nat) (payload : Bytes) : State :=
  let a : FabMsg := { dst := m.src, src := s.node, op := BitVec.ofNat 4 op, dl := false, len := len, tag := m.tag,
                      addr := BitVec.ofNat 48 (status % 256 + 256 * b2n poison), poison := poison, payload := payload }
  let s := if op = 0xA then s.gfrCount 6 else s
  s.toRouter a none

/-- ADDR of a management message (Table 15.3). -/
def mgtAddr (subtype : Nat) : BitVec 48 := BitVec.ofNat 48 (2 ^ 40 * subtype)

/-- Send a management message to a node (R444). -/
def State.unicast (s : State) (dst : BitVec 16) (subtype : Nat) (payload : Bytes) : State :=
  s.toRouter { dst := dst, src := s.node, op := 0xE, len := ceilDiv payload.length 4, addr := mgtAddr subtype, payload := payload } none

/-- Send a management broadcast (R444). -/
def State.broadcast (s : State) (subtype : Nat) (payload : Bytes) : State :=
  s.toRouter { dst := 0, src := s.node, op := 0xF, len := ceilDiv payload.length 4, addr := mgtAddr subtype, payload := payload } none

/-- A request is discarded for its age (R439): counted in STALE. -/
def State.countStale (s : State) (m : FabMsg) : State :=
  (s.gfrCount 0).fire uFab 6 4 { access := 1, mUnit := uFab, mNum := m.src.toNat, aspace := 4,
                                 addr := 2 ^ 48 * m.dst.toNat + m.addr.toNat }

/-! ### Inbound requests (R423, R440) -/

/-- The answer to an inbound request whose lines have all been performed: a refusal of the home slice is a NAK of status OWNER, and
a request that had grown too old at its slice is discarded. -/
def State.answerInbound (s : State) (m : FabMsg) (l : List MemRsp) : State :=
  let data := l.flatMap (fun r => r.data)
  let poison := l.any (fun r => r.poison)
  if l.any (fun r => r.err = .late) then s.countStale m
  else if l.any (fun r => r.err ≠ .none) then s.fabAnswer m 0xA 1 false 0 []
  else match m.op.toNat with
    | 0 => s.fabAnswer m 6 0 poison data.length data
    | 3 => s.fabAnswer m 6 0 poison data.length data
    | 2 => s.fabAnswer m 8 0 poison 8 (bytesAt data 0 8)
    | 4 => s.fabAnswer m 7 (if data = [0] then 0 else 0x10) false 0 []
    | _ => s.fabAnswer m 7 0 false 0 []

/-- Answer the inbound requests whose lines have all been performed. -/
def State.settleInbound (s : State) : State :=
  s.fab.inbound.foldl (fun s x =>
    let l := x.2.lines.map (fun id => sfind s.rsps id)
    if l.all (fun r => r.any (fun m => m.performed)) then
      let s := { s with fab := { s.fab with inbound := sdel s.fab.inbound x.1 },
                        rsps := s.rsps.filter (fun p => !x.2.lines.contains p.1) }
      s.answerInbound x.2.msg (l.filterMap id)
    else s) s

end Sys2Proof.Machine
end

