-- ==== Sys2Proof/Machine/Epm.lean ====
section
/-! DEFINITION. The epoch manager (chapter 5): update rings, delta batches, flips, refusals and retreats, drains, compaction and
discards. -/
namespace Sys2Proof.Machine

/-- EPM_COUNTS: 0 ROWS_APPLIED, 1 ROWS_COMPACTED, 2 FLIPS, 3 REFUSALS_SENT, 4 RETREATS, 5 LATE_REFUSALS. -/
def State.epmCount (s : State) (k : Nat) : State := s.bump 0x6801 2 k

/-! ### Rings (R146, R147) -/

/-- RING_CFG: BASE, ACID, the size and ENABLE (R172). -/
def State.ringBase (s : State) (g : Nat) : Nat := s.rdN 0x6810 g 0 8
def State.ringAcid (s : State) (g : Nat) : Nat := s.rdN 0x6810 g 8 2 % 4096
def State.ringSize (s : State) (g : Nat) : Nat := 2 ^ s.rdN 0x6810 g 10 1
def State.ringOn (s : State) (g : Nat) : Bool := s.rdN 0x6810 g 11 1 = 1
def State.ringTail (s : State) (g : Nat) : Nat := s.rdN 0x6811 g 0 4

/-- A ring is quiescent for RWQ (R172). -/
def State.ringQuiet (s : State) (g : Nat) : Bool :=
  !s.ringOn g || ((s.ring g).head = s.ringTail g && (s.ring g).batch.isNone)

/-- RING_CFG took effect: head, tail and stream start at 0 (R146); the count of completed batches is RING_STATUS's own. -/
def State.ringApplied (s : State) (g : Nat) : State := s.setRing g { done := (s.ring g).done }

/-- The EPM is under a unit reset (Table 17.2). -/
def State.epmResetting (s : State) : Bool := s.faults.resets.contains (uEpm * 256)

/-- The EPM does no work now. -/
def State.epmStill (s : State) : Bool := s.frozen || s.epmResetting

/-- Batches that apply now, over all rings. -/
def State.epmBatches (s : State) : Nat := (s.epm.rings.filter (fun r => r.2.batch.isSome)).length

/-- Fields of a delta batch descriptor (Table 5.4). OP: 0 WRITE, 1 DELETE, 2 SEAL. -/
def bdEpoch (b : Bytes) : Nat := fld b 448 64
def bdKeys (b : Bytes) : Nat := fld b 391 57
def bdData (b : Bytes) : Nat := fld b 327 57
def bdDone (b : Bytes) : Nat := fld b 263 57
def bdBatch (b : Bytes) : Nat := fld b 240 16
def bdCount (b : Bytes) : Nat := fld b 223 17
def bdTable (b : Bytes) : Nat := fld b 211 12
def bdAcid (b : Bytes) : Nat := fld b 199 12
def bdOp (b : Bytes) : Nat := fld b 196 3
def bdStride (b : Bytes) : Nat := fld b 181 15 + 1
def bdSeq (b : Bytes) : Nat := fld b 173 8

/-- What BATCH_FAILED keeps of a SEAL, which has no batch number. -/
def sealMark : Nat := 65536

/-- The number by which BATCH_FAILED keeps a batch. -/
def bdMark (q : Bytes) : Nat := if bdOp q = 2 then sealMark else bdBatch q

/-- The checks of R149 before a key is read. -/
def State.batchCheck (s : State) (b : Bytes) : Nat :=
  let d := s.tableDesc (bdTable b)
  let t := s.table (bdTable b)
  let imm := tdImm d
  if decide (2 < bdOp b) || fld b 0 173 ≠ 0 || fld b 256 7 ≠ 0 || fld b 320 7 ≠ 0 || fld b 384 7 ≠ 0 ||
      decide (65536 < bdCount b) || !tdValid d || (bdOp b = 1 && tdKind d ≠ 2) || (bdOp b = 2 && imm) ||
      decide (bdStride b < tdRowBytes d) then bsMalformed
  else if !imm && decide (tsDraining ≤ t.state) then bsNotReady
  else if bdEpoch b ≠ (if imm then 0 else (t.epoch + 1) % 2 ^ 64) then bsBadEpoch
  else if !imm && bdOp b ≠ 2 && (t.state = tsSealed || t.state = tsReady) && decide (t.n ≤ bdBatch b) then bsBadBatch
  else if bdOp b = 2 && t.n ≠ 0xFFFF_FFFF && t.n ≠ bdCount b then bsBadBatch
  else bsOk

/-- A ring's descriptor was read: its batch starts. A batch that passes the checks moves a SERVING table to STAGING (Table 5.3). An
empty descriptor stands for one behind a lost port (Table 14.10). -/
def State.batchBegin (s : State) (g : Nat) (b : Bytes) : State :=
  let x := s.ring g
  let st := if b.isEmpty then bsHostLost else s.batchCheck b
  let n := bdTable b
  let t := s.table n
  let s := if st = bsOk && t.live && t.state = tsServing then s.setTable n { t with state := tsStaging } else s
  let s := s.setRing g { x with ready := none, retry := none, fresh := false,
                                batch := some { desc := b, tdesc := s.tableDesc n, since := s.now,
                                                status := if st = bsOk then none else some st } }
  { s with epm := { s.epm with last := g } }

/-- A descriptor read failed (R147): the schedule of R266 starts or goes on. -/
def State.ringBad (s : State) (g : Nat) : State :=
  let x := s.ring g
  s.setRing g { x with fresh := false, retry := some (match x.retry with
    | some r => { r with issued := r.issued + 1, returned := r.returned + 1 }
    | none => { f := s.now }) }

/-- Read the descriptor at a ring's head and check its SEQ (R147). -/
def State.ringRead (s : State) (g : Nat) : State :=
  let x := s.ring g
  let good (s : State) (b : Bytes) : State :=
    if s.epmBatches < 4 then s.batchBegin g b else s.setRing g { s.ring g with ready := some b, retry := none, fresh := false }
  let (s, b, poison, e) := s.vread (.epm g) .ctl (s.ringAcid g) (s.ringBase g + 64 * x.head) 64
  match e with
  | .fault ty l a => (s.engineFault (s.ringAcid g) ty l a .read 3 g).ringBad g
  | .hostLost => good s []
  | .none => if !poison && bdSeq b = x.stream % 256 then good s b else s.ringBad g

/-- The ring whose batch starts next: in ring number order after the one started last (R146). -/
def State.nextRing (s : State) : Option Nat :=
  (List.range 8).findSome? (fun k =>
    let g := (s.epm.last + 1 + k) % 8
    let x := s.ring g
    if s.ringOn g && x.head ≠ s.ringTail g && !x.ahead && x.batch.isNone && x.retry.isNone then some g else none)

/-- EPM_BATCH_START: at most 4 batches apply at a time. -/
def State.epmStart (s : State) : State :=
  if s.epmStill || decide (4 ≤ s.epmBatches) then s
  else match s.nextRing with
    | none => s
    | some g =>
      match (s.ring g).ready with
      | some b => s.batchBegin g b
      | none => s.direct (.ring g) (fun s => s.ringRead g)

def execEpmBatchStart (s : State) : Answer := .next s.epmStart

/-- RING_REREAD (R147): a re-read of the schedule, or the fresh read of a ring that was resumed. -/
def State.ringReread (s : State) (g : Nat) : State :=
  match (s.ring g).retry with
  | some r => if !s.epmStill && s.retryDue r then s.direct (.ring g) (fun s => s.ringRead g) else s
  | none => if !s.epmStill && (s.ring g).fresh then s.direct (.ring g) (fun s => s.ringRead g) else s

def execRingReread (ring : Fin 8) (s : State) : Answer := .next (s.ringReread ring)

/-- RING_STALL (R147): the ring's state becomes RING_AHEAD. -/
def State.ringStall (s : State) (g : Nat) : State :=
  let x := s.ring g
  if !s.epmStill && x.retry.any (fun r => s.retryOver r) then
    (s.setRing g { x with ahead := true, retry := none }).fire uEpm 0 1 { mUnit := uEpm, acid := s.ringAcid g }
  else s

def execRingStall (ring : Fin 8) (s : State) : Answer := .next (s.ringStall ring)

/-- RING_RESUME's effect (R147): the schedule starts again with a fresh read of the descriptor, issued at once. -/
def State.ringResume (s : State) (g : Nat) : State :=
  let x := s.ring g
  if !x.ahead then s
  else (s.setRing g { x with ahead := false, retry := none, fresh := true }).prefetch (.ring g) (fun s => s.ringRead g)

/-! ### Applying rows (R150 to R153, R169) -/

/-- What a directory search for an insert found (R104, R150): the ID's entry, or the first entry that an insert may take; each with
its address and its index. -/
inductive DirFound where
  | entry (va idx : Nat) (e : Bytes)
  | absent (ins : Option (Nat × Nat × Bytes))
  deriving DecidableEq, Repr

/-- An insert may take an entry: it is FREE, or a TOMB of another key with NEXT_VALID = 0. -/
def deTakes (e : Bytes) : Bool := deFree e || (deState e = 2 && !deNextValid e)

/-- Search the directory of a table, `n` more buckets from probe `p`. -/
def jFind (w : JobFor) (d : Bytes) (id : Nat) : Nat → Nat → Option (Nat × Nat × Bytes) → Job DirFound
  | 0, _, ins => pure (.absent ins)
  | n + 1, p, ins => do
    let va := bucketVa d id p
    let idx := (va - tdDirBase d) / 32
    let b ← jRead w (tdAcid d) va 64
    let e0 := bytesAt b 0 32
    let e1 := bytesAt b 32 32
    let take (ins : Option (Nat × Nat × Bytes)) (j : Nat) (e : Bytes) : Option (Nat × Nat × Bytes) :=
      if ins.isNone && deTakes e then some (va + 32 * j, idx + j, e) else ins
    match bucketFind b id with
    | .found j e => pure (.entry (va + 32 * j) (idx + j) e)
    | .stop => pure (.absent (if deFree e0 then take ins 0 e0 else take (take ins 0 e0) 1 e1))
    | .onward => jFind w d id n (p + 1) (take (take ins 0 e0) 1 e1)

/-- Take a sideboard index (R142) and write its owner. -/
def jTakeIndex (w : JobFor) (n : Nat) (d : Bytes) (owner : Nat) : Job Nat := do
  let s ← get
  let t := s.table n
  let ec := s.epochCfg n
  if ecSlots ec ≤ t.cursor then throw bsNoSlot
  else
    let i := t.cursor
    set (s.setTable n { t with cursor := i + 1 })
    let va := 8192 + ecSb ec + 8 * i
    jHome (tdAcid d) va 8 true
    jWrite w (tdAcid d) va (natLe owner 8)
    pure i

/-- Take a home slot from the home cursor (R150). -/
def jTakeHome (n : Nat) (d : Bytes) : Job Nat := do
  let s ← get
  let t := s.table n
  if tdRowsM1 d < t.homeCur then throw bsNoSlot
  else
    set (s.setTable n { t with homeCur := t.homeCur + 1 })
    pure t.homeCur

/-- Write a row to sideboard slot i (R143). -/
def jSlot (w : JobFor) (n : Nat) (d : Bytes) (i : Nat) (row : Bytes) : Job Unit := do
  let va := slotVa d ((← get).epochCfg n) (.side i)
  jHome (tdAcid d) va row.length true
  jWrite w (tdAcid d) va row

/-- WRITE of a DIRECT or HASHED row. -/
def jWriteRowed (w : JobFor) (n : Nat) (d : Bytes) (num tag : Nat) (row : Bytes) : Job Unit := do
  let va := ecVer ((← get).epochCfg n) + 8 * num
  jHome (tdAcid d) va 8 true
  let v ← jRead w (tdAcid d) va 8
  let i ← if veValid v && veTag v = tag then pure (veNext v) else jTakeIndex w n d num
  jSlot w n d i row
  jSwap w (tdAcid d) va (veMake i tag true)

/-- WRITE of a DIRECTORY row (R152): a next slot of the staged epoch, deleted or not, is written again (log 37). -/
def jWriteDir (w : JobFor) (n : Nat) (d : Bytes) (id tag : Nat) (row : Bytes) : Job Unit := do
  match ← jFind w d id (tdProbeM1 d + 1) 0 none with
  | .entry va idx e =>
    let i ← if deNextValid e && deNextTag e = tag then pure (deNext e) else jTakeIndex w n d idx
    jSlot w n d i row
    jSwap w (tdAcid d) va (deMake (deKey e) (deHome e) i (deHomeTag e) tag false true (deState e))
  | .absent (some (va, idx, e)) =>
    let i ← jTakeIndex w n d idx
    jSlot w n d i row
    let home ← if deFree e then jTakeHome n d else pure (deHome e)
    jSwap w (tdAcid d) va (deMake id home i (deHomeTag e) tag false true 2)
  | .absent none => throw bsDirFull

/-- DELETE of a DIRECTORY row: of an ID without an entry it does nothing. -/
def jDelete (w : JobFor) (d : Bytes) (id tag : Nat) : Job Unit := do
  match ← jFind w d id (tdProbeM1 d + 1) 0 none with
  | .entry va _ e =>
    if tdImm d then
      if deState e = 1 then
        jSwap w (tdAcid d) va (deMake (deKey e) (deHome e) (deNext e) (deHomeTag e) (deNextTag e) (deNextDel e) (deNextValid e) 2)
      else pure ()
    else jSwap w (tdAcid d) va (deMake (deKey e) (deHome e) (deNext e) (deHomeTag e) tag true true (deState e))
  | .absent _ => pure ()

/-- WRITE of an IMMEDIATE row (R169): the home slot in place, then an insert's swap to USED. -/
def jWriteImm (w : JobFor) (n : Nat) (d : Bytes) (id : Nat) (row : Bytes) : Job Unit := do
  if tdKind d = 2 then
    match ← jFind w d id (tdProbeM1 d + 1) 0 none with
    | .entry va _ e =>
      jWrite w (tdAcid d) (tdBase d + deHome e * tdStride d) row
      if deState e = 1 then pure ()
      else jSwap w (tdAcid d) va (deMake id (deHome e) (deNext e) (deHomeTag e) (deNextTag e) (deNextDel e) (deNextValid e) 1)
    | .absent (some (va, _, e)) =>
      let home ← if deFree e then jTakeHome n d else pure (deHome e)
      jWrite w (tdAcid d) (tdBase d + home * tdStride d) row
      jSwap w (tdAcid d) va (deMake id home 0 0 0 false false 1)
    | .absent none => throw bsDirFull
  else
    let num := if tdKind d = 0 then id else reduce (mix id (tdSeed d)) (tdRowsM1 d + 1)
    jWrite w (tdAcid d) (tdBase d + num * tdStride d) row

/-- One row of a batch: its key, its source row, and what they do to the table. -/
def jRow (g : Nat) (b : Batch) : Job Unit := do
  let w : JobFor := .ring g
  let q := b.desc
  let d := b.tdesc
  let n := bdTable q
  let kb ← jRead w (bdAcid q) (bdKeys q + 8 * b.next) 8
  let id := leNat kb
  let tag := bdEpoch q % 2 ^ 16
  if bdOp q = 1 then jDelete w d id tag
  else if tdKind d = 0 && decide (tdRowsM1 d < id) then throw bsMalformed
  else
    let src ← jRead w (bdAcid q) (bdData q + bdStride q * b.next) (tdRowBytes d)
    if tdImm d then jWriteImm w n d id src
    else if tdKind d = 2 then jWriteDir w n d id tag src
    else jWriteRowed w n d (if tdKind d = 0 then id else reduce (mix id (tdSeed d)) (tdRowsM1 d + 1)) tag src

/-- An access of a ring's batch waits (R385). -/
def State.markBatch (s : State) (g : Nat) (p : Nat × Page) : State :=
  let x := s.ring g
  match x.batch with
  | some b => if b.held.isSome then s else s.setRing g { x with batch := some { b with held := some (s.now, p) } }
  | none => s

/-- The batch's access has been made: it is settled for every invalidation (R385). -/
def State.unmarkBatch (s : State) (g : Nat) : State :=
  let x := s.ring g
  match x.batch with
  | some b => if b.held.isSome then (s.setRing g { x with batch := some { b with held := none } }).settle (.epm g) false else s
  | none => s

/-- The batch of a ring changes. -/
def State.onBatch (s : State) (g : Nat) (f : Batch → Batch) : State :=
  let x := s.ring g
  s.setRing g { x with batch := x.batch.map f }

/-- A batch ended at a failing row (R150): its table records BATCH_FAILED, and BATCH_FAILED fires. -/
def State.batchFail (s : State) (g : Nat) (b : Batch) (st : Nat) : State :=
  let n := bdTable b.desc
  let t := s.table n
  let s := s.onBatch g (fun b => { b with status := some st })
  let s := if t.live then s.setTable n { t with failed := bdMark b.desc :: t.failed.filter (fun x => x ≠ bdMark b.desc) } else s
  s.fire uEpm 0 2 { mUnit := uEpm, acid := tdAcid b.tdesc }

/-- The batch of another ring is writing outside the device for the same table: rows of one table are not applied across such a write. -/
def State.tableHeld (s : State) (g n : Nat) : Bool :=
  s.coh.eng.any (fun e => match e.job, e.key with
    | .ring h, .put _ _ _ => h ≠ g && ((s.ring h).batch.map (fun b => bdTable b.desc)) = some n
    | _, _ => false)

/-- BATCH_ROW_APPLY: the next row of the ring's batch, whole; a row that must wait leaves the batch as it is. R149 checks a batch once,
before its first key: one whose table is flipped or discarded meanwhile goes on unchecked (DESIGN CHOICE, log 89). -/
def State.rowApply (s : State) (g : Nat) : State :=
  match (s.ring g).batch with
  | none => s
  | some b =>
    if s.epmStill || b.status.isSome || bdOp b.desc = 2 || decide (bdCount b.desc ≤ b.next) || s.tableHeld g (bdTable b.desc) then s
    else
      s.directFor (.ring g) (fun s p => s.markBatch g p) (fun s =>
        let s := s.unmarkBatch g
        match (jRow g b).go s with
        | (.ok _, s) => (s.onBatch g (fun b => { b with next := b.next + 1, applied := b.applied + 1 })).epmCount 0
        | (.error st, s) => s.batchFail g b st)

def execBatchRowApply (ring : Fin 8) (s : State) : Answer := .next (s.rowApply ring)

/-! ### The end of a batch (R148, R149, R151) -/

/-- Every bit 0 to n - 1 of the batch bitmap is set. -/
def bitmapFull (b : Bytes) (n : Nat) : Bool := leNat b % 2 ^ n = 2 ^ n - 1

/-- Batches 0 to `k` - 1 of the staged epoch have been applied. -/
def jAllApplied (w : JobFor) (n : Nat) (d : Bytes) (k : Nat) : Job Bool := do
  let va := ecSb ((← get).epochCfg n)
  jHome (tdAcid d) va (ceilDiv k 8) false
  let b ← jRead w (tdAcid d) va (ceilDiv k 8)
  pure (bitmapFull b k)

/-- A SEALED table all of whose batches have been applied in full is READY (Table 5.3, R150). -/
def State.readyIf (s : State) (n : Nat) (full : Bool) : State :=
  let t := s.table n
  if t.state = tsSealed && full && t.failed.all (fun k => decide (t.n ≤ k)) then
    s.setTable n { t with state := tsReady, failed := [] }
  else s

/-- A batch was applied in full: its bitmap bit is set, counted once (R151); a SEAL seals the staged epoch. -/
def jBatchDone (g : Nat) (b : Batch) : Job Unit := do
  let w : JobFor := .ring g
  let q := b.desc
  let d := b.tdesc
  let n := bdTable q
  if tdImm d then pure ()
  else if bdOp q = 2 then
    let full ← jAllApplied w n d (bdCount q)
    modify (fun s =>
      let t := s.table n
      (s.setTable n { t with n := bdCount q, state := if t.state = tsStaging then tsSealed else t.state,
                             failed := t.failed.filter (fun k => k ≠ sealMark) }).readyIf n full)
  else
    let va := ecSb ((← get).epochCfg n) + bdBatch q / 8
    let m := 2 ^ (bdBatch q % 8)
    jHome (tdAcid d) va 1 true
    let old ← jRead w (tdAcid d) va 1
    if (leNat old).testBit (bdBatch q % 8) then pure ()
    else
      jWrite w (tdAcid d) va (natLe (leNat old + m) 1)
      modify (fun s => s.setTable n { s.table n with applied := (s.table n).applied + 1 })
    modify (fun s => s.setTable n { s.table n with failed := (s.table n).failed.filter (fun k => k ≠ bdBatch q) })
    let t := (← get).table n
    if t.state = tsSealed then
      let full ← jAllApplied w n d t.n
      modify (fun s => s.readyIf n full)
    else pure ()

/-- Write the completion word (Table 5.5), and advance the ring's head; a word behind a lost port, or one that faults, is not
written. -/
def State.batchEnd (s : State) (g : Nat) : State :=
  match (s.ring g).batch with
  | none => s
  | some b =>
    match b.status with
    | none => s
    | some st =>
      let q := b.desc
      let s :=
        if bdDone q = 0 then s
        else
          let (s, e) := s.vwrite (.epm g) .ctl (bdAcid q) (bdDone q) (natLe (st + 2 ^ 32 * b.applied) 8)
          match e with
          | .fault ty l a => s.engineFault (bdAcid q) ty l a .write 3 g
          | _ => s
      let x := s.ring g
      s.setRing g { x with batch := none, head := (x.head + 1) % s.ringSize g, stream := x.stream + 1, done := x.done + 1 }

/-- All of a batch's rows have been applied: its bitmap bit, or its seal. -/
def State.batchDone (s : State) (g : Nat) (b : Batch) : State :=
  s.directFor (.ring g) (fun s p => s.markBatch g p) (fun s =>
    let s := s.unmarkBatch g
    match (jBatchDone g b).go s with
    | (.ok _, s) => s.onBatch g (fun b => { b with status := some bsOk })
    | (.error st, s) => s.batchFail g b st)

/-- A batch's status is final, and its fault's record, if any, has been decided (R382). -/
def Batch.over (b : Batch) : Bool := b.status.isSome && !b.undecided

/-- BATCH_COMPLETE: the batch has applied its rows or has failed; its bitmap bit is written before its completion word. -/
def State.batchComplete (s : State) (g : Nat) : State :=
  match (s.ring g).batch with
  | none => s
  | some b =>
    if s.epmStill || b.undecided || (b.status.isNone && bdOp b.desc ≠ 2 && decide (b.next < bdCount b.desc)) then s
    else
      let s := if b.status.isSome then s else s.batchDone g b
      if (s.ring g).batch.any Batch.over then
        s.directFor (.ring g) (fun s p => s.markBatch g p) (fun s => (s.unmarkBatch g).batchEnd g)
      else s

def execBatchComplete (ring : Fin 8) (s : State) : Answer := .next (s.batchComplete ring)

/-- A batch whose access has waited 50 µs under an invalidation ends with FAULT and writes no record (R385). -/
def State.epmCancel (s : State) (g : Nat) : State :=
  match (s.ring g).batch with
  | none => s
  | some b =>
    match b.held with
    | some (t, _) =>
      if decide (50000 ≤ since s.now t) && s.heldByInv (.epm g) then
        let s := (s.settle (.epm g) true).mtuCount 7
        let s := (s.onBatch g (fun b => { b with held := none })).endJob (.ring g)
        if b.status.isSome then s else s.batchFail g b bsFault
      else s
    | none => s

/-- The EPM's unit reset (Table 17.2): its batch and compaction pipelines are cleared; table states and rings stay, and a batch
begins again from its descriptor. -/
def State.epmReset (s : State) : State :=
  let held := s.epm.rings.filter (fun r => r.2.batch.any (fun b => b.held.isSome))
  let s := (held.foldl (fun s r => s.settle (.epm r.1) false) s).endJobs (fun j => match j with
    | .ring _ => true
    | .table _ => true
    | _ => false)
  { s with epm := { s.epm with rings := s.epm.rings.map (fun r => (r.1, { r.2 with batch := none, ready := none })) },
           faults := { s.faults with resets := s.faults.resets ++ [uEpm * 256] } }

/-! ### Generations (R134, R163) -/

/-- A generation step is possible: the counter it would reuse is zero. -/
def State.canStep (s : State) : Bool := sget 0 s.epm.readers ((s.epm.gen + 1) % 16) = 0

/-- The next generation. -/
def State.stepGen (s : State) : State := { s with epm := { s.epm with gen := (s.epm.gen + 1) % 2 ^ 32 } }

/-! ### The flip (R156 to R159) -/

/-- The tables that a 512-byte bitmap names. -/
def named (b : Bytes) : List Nat := (List.range 4096).filter (fun n => bit b n)

/-- What a flip does with a named table (Table 5.6). -/
def State.flipResult (s : State) (n : Nat) : Nat :=
  let d := s.tableDesc n
  let t := s.table n
  if !tdValid d || tdImm d then 1
  else if t.state = tsServing || t.state = tsStaging then 2
  else if t.state = tsSealed then 3
  else if t.state ≠ tsReady then 4
  else if !s.canStep then 5
  else if t.remote then 6
  else 0

/-- A table flips: a new epoch from the new generation on (R135). -/
def EpochSt.flip (t : EpochSt) (gen now : Nat) : EpochSt :=
  { t with prev := t.epoch, prevFrom := t.genChanged, epoch := (t.epoch + 1) % 2 ^ 64, genChanged := gen, state := tsDraining,
           commitAt := now }

/-- An EPOCH_REFUSED payload (Table 5.7). -/
def refusedBytes (gtc epoch gtk node reason : Nat) : Bytes :=
  natLe 0 9 ++ natLe reason 1 ++ natLe node 2 ++ natLe gtk 4 ++ natLe epoch 8 ++ natLe gtc 8

/-- A refused table: its REMOTE hold is consumed by a REMOTE refusal; INCOMPLETE, NOT_SEALED and GEN_FULL are broadcast where the
table has a GTK (R159, R161). -/
def State.refuse (s : State) (n r : Nat) : State :=
  let t := s.table n
  let gtk := ecGtk (s.epochCfg n)
  let s := if r = 6 then s.setTable n { t with remote := false } else s
  let s := if (r = 2 || r = 3 || r = 5) && gtk ≠ 0 then
      (s.broadcast 0x10 (refusedBytes s.now ((t.epoch + 1) % 2 ^ 64) gtk s.node.toNat r)).epmCount 3
    else s
  s.fire uEpm 0 3 { mUnit := uEpm, acid := tdAcid (s.tableDesc n) }

/-- EPM_FLIP: every named table is judged as it stood before, then all that flip do so in one new generation (R157). -/
def State.epmFlip (s : State) (b : Bytes) : State :=
  let rs := (named b).map (fun n => (n, s.flipResult n))
  let any := rs.any (fun p => p.2 = 0)
  let s1 := if any then s.stepGen else s
  let s1 := rs.foldl (fun s p =>
    if p.2 = 0 then (s.setTable p.1 ((s.table p.1).flip s.epm.gen s.now)).epmCount 2 else s.refuse p.1 p.2) s1
  { s1 with epm := { s1.epm with flip := rs } }

/-! ### Refusal and retreat (R160 to R162) -/

/-- A table retreats (R160): EPOCH and prev_epoch exchange. -/
def EpochSt.retreat (t : EpochSt) (gen now : Nat) : EpochSt :=
  { t with epoch := t.prev, prev := t.epoch, prevFrom := t.genChanged, genChanged := gen, state := tsRetreat, commitAt := now }

/-- The tables of a retreat move in one new generation; one that has left DRAINING since stays. -/
def State.doRetreat (s : State) (l : List Nat) : State :=
  let l := l.filter (fun n => (s.table n).state = tsDraining)
  if l.isEmpty then s
  else l.foldl (fun s n =>
    ((s.setTable n ((s.table n).retreat s.epm.gen s.now)).epmCount 4).fire uEpm 0 3
      { mUnit := uEpm, acid := tdAcid (s.tableDesc n) }) s.stepGen

/-- Retreats that waited for their generation take place, in order. -/
def State.tryRetreats (s : State) : State :=
  match s.epm.retreats with
  | [] => s
  | l :: rest => if s.canStep && !s.epmStill then ({ s with epm := { s.epm with retreats := rest } }).doRetreat l else s

/-- EPOCH_REFUSED from another node (R160). -/
def State.epochRefused (s : State) (p : Bytes) : State :=
  let epoch := fld p 128 64
  let gtk := fld p 96 32
  if s.faults.grave || fld p 80 16 = s.node.toNat || gtk = 0 then s
  else
    let mine := (s.epm.tables.filter (fun t => t.2.live && ecGtk (s.epochCfg t.1) = gtk)).map (fun t => t.1)
    let back := mine.filter (fun n => (s.table n).state = tsDraining && (s.table n).epoch = epoch)
    let s := mine.foldl (fun s n =>
      let t := s.table n
      if (t.state = tsStaging || t.state = tsSealed || t.state = tsReady) && (t.epoch + 1) % 2 ^ 64 = epoch then
        s.setTable n { t with remote := true }
      else if (t.state = tsCompacting || t.state = tsServing) && t.epoch = epoch then s.epmCount 5
      else s) s
    if back.isEmpty then s
    else if s.canStep && s.epm.retreats.isEmpty then s.doRetreat back
    else { s with epm := { s.epm with retreats := s.epm.retreats ++ [back] } }

def execEpochRefusedReceive (payload : Bytes) (s : State) : Answer := .next (s.epochRefused payload)

/-! ### Draining and compaction (R163 to R167) -/

/-- Every reader counter of the generations from a up to b - 1 is zero, among the 16 newest. -/
def State.readersGone (s : State) (a b : Nat) : Bool :=
  (List.range 16).all (fun d =>
    let x := (2 ^ 32 + s.epm.gen - d) % 2 ^ 32
    !(genLe a x && !genLe b x) || sget 0 s.epm.readers (x % 16) = 0)

/-- DRAIN_COMPLETE (R163): DRAINING goes on to COMPACTING, RETREAT to READY. -/
def State.drainDone (s : State) (n : Nat) : State :=
  let s := s.tryRetreats
  let t := s.table n
  if s.epmStill || !t.twoLive || !s.readersGone t.prevFrom t.genChanged || s.inboundParts n ≠ 0 ||
      decide (since s.now t.commitAt < 1000000 * s.rdN 0x6801 1 0 4) || s.epm.retreats.any (fun l => l.contains n) then s
  else if t.state = tsDraining then s.setTable n { t with state := tsCompacting, compactAt := 0, stopped := false, endGen := none }
  else s.setTable n { t with state := tsReady }

def execDrainComplete (table : Fin 4096) (s : State) : Answer := .next (s.drainDone table)

/-- One owned index of a compaction (R165) or of a discard (R168). -/
def jCompact (n : Nat) (d : Bytes) (i : Nat) : Job Bool := do
  let w : JobFor := .table
  let acid := tdAcid d
  let ec := (← get).epochCfg n
  let sweep := decide (((← get).table n).state = tsDiscarding)
  let own := 8192 + ecSb ec + 8 * i
  jHome acid own 8 false
  let o := leNat (← jRead w acid own 8)
  if o = 2 ^ 64 - 1 then pure false
  else if tdKind d = 2 then
    let va := tdDirBase d + 32 * o
    let e ← jRead w acid va 32
    if !deNextValid e then pure false
    else if sweep then
      if deNext e ≠ i then pure false
      else
        jSwap w acid va (deMake (deKey e) (deHome e) (deNext e) (deHomeTag e) (deNextTag e) (deNextDel e) false (deState e))
        pure true
    else if deNextDel e then
      jSwap w acid va (deMake (deKey e) (deHome e) (deNext e) (deNextTag e) (deNextTag e) true false 2)
      pure true
    else if deNext e ≠ i then pure false
    else
      let sva := slotVa d ec (.side i)
      jHome acid sva (tdRowBytes d) false
      let row ← jRead w acid sva (tdRowBytes d)
      jWrite w acid (tdBase d + deHome e * tdStride d) row
      jSwap w acid va (deMake (deKey e) (deHome e) i (deNextTag e) (deNextTag e) false false 1)
      pure true
  else
    let va := ecVer ec + 8 * o
    jHome acid va 8 true
    let v ← jRead w acid va 8
    if !veValid v || veNext v ≠ i then pure false
    else if sweep then
      jSwap w acid va (veMake (veNext v) (veTag v) false)
      pure true
    else
      let sva := slotVa d ec (.side i)
      jHome acid sva (tdRowBytes d) false
      let row ← jRead w acid sva (tdRowBytes d)
      jWrite w acid (tdBase d + o * tdStride d) row
      jSwap w acid va (veMake i (veTag v) false)
      pure true

/-- A fault or poison stops the table's compaction: COMPACT_STOP fires, with the EPM's unit reset (R167). -/
def State.compactStop (s : State) (n : Nat) : State :=
  let s := s.setTable n { s.table n with stopped := true }
  s.fireWith id State.epmReset id uEpm 0 0 { access := 2, mUnit := uEpm, aspace := 1, acid := tdAcid (s.tableDesc n) }

/-- COMPACTION_STEP: the next index of a table's compaction or discard sweep. -/
def State.compactStep (s : State) (n : Nat) : State :=
  let t := s.table n
  if s.epmStill || !(t.state = tsCompacting || t.state = tsDiscarding) || t.stopped || decide (t.cursor ≤ t.compactAt) then s
  else
    s.direct (.table n) (fun s =>
      match (jCompact n (s.tableDesc n) t.compactAt).go s with
      | (.ok did, s) =>
        let s := s.setTable n { s.table n with compactAt := t.compactAt + 1 }
        if did && t.state = tsCompacting then s.epmCount 1 else s
      | (.error _, s) => s.compactStop n)

def execCompactionStep (table : Fin 4096) (s : State) : Answer := .next (s.compactStep table)

/-- Clear the batch bitmap: the table is SERVING with an empty sideboard (R166, R168). -/
def jServe (n : Nat) (d : Bytes) : Job Unit := do
  let va := ecSb ((← get).epochCfg n)
  jHome (tdAcid d) va 8192 true
  jWrite .table (tdAcid d) va (zeros 8192)
  modify (fun s =>
    let t := s.table n
    s.setTable n { t with state := tsServing, cursor := 0, applied := 0, n := 0xFFFF_FFFF, compactAt := 0, endGen := none,
                          failed := [], remote := if t.state = tsDiscarding then false else t.remote })

/-- Requests with an older snapshot, and parts of the table that started before a generation, are gone (R166). -/
def State.earlierGone (s : State) (n g : Nat) : Bool :=
  s.readersGone (2 ^ 32 + g - 16) g &&
  s.gpes.all (fun x => x.2.cmds.all (fun c => !(c.2.pd.isSome && c.2.table = n && !genLe g c.2.gen)))

/-- COMPACTION_END: the walk's end steps the generation, once it can; then, once every earlier reader is gone, the table is SERVING. -/
def State.compactEnd (s : State) (n : Nat) : State :=
  let s := s.tryRetreats
  let t := s.table n
  if s.epmStill || t.state ≠ tsCompacting || t.stopped || decide (t.compactAt < t.cursor) then s
  else
    match t.endGen with
    | none =>
      if s.canStep then
        let s := s.stepGen
        s.setTable n { t with endGen := some s.epm.gen }
      else s
    | some g =>
      if !s.earlierGone n g then s
      else s.direct (.table n) (fun s =>
        match (jServe n (s.tableDesc n)).go s with
        | (.ok _, s) => s
        | (.error _, s) => s.compactStop n)

def execCompactionEnd (table : Fin 4096) (s : State) : Answer := .next (s.compactEnd table)

/-! ### Discards (R168) -/

/-- EPM_DISCARD is accepted: every named table is STAGING, SEALED or READY. -/
def State.discardOk (s : State) (b : Bytes) : Bool :=
  (named b).all (fun n =>
    let t := s.table n
    t.live && (t.state = tsStaging || t.state = tsSealed || t.state = tsReady))

/-- EPM_DISCARD's effect: the sweeps begin. -/
def State.epmDiscard (s : State) (b : Bytes) : State :=
  (named b).foldl (fun s n => s.setTable n { s.table n with state := tsDiscarding, compactAt := 0, stopped := false }) s

/-- Sweep the indices that are left. -/
def jSweep (n : Nat) (d : Bytes) (i : Nat) : Nat → Job Unit
  | 0 => pure ()
  | k + 1 => do
    let _ ← jCompact n d i
    jSweep n d (i + 1) k

/-- DISCARD_SWEEP_END: what the sweep's steps have left is swept, and the table is SERVING at the old EPOCH. -/
def State.discardEnd (s : State) (n : Nat) : State :=
  let t := s.table n
  if s.epmStill || t.state ≠ tsDiscarding || t.stopped then s
  else
    s.direct (.table n) (fun s =>
      match ((do
        jSweep n (s.tableDesc n) t.compactAt (t.cursor - t.compactAt)
        jServe n (s.tableDesc n)) : Job Unit).go s with
      | (.ok _, s) => s
      | (.error _, s) => s.compactStop n)

def execDiscardSweepEnd (table : Fin 4096) (s : State) : Answer := .next (s.discardEnd table)

/-- EPM_RESUME_TABLE's effect (R167). -/
def State.resumeTable (s : State) (n : Nat) : State := s.setTable n { s.table n with stopped := false }

/-! ### Tables that become VALID, or cease to be (R144, R145) -/

/-- TABLE_DESC took effect, with the descriptor in force before. R145 gives a new table neither prev_epoch nor prev_from, which
EPOCH_STATE shows: they are INIT_EPOCH and the generation in force (DESIGN CHOICE, log 90). -/
def State.tableApplied (s : State) (n : Nat) (was : Bytes) : State :=
  let d := s.tableDesc n
  if tdValid d && !tdValid was then
    let ec := s.epochCfg n
    if tdImm d then s.setTable n { homeCur := ecHome ec }
    else s.setTable n { live := true, epoch := ecInit ec, prev := ecInit ec, genChanged := s.epm.gen, prevFrom := s.epm.gen,
                        homeCur := ecHome ec }
  else if !tdValid d && tdValid was then s.setTable n {}
  else s

/-- VALID of a versioned table may be cleared (R145). -/
def State.tableIdle (s : State) (n : Nat) : Bool := (s.table n).state = tsServing && s.inboundParts n = 0

/-- REQUEST_END (R163): the reader counter drops, which may let a retreat's generation step. -/
def execRequestEnd (req : Nat) (s : State) : Answer :=
  .next (if !s.frozen && (s.req req).phase = 5 then (s.endReq req).tryRetreats else s)

end Sys2Proof.Machine
end

