-- ==== Sys2Proof/Machine/Memory.lean ====
section
/-! DEFINITION. The commands of the shelves, the slices and the MTU that no dictionary request brings (chapters 10 to 13). A command
whose event is not due leaves the state as it is (log 10). -/
namespace Sys2Proof.Machine

/-! ### Slices -/

/-- SLICE_ACCESS with what the slice's storage showed: TAG_CE and DATA_UE are class A, TAG_UE and SNF_UE class D. -/
def State.sliceAccess (s : State) (i : Nat) (found : SliceFinding) : State :=
  if s.faults.grave then s
  else
    let next := (s.slice i).inq.head?
    let h : Hit := match next with
      | some r => r.hit
      | none => { mUnit := uDca, mNum := i }
    match found with
    | .clean => s.sliceServe i
    | .tagCe => (s.fire uDca i 0 h).sliceServe i
    | .dataUe =>
      let s := match next with
        | some r =>
          match (s.slice i).lookup r.tgt.key with
          | some k => s.setSlice i ((s.slice i).setWay k { (s.slice i).way k with poison := true })
          | none => s
        | none => s
      (s.fire uDca i 1 h).sliceServe i
    | .tagUe => s.fire uDca i 3 h
    | .snfUe => s.fire uDca i 4 h

/-- SLICE_ACCESS (R318). -/
def execSliceAccess (slice : Fin 16) (found : SliceFinding) (s : State) : Answer :=
  .next (s.sliceAccess slice found).settleInbound

/-- MISS_FILL_RETURN (R321). -/
def execMissFillReturn (slice : Fin 16) (fill : Nat) (whole : Bool) (s : State) : Answer :=
  .next (if whole then (s.fillWhole slice fill).answerSnoops.retryHeld.settleStores else s.fillHalf slice fill).settleInbound

/-- VICTIM_WRITEBACK_DONE (R323). -/
def execVictimWritebackDone (slice : Fin 16) (key : Nat) (s : State) : Answer := .next (s.victimDone slice key)

/-- HOST_SNOOP (R328). -/
def execHostSnoop (port : Fin 2) (addr : BitVec 64) (kind : SnoopKind) (s : State) : Answer :=
  .next (if s.linkUp port then s.wakeUp.snoopTry { port := port, addr := addr.toNat, kind := kind } else s)

/-- HOST_CACHE_RESPONSE (R327). -/
def execHostCacheResponse (port : Fin 2) (id : Nat) (ext : ExtData) (s : State) : Answer :=
  .next (s.cacheResponse port id ext).settleStores

/-- HDM_HOST_REQUEST (R330, R404). -/
def execHdmHostRequest (port : Fin 2) (req : HdmReq) (s : State) : Answer := .next (s.wakeUp.hdmArrive port req)

/-- BIRSP_RECEIVE (R331, R334). -/
def execBirspReceive (port : Fin 2) (line : Nat) (rsp : BiRsp) (s : State) : Answer := .next (s.birsp port line rsp)

/-- BI_TIMEOUT (R334). -/
def execBiTimeout (port : Fin 2) (line : Nat) (s : State) : Answer := .next (s.biTimeout port line)

/-- DCA_FLUSH_DONE (R325): the flush goes on as far as the victim buffers have room, and has ended when every line is written. -/
def execDcaFlushDone (s : State) : Answer :=
  .next (if s.coh.flushing && s.pcs.blk = 0 then
      let s := s.flushOn s.flushes
      if s.flushed s.flushes then { s with coh := { s.coh with flushing := false } } else s
    else s)

/-- DCA_INVALIDATE_DONE (R324). The command is done when every slice is. -/
def execDcaInvalidateDone (slice : Fin 16) (s : State) : Answer :=
  .next (if s.coh.invLeft.contains slice.val then
      let s := s.invalidateSlice slice
      let left := s.coh.invLeft.filter (fun i => i ≠ slice.val)
      let s := { s with coh := { s.coh with invLeft := left } }
      if left.isEmpty then s.cmdDone 0x3200 1 else s
    else s)

/-! ### Controllers -/

/-- LINE_READ_RETURN (R301). -/
def execLineReadReturn (ctl : Fin 20) (id : Nat) (ecc : Ecc) (s : State) : Answer :=
  .next (s.lineReturn ctl id ecc).settleInbound

/-- CARVE_TAG_RETURN (R294). -/
def execCarveTagReturn (id : Nat) (ecc : Ecc) (s : State) : Answer := .next (s.tagReturn id ecc).settleInbound

/-- REF_DUE (R308). -/
def execRefDue (ctl : Fin 20) (bank : Nat) (fg : FgWait) (s : State) : Answer := .next (s.refDue ctl bank fg)

/-- A wheel kind has pending work on a controller (R308). -/
def State.bgPending (s : State) (ctl kind : Nat) : Bool :=
  match kind with
  | 1 => true
  | 2 => s.epm.rings.any (fun r => r.2.batch.isSome) || s.epm.tables.any (fun t => t.2.state = 5)
  | 3 => s.ssu.rings.any (fun r => r.2.batch.isSome) || s.ssu.drawers.any (fun d => d.2.rebuild)
  | 4 => s.mtu.sweeps ≠ 0 && decide (ctl < 8)
  | 5 => s.shelves.copies.any (fun c => c.ctl = ctl)
  | _ => false

/-- The work of a slot (Table 10.5). The EPM's and the SSU's own commands carry the work of EPOCH and SESSION slots. -/
def State.bgWork (s : State) (ctl kind : Nat) : State :=
  match kind with
  | 1 => s.scrubStart ctl
  | 4 => s.sweepStep
  | 5 => s.copyStep ctl
  | _ => s

/-- A wheel slot, or a make-up slot of a kind (R307, R308). A REF slot owed to the bank starts first. -/
def State.bgStart (s : State) (ctl bank : Nat) (fg : FgWait) (makeup : Option Nat) : State :=
  if s.selfRefresh || !s.shelves.trained ctl then s
  else if s.shelves.owed.contains (bankKey ctl bank) then
    let (s, _, done) := s.slotDue ctl bank 0 fg
    if done then s.owe ctl bank false else s
  else match makeup with
  | some k =>
    if fg ≠ .none || s.debtOf ctl bank k = 0 || !s.slotFits ctl bank k false then s
    else ((s.setDebt ctl bank k (s.debtOf ctl bank k - 1)).slotStart ctl bank k false false).bgWork ctl k
  | none =>
    let shelf := if ctl < 8 then 0 else 1
    let pos := sget 0 s.shelves.wheelPos shelf
    match (List.range 16).find? (fun i => s.bgPending ctl (s.wheelAt ctl (pos + i))) with
    | none => s
    | some i =>
      let k := s.wheelAt ctl (pos + i)
      let (s, started, _) := s.slotDue ctl bank k fg
      if started then
        State.bgWork { s with shelves := { s.shelves with
          wheelPos := sset 0 s.shelves.wheelPos shelf ((pos + i + 1) % 16) } } ctl k
      else s

/-- BG_SLOT_START (R307). -/
def execBgSlotStart (ctl : Fin 20) (bank : Nat) (fg : FgWait) (makeup : Option (Fin 6)) (s : State) : Answer :=
  .next (s.bgStart ctl bank fg (makeup.map (fun k => k.val)))

/-- BG_SLOT_END (R307). -/
def execBgSlotEnd (ctl : Fin 20) (bank : Nat) (s : State) : Answer := .next (s.slotEnd ctl bank)

/-- PHY_RECAL_DUE (R312). -/
def execPhyRecalDue (ctl : Fin 20) (part : Nat) (ok : Bool) (s : State) : Answer := .next (s.recalDue ctl part ok)

/-- Write every DIRTY way to shelf 2 and clear every entry (R298). -/
def State.carveEmpty (s : State) : State :=
  let s := s.shelves.carve.foldl (fun s kv =>
    if kv.2.valid && kv.2.dirty then
      (s.rawWrite (shelf2Base / 64 + kv.2.line) kv.2.data (kv.2.poison || s.carveDead (kv.1 / 3))).carveCount 3
    else s) s
  { s with shelves := { s.shelves with carve := [] } }

/-- CARVE_FLUSH_DONE (R298). -/
def execCarveFlushDone (s : State) : Answer :=
  .next (if s.shelves.flushing then
      let s := s.carveEmpty
      State.cmdDone { s with shelves := { s.shelves with flushing := false } } 0x3000 3
    else s)

/-! ### The MTU -/

/-- WALK_START (R374). -/
def execWalkStart (s : State) : Answer :=
  .next (match s.mtu.waiting, sfree s.mtu.walkers 64 with
    | w :: rest, some k =>
      let (level, table) := s.walkFrom w.acid w.va
      let w : Walk := { w with level := level, table := table }
      State.mtuCount { s with mtu := { s.mtu with waiting := rest, walkers := sput s.mtu.walkers k w } } 0
    | _, _ => s)

/-- The caches of a transfer. -/
def XferRef.path : XferRef → TlbPath
  | .tile t _ => .tile t
  | .store t _ => .tile t
  | .gpe g _ => .cab (g / 4)
  | .hse c _ => .cab c
  | .epm _ => .ctl
  | .ssu _ => .ctl
  | .eng _ => .ctl

/-- An ATS answer (R371): the result is cached with the leaf, for its waiters' caches or the control TLB. -/
def State.atsAnswer (s : State) (acid : Nat) (t : Target) (r : AtsRes) : State :=
  let hit (w : Walk) : Bool := w.acid = acid && (match w.ats with
                                                | some e => e.tgt = t
                                                | none => false)
  let ws := s.mtu.atsWait.filter hit
  let s := { s with mtu := { s.mtu with atsWait := s.mtu.atsWait.filter (fun w => !hit w) } }
  ws.foldl (fun s w =>
    match w.ats with
    | none => s
    | some e =>
      let e := { e with ats := some r }
      if w.waiters.isEmpty then s.putCtl e
      else w.waiters.foldl (fun s x => s.tlbInstall x.who.path e) s) s

/-- ATS_RESPONSE (R371). -/
def execAtsResponse (port : Fin 2) (acid : Fin 4096) (iova target : BitVec 64) (read write : Bool) (s : State) : Answer :=
  .next (s.atsAnswer acid (.host port iova.toNat) { addr := target.toNat, read := read, write := write })

/-- FAULT_BATCH_WRITE (R380): the batch holds 32 records, or FQ_DELAY has passed since its first. -/
def execFaultBatchWrite (port : Fin 2) (s : State) : Answer :=
  .next (
    let q := s.fq port
    if s.hostHeld port then s
    else if 32 ≤ q.batch.length || decide (1000 * s.fqN port 12 4 ≤ since s.now q.batchAt) then s.writeBatch port else s)

/-- FAULT_BATCH_PERFORMED (R380): every record write of the batch has been performed, and VECTOR of FQ_CFG is raised. -/
def execFaultBatchPerformed (port : Fin 2) (s : State) : Answer :=
  .next (
    let q := s.fq port
    match q.flying with
    | ids :: rest =>
      if ids.all (fun id => !s.unperformed id) then
        ((s.setFq port { q with flying := rest }).forget ids).raise port (s.fqN port 10 1)
      else s
    | [] => s)

/-- INVALIDATION_COMPLETE (R386). -/
def execInvalidationComplete (slot : Fin 8) (s : State) : Answer :=
  .next (
    let s := s.settleStores
    let v := sget {} s.mtu.inv slot.val
    if v.running && v.waits.isEmpty then
      let v := { v with running := false, doneAt := s.now }
      let s := State.cmdDone { s with mtu := { s.mtu with inv := sput s.mtu.inv slot.val v } } 0x4001 slot
      match v.fromPort with
      | some p => if (s.fqN p 9 1).testBit 1 then s.raise p (s.fqN p 11 1) else s
      | none => s
    else s)

/-- An ATS Invalidate Request (R387): the matching results leave every cache, and the completion is sent once the transfers in
flight under them have settled. -/
def State.atsInvalidate (s : State) (p : Nat) (pasid : Option Nat) (lo bytes : Nat) : State :=
  let mine (acid addr size : Nat) : Bool := s.ctxAts acid && s.ctxPort acid = p && s.ctxPasid acid = pasid &&
    decide (addr < lo + bytes) && decide (lo < addr + size)
  let waits := s.matching (fun a g => g.iova.any (fun i => mine a i g.size))
  let s := s.tlbDrop (fun e => e.ats.isSome && e.tgt.onHost p && mine e.acid e.tgt.addr e.size)
  if waits.isEmpty then s.emit (.atsDone p)
  else { s with mtu := { s.mtu with atsInv := s.mtu.atsInv ++ [(p, { running := true, since := s.now, waits := waits })] } }

/-- ATS_INVALIDATE_REQUEST (R387). -/
def execAtsInvalidateRequest (port : Fin 2) (pasid : Option (BitVec 20)) (lo : BitVec 64) (bytes : Nat) (s : State) : Answer :=
  .next (s.atsInvalidate port (pasid.map (fun x => x.toNat)) lo.toNat bytes)

/-- COUNTER_SWEEP_DUE (R389). -/
def execCounterSweepDue (s : State) : Answer :=
  .next (if s.migEntries ≠ 0 && decide (1000000 * s.rdN 0x4000 3 12 4 ≤ since s.now s.mtu.sweepAt) then
      { s with mtu := { s.mtu with sweepAt := s.now, sweeps := s.mtu.sweeps + 1 } }
    else s)

/-- GRANULE_SET_DONE (R392). -/
def execGranuleSetDone (s : State) : Answer :=
  .next (if s.cmdRunning 0x4000 4 then s.cmdDone 0x4000 4 else s)

end Sys2Proof.Machine
end

