-- ==== Sys2Proof/Machine/Operands.lean ====
section
/-! DEFINITION. The operand forms of a bundle (Tables 7.2 to 7.7): its slots and their fields, the registers and the scratch words
they name, and how the slots of one bundle issue together (R203). -/
namespace Sys2Proof.Machine

/-! ### Slots -/

/-- The slots of a bundle, by number: 0 MXU, 1 VXU, 2 SLS, 3 XFU, 4 CTL. -/
def slotOp (b : Bytes) : Nat → Nat
  | 0 => fld b 60 4
  | 1 => fld b 120 8
  | 2 => fld b 157 3
  | 3 => fld b 203 5
  | _ => fld b 242 6

/-- The slots of a bundle that hold an operation, as bits. -/
def slotMask (b : Bytes) : Nat :=
  (List.range 5).foldl (fun m k => if slotOp b k = 0 then m else m + 2 ^ k) 0

/-- V of a bundle (R13). -/
def bundleV (b : Bytes) : Bool := bit b 255

/-! VXU slot (Table 7.4). -/
def vLw (b : Bytes) : Bool := bit b 119
def vD (b : Bytes) : Nat := fld b 114 5
def vA (b : Bytes) : Nat := fld b 109 5
def vB (b : Bytes) : Nat := fld b 104 5
def vC (b : Bytes) : Nat := fld b 99 5
def vXs (b : Bytes) : Nat := fld b 94 5
def vDesc (b : Bytes) : Nat := fld b 86 8

/-! MXU slot (Table 7.3). -/
def mCin (b : Bytes) : Bool := bit b 59
def mHslot (b : Bytes) : Nat := fld b 56 3
def mDesc (b : Bytes) : Nat := fld b 48 8

/-! SLS slot (Table 7.5). -/
def lVr (b : Bytes) : Nat := fld b 152 5
def lHslot (b : Bytes) : Nat := fld b 149 3
def lLw (b : Bytes) : Bool := bit b 148
def lWord (b : Bytes) : Nat := fld b 128 16

/-! XFU slot (Table 7.6). -/
def xOp (b : Bytes) : Nat := fld b 203 5
def xGrp (b : Bytes) : Nat := fld b 199 4
def xLen (b : Bytes) : Nat := fld b 188 11
def xAr (b : Bytes) : Nat := fld b 183 5
def xDr (b : Bytes) : Nat := fld b 178 5
def xWord (b : Bytes) : Nat := fld b 162 16

/-! CTL slot (Table 7.7). -/
def cOp (b : Bytes) : Nat := fld b 242 6
def cD (b : Bytes) : Nat := fld b 237 5
def cA (b : Bytes) : Nat := fld b 232 5
def cB (b : Bytes) : Nat := fld b 227 5
def cImm (b : Bytes) : Nat := fld b 208 19

/-- IMM sign-extended to 64 bits (R224). -/
def cImmS (b : Bytes) : Word := BitVec.ofInt 64 (signed 19 (cImm b))

/-! Matrix descriptor (Table 7.8). -/
def dmBlkB (d : Bytes) : Nat := fld d 154 2
def dmFmtB (d : Bytes) : Nat := fld d 150 4
def dmBlkA (d : Bytes) : Nat := fld d 148 2
def dmFmtA (d : Bytes) : Nat := fld d 144 4
def dmStrC (d : Bytes) : Nat := fld d 128 16
def dmStrB (d : Bytes) : Nat := fld d 112 16
def dmStrA (d : Bytes) : Nat := fld d 96 16
def dmK (d : Bytes) : Nat := fld d 80 16
def dmN (d : Bytes) : Nat := fld d 64 16
def dmM (d : Bytes) : Nat := fld d 48 16
def dmC (d : Bytes) : Nat := fld d 32 16
def dmB (d : Bytes) : Nat := fld d 16 16
def dmA (d : Bytes) : Nat := fld d 0 16

/-! Stream descriptor (Table 7.10). -/
def dsHslot (d : Bytes) : Nat := fld d 103 3
def dsGuard (d : Bytes) : Nat := fld d 90 13
def dsZp (d : Bytes) : Nat := fld d 82 8
def dsBase (d : Bytes) : Nat := fld d 77 5
def dsSeed (d : Bytes) : Nat := fld d 72 5
def dsTscale (d : Bytes) : Nat := fld d 67 5
def dsTsel (d : Bytes) : Nat := fld d 65 2
def dsSatm (d : Bytes) : Bool := bit d 64
def dsRnd (d : Bytes) : Nat := fld d 62 2
def dsBlk (d : Bytes) : Nat := fld d 60 2
def dsDst (d : Bytes) : Nat := fld d 56 4
def dsSrc (d : Bytes) : Nat := fld d 52 4
def dsCount (d : Bytes) : Nat := fld d 32 20
def dsDstWord (d : Bytes) : Nat := fld d 16 16
def dsSrcWord (d : Bytes) : Nat := fld d 0 16

/-! ### Registers (R202, R203) -/

/-- Read X: X0 reads as zero. -/
def Ctx.rx (x : Ctx) (n : Nat) : Word := if n = 0 then 0 else sget 0 x.x n

/-- Read VR. -/
def Ctx.rv (x : Ctx) (n : Nat) : Vec := sget 0 x.v n

/-- Write X at once: X0 ignores writes. -/
def Ctx.wx (x : Ctx) (n : Nat) (v : Word) : Ctx := if n = 0 then x else { x with x := sset 0 x.x n v }

/-- A slot's result for X, which the bundle's other slots do not yet see. -/
def Ctx.putX (x : Ctx) (n : Nat) (v : Word) : Ctx := if n = 0 then x else { x with pendX := sput x.pendX n v }

/-- A slot's result for VR. -/
def Ctx.putV (x : Ctx) (n : Nat) (v : Vec) : Ctx := { x with pendV := sput x.pendV n v }

/-- The bundle is whole: its results become the registers'. -/
def Ctx.merge (x : Ctx) : Ctx :=
  { x with x := x.pendX.foldl (fun m p => sset 0 m p.1 p.2) x.x,
           v := x.pendV.foldl (fun m p => sset 0 m p.1 p.2) x.v,
           pendX := [], pendV := [], slots := 0 }

/-! ### Scratch (R211 to R215) -/

/-- A tile's scratch words. -/
def scrWords : Nat := 49152

/-- Read `n` bytes of scratch from a word. -/
def Tile.scrRead (y : Tile) (word n : Nat) : Bytes := mread y.scr (64 * word) n

/-- Words that `n` bytes touch, from a byte address. -/
def wordsOf (a n : Nat) : List Nat := if n = 0 then [] else (List.range ((a + n - 1) / 64 - a / 64 + 1)).map (fun k => a / 64 + k)

/-- A word of a range is poisoned. -/
def Tile.scrBad (y : Tile) (a n : Nat) : Bool := (wordsOf a n).any (fun w => sget false y.scrPoison w)

/-- Write scratch at a byte address: a write with poison sets the words' poison, one that covers a word without poison clears
it, a partial one leaves it (R215). -/
def Tile.scrWrite (y : Tile) (a : Nat) (b : Bytes) (poison : Bool := false) : Tile :=
  { y with
    scr := mwrite y.scr a b,
    scrPoison := (wordsOf a b.length).foldl (fun m w =>
      if poison then sset false m w true
      else if a ≤ 64 * w && 64 * w + 64 ≤ a + b.length then sset false m w false
      else m) y.scrPoison }

/-! ### The bundle that issues -/

/-- The active context's current bundle: tile, context, the context's state, its segment image, the bundle, and the first word of
its frame (R245). -/
structure Act where
  t    : Nat := 0
  c    : Nat := 0
  x    : Ctx := {}
  g    : Bytes := []
  b    : Bytes := []
  base : Nat := 0
  deriving DecidableEq, Repr

/-- The physical tile of a logical one. -/
def State.physOf (s : State) (t : Nat) : Nat := sget t s.tiles.phys t

/-- The segment images of a lane: those whose LANE names it, and the trap segment, which can run on every tile (R237). -/
def laneSegs (img : Bytes) (n : Nat) : List Bytes :=
  ((List.range (imgNseg img)).map (segBytes img)).filter (fun g => segLane g = n || segTrap g)

/-- What the bundle memory of the tile at a position holds of a program (R237). -/
def State.bundlesOf (s : State) (t slot : Nat) : List Bytes :=
  (((sget [] s.tiles.bundles (s.physOf t)).find? (fun p => p.1 = slot)).map (fun p => p.2)).getD []

/-- Fill the bundle memory of a physical tile with a lane of a program, or take it out. -/
def State.putBundles (s : State) (p slot : Nat) (l : List Bytes) : State :=
  let old := (sget [] s.tiles.bundles p).filter (fun e => e.1 ≠ slot)
  { s with tiles := { s.tiles with bundles := sset [] s.tiles.bundles p (if l.isEmpty then old else old ++ [(slot, l)]) } }

/-- The segment image a context runs, in its tile's bundle memory. -/
def State.ctxSeg (s : State) (t : Nat) (x : Ctx) : Option Bytes :=
  (s.bundlesOf t x.prog).find? (fun g => segId g = x.seg)

/-- The first word of a context's frame on a tile. -/
def State.frameBase (s : State) (t frame : Nat) : Nat :=
  (sget {} (s.cab (cabOf t)).frames frame).bases.getD (t % 8) 0

/-- What the tile's active context issues next. -/
def State.act (s : State) (t : Nat) : Option Act :=
  let y := s.tile t
  match y.active with
  | none => none
  | some c =>
    let x := y.ctx c
    if x.phase ≠ 3 then none
    else
      match s.ctxSeg t x with
      | none => none
      | some g => some { t := t, c := c, x := x, g := g, b := segBundle g x.bundle, base := s.frameBase t x.frame }

/-- A slot of the tile's current bundle may issue: the tile runs, no trap waits at a bundle boundary, the context waits for
nothing, and a transfer in a WAIT bundle issues after the WAIT has checked its groups (R225). -/
def State.mayIssue (s : State) (t slot : Nat) : Option Act :=
  if s.frozen || (s.tile t).resetting || s.arithStopped then none
  else
    match s.act t with
    | none => none
    | some a =>
      if a.x.slots.testBit slot || (a.x.slots = 0 && !a.x.waits.isEmpty) then none
      else if a.x.slots = 0 && (s.tile t).trap.phase = 1 then none
      else if slot = 3 && cOp a.b = 0x10 && !a.x.slots.testBit 4 then none
      else some a

/-- The TILE_COUNTS of a tile: 0 BUNDLES, 1 SWITCHES, 2 ABORTS, 3 POISON_READS, 4 XFER_TIMEOUTS, 5 TRAPS, 6 TRAP_MERGED,
7 IDLE_CYCLES. -/
def State.tileCount (s : State) (t k : Nat) : State := s.bump (0x5100 + 0x10 * t) 2 k

/-- One timing choice on the tile's cabinet (R254). -/
def State.choice (s : State) (t : Nat) : State := s.cabChoice (cabOf t)

/-- The context's reservation ends with a segment switch (R354). -/
def State.resvSwitch (s : State) (t c : Nat) : State :=
  let x := (s.tile t).ctx c
  if x.resv.isNone then s
  else ((s.setTile t ((s.tile t).setCtx c { x with resv := none })).dropResv (.tile t c)).orderCount 3

/-- A bundle has issued whole: BUNDLES, and a V bit is reported by its request (R249), or ends a locked run (R256). -/
def State.bundleDone (s : State) (t c : Nat) (v : Bool) : State :=
  let y := s.tile t
  let x := y.ctx c
  let n := y.seq
  let s := s.setTile t { y.setCtx c { x with lastSeq := n, bundle := x.bundle + 1 } with seq := n + 1 }
  let s := s.tileCount t 0
  if v && (sfind s.sqe.reqs x.req).isSome then
    (s.setReq x.req { s.req x.req with vary := true }).lockFail x.req t 0 (some (t, c, n))
  else s

/-- Bundles of no-ops issue on their own. -/
def State.skipNops (s : State) (t c : Nat) (g : Bytes) : Nat → State
  | 0 => s
  | n + 1 =>
    let x := (s.tile t).ctx c
    let b := segBundle g x.bundle
    if x.phase = 3 && x.bundle < segBundles g && slotMask b = 0 then (s.bundleDone t c (bundleV b)).skipNops t c g n
    else s

/-- The tile's active context waits for nothing at a bundle boundary, and no trap is to start there: bundles of no-ops issue. -/
def State.goOn (s : State) (t : Nat) : State :=
  match s.act t with
  | none => s
  | some a =>
    if a.x.slots ≠ 0 || !a.x.waits.isEmpty || (s.tile t).trap.phase = 1 then s
    else s.skipNops t a.c a.g (segBundles a.g)

/-- A missed WAIT (R226, R227): with NS = 0 the context leaves the tile, and is ready once its groups complete; with NS = 1, and
in a trap context (R495), the tile waits. -/
def State.missedWait (s : State) (t c : Nat) : State :=
  let y := s.tile t
  let x := y.ctx c
  let s := s.choice t
  if x.ns || c = 16 then s
  else
    let s := s.setTile t ((y.setCtx c { x with phase := if x.waits.isEmpty then 2 else 4 }).rest (s.tileTicks t))
    s.resvSwitch t c

/-- The current bundle has issued whole: its results are merged, its task's end or a missed WAIT takes effect, and bundles of
no-ops follow. -/
def State.commit (s : State) (a : Act) (x : Ctx) : State :=
  let t := a.t
  let missed := x.missed
  let s := s.setTile t ((s.tile t).setCtx a.c { x.merge with missed := false })
  let s := s.bundleDone t a.c (bundleV a.b)
  if a.c < 16 && (s.req x.req).ending then s.setTile t ((s.tile t).leave a.c (s.tileTicks t))
  else if missed then (s.missedWait t a.c).goOn t
  else if (s.tile t).trap.phase = 1 then s
  else s.skipNops t a.c a.g (segBundles a.g)

/-- A slot has issued with the context's new state; the last slot of the bundle completes it. -/
def State.issued (s : State) (a : Act) (slot : Nat) (x : Ctx) : State :=
  let x := { x with slots := x.slots ||| 2 ^ slot }
  if x.slots &&& slotMask a.b = slotMask a.b then s.commit a x
  else s.setTile a.t ((s.tile a.t).setCtx a.c x)

/-- Issue a slot of the tile's current bundle, if it holds one of the operations named. -/
def State.onSlot (s : State) (t slot : Nat) (ops : List Nat) (f : Act → State) : State :=
  match s.mayIssue t slot with
  | some a => if ops.contains (slotOp a.b slot) then f a else s
  | none => s

/-- The faulting bundle of an act: its tile, context and number. -/
def State.posOf (s : State) (a : Act) : Option (Nat × Nat × Nat) := some (a.t, a.c, (s.tile a.t).seq)

/-- A CTL operation that writes X[D]. -/
def State.ctl (s : State) (t : Nat) (ops : List Nat) (f : Act → Word) : State :=
  s.onSlot t 4 ops (fun a => s.issued a 4 (a.x.putX (cD a.b) (f a)))

/-- A VXU operation that writes VR[D]. -/
def State.vxu (s : State) (t : Nat) (ops : List Nat) (f : Act → Vec) : State :=
  s.onSlot t 1 ops (fun a => s.issued a 1 (a.x.putV (vD a.b) (f a)))

end Sys2Proof.Machine
end

