-- ==== Sys2Proof/Machine/Tile.lean ====
section
/-! DEFINITION. A tile's matrix, vector, scratch and scalar operations (R205 to R213, R224 to R227). An operation whose slot is not
due leaves the state as it is (log 10). -/
namespace Sys2Proof.Machine

/-! ### Histograms and counters (R90, R91) -/

/-- Add to a histogram bin; it saturates at 0xFFFF_FFFF. -/
def Tile.histOne (y : Tile) (slot bin : Nat) : Tile :=
  let k := slot * 256 + bin
  { y with hist := sset 0 y.hist k (min 0xFFFFFFFF (sget 0 y.hist k + 1)) }

/-- Count values that are written under HSLOT: 0 names no slot. -/
def Tile.histAdd (y : Tile) (hslot : Nat) (l : List Num) : Tile :=
  if hslot = 0 then y else l.foldl (fun y v => y.histOne (hslot - 1) (histBin v)) y

/-- NUM_COUNTS of a tile: SAT, FLUSH, ESCAPE, BADSCALE, INVALID. -/
def State.numCount (s : State) (t : Nat) (c : NumCnt) : State :=
  ((((s.bump 0x5801 t 0 c.sat).bump 0x5801 t 1 c.flush).bump 0x5801 t 2 c.escape).bump 0x5801 t 3 c.badscale).bump 0x5801 t 4 c.invalid

/-- A port A read of a poisoned word ends the task with POISON (R215). -/
def State.poisonRead (s : State) (t r : Nat) (bad : Bool) (pos : Option (Nat × Nat × Nat)) : State :=
  if bad then (s.tileCount t 3).endTask r stPoison t pos else s

/-! ### Matrix unit (R205, R206) -/

/-- MMA issues: the MXU holds it until C is written. -/
def State.mma (s : State) (t : Nat) : State :=
  if (s.tile t).mxu.isSome then s
  else s.onSlot t 0 [1] (fun a =>
    let op : UnitOp := { ctx := a.c, slot := fld a.b 0 64, desc := segDesc a.g (mDesc a.b), base := a.base,
                         strict := segStrict a.g, seq := (s.tile t).seq }
    (s.setTile t { s.tile t with mxu := some op }).issued a 0 a.x)

def execMma (tile : Fin 96) (s : State) : Answer := .next (s.mma tile)

/-- Row i of an operand as numbers (R72). -/
def Tile.row (y : Tile) (word fmt blk n : Nat) : List Num := elems (y.scrRead word (rowBytes fmt blk n)) fmt blk n

/-- One element of C. -/
def mmaElem (strict : Bool) (c : Nat) (a b : List Num) : Nat :=
  if strict then strictElem c (a.zip b) else fastElem c (a.zip b)

/-- C's bytes row by row: the first word of each row and the row. -/
def Tile.mmaRows (y : Tile) (op : UnitOp) : List (Nat × List Nat) :=
  let d := op.desc
  let cin := bit (natLe op.slot 8) 59
  let k := dmK d
  let bs := (List.range (dmN d)).map (fun j => y.row (op.base + dmB d + j * dmStrB d) (dmFmtB d) (dmBlkB d) k)
  (List.range (dmM d)).map (fun i =>
    let a := y.row (op.base + dmA d + i * dmStrA d) (dmFmtA d) (dmBlkA d) k
    let w := op.base + dmC d + i * dmStrC d
    let c0 := y.scrRead w (4 * dmN d)
    (w, (bs.zip (List.range (dmN d))).map (fun bj => mmaElem op.strict (if cin then le c0 (4 * bj.2) 4 else 0) a bj.1)))

/-- The MMA reads a poisoned word. -/
def Tile.mmaBad (y : Tile) (op : UnitOp) : Bool :=
  let d := op.desc
  let cin := bit (natLe op.slot 8) 59
  let some_ := dmM d ≠ 0 && dmN d ≠ 0
  let bad (addr str rows n : Nat) : Bool :=
    (List.range rows).any (fun i => y.scrBad (64 * (op.base + addr + i * str)) n)
  some_ && (bad (dmA d) (dmStrA d) (dmM d) (rowBytes (dmFmtA d) (dmBlkA d) (dmK d)) ||
    bad (dmB d) (dmStrB d) (dmN d) (rowBytes (dmFmtB d) (dmBlkB d) (dmK d)) ||
    (cin && bad (dmC d) (dmStrC d) (dmM d) (4 * dmN d)))

/-- The tile's unit reset begins (Table 17.2): TILE_STATE RESET, and every task with a context on the tile ends. -/
def State.tileReset (s : State) (t : Nat) : State :=
  let s := { s with faults := { s.faults with resets := s.faults.resets ++ [uTile * 256 + t] } }
  let y := s.tile t
  let s := s.setTile t ({ y with resetting := true, trap := {}, mxu := none, conv := none,
                                 ctxs := sdel y.ctxs 16 }.rest (s.tileTicks t))
  let rs := (y.ctxs.filter (fun c => decide (c.1 < 16) && c.2.phase ≠ 0)).map (fun c => c.2.req)
  let s := s.setTile t { s.tile t with ctxs := (s.tile t).ctxs.map (fun c => (c.1, { c.2 with slots := 0 })) }
  rs.eraseDups.foldl (fun s r => s.endTask r stTrapped t) s

/-- MMA_COMPLETE: all of C is written, its drain counted (R205, R91); a failed residue check fires MXU_CHECK (R501). -/
def State.mmaDone (s : State) (t : Nat) (residueOk : Bool) : State :=
  let y := s.tile t
  match y.mxu with
  | none => s
  | some op =>
    if s.frozen then s
    else
      let r := (y.ctx op.ctx).req
      let rows := y.mmaRows op
      let h := fld (natLe op.slot 8) 56 3
      let y' := rows.foldl (fun y wr => (y.scrWrite (64 * wr.1) (packBits 32 wr.2)).histAdd h (wr.2.map (decodeNum 0))) y
      let s := s.setTile t { y' with mxu := none }
      let s := s.poisonRead t r (y.mmaBad op) (some (t, op.ctx, op.seq))
      if residueOk then s
      else s.fireWith (fun s => s.trapTiles [t] (Config.trapCause uTile 4)) (fun s => s.tileReset t) id uTile t 4
        { mUnit := uTile, mNum := t, acid := (s.req r).acid }

def execMmaComplete (tile : Fin 96) (residueOk : Bool) (s : State) : Answer := .next (s.mmaDone tile residueOk)

/-! ### Vector registers (R207 to R209) -/

/-- The format code of the lanes: FP32, or BF16. -/
def laneFmt (b : Bytes) : Nat := if vLw b then 1 else 0

/-- An operation lane by lane on A and B. -/
def Act.lanes2 (a : Act) (f : Nat → Nat → Nat) : Vec :=
  ofLanes (vLw a.b) (((lanesOf (vLw a.b) (a.x.rv (vA a.b))).zip (lanesOf (vLw a.b) (a.x.rv (vB a.b)))).map (fun p => f p.1 p.2))

/-- An operation lane by lane on A, B and C. -/
def Act.lanes3 (a : Act) (f : Nat → Nat → Nat → Nat) : Vec :=
  let l (n : Nat) := lanesOf (vLw a.b) (a.x.rv n)
  ofLanes (vLw a.b) (((l (vA a.b)).zip ((l (vB a.b)).zip (l (vC a.b)))).map (fun p => f p.1 p.2.1 p.2.2))

/-- All-ones of a lane. -/
def onesLane (b : Bytes) : Nat := if vLw b then 0xFFFF else 0xFFFFFFFF

/-- VADD, VSUB, VMUL, VFMA (R80, R207). -/
def Act.arith (a : Act) : Vec :=
  let c := laneFmt a.b
  match slotOp a.b 1 with
  | 1 => a.lanes2 (fpAdd c)
  | 2 => a.lanes2 (fpSub c)
  | 3 => a.lanes2 (fpMul c)
  | _ => a.lanes3 (fpFma c)

def execVaddVsubVmulVfma (tile : Fin 96) (s : State) : Answer := .next (s.vxu tile [1, 2, 3, 4] Act.arith)

/-- VMIN, VMAX (R80). -/
def Act.minMax (a : Act) : Vec := a.lanes2 (fpMinMax (laneFmt a.b) (slotOp a.b 1 = 6))

def execVminVmax (tile : Fin 96) (s : State) : Answer := .next (s.vxu tile [5, 6] Act.minMax)

/-- VCMPEQ, VCMPLT, VCMPLE: all-ones where the comparison is true (R207). -/
def Act.compare (a : Act) : Vec :=
  let c := laneFmt a.b
  a.lanes2 (fun u v =>
    let x := decodeNum c u
    let y := decodeNum c v
    let r := match slotOp a.b 1 with
      | 7 => x.eq y
      | 8 => x.lt y
      | _ => x.lt y || x.eq y
    if r then onesLane a.b else 0)

def execVcmpeqVcmpltVcmple (tile : Fin 96) (s : State) : Answer := .next (s.vxu tile [7, 8, 9] Act.compare)

/-- VSEL, VMOV, VBCAST (R207). -/
def Act.select (a : Act) : Vec :=
  match slotOp a.b 1 with
  | 0xA => a.lanes3 (fun u v w => if w ≠ 0 then u else v)
  | 0xB => a.x.rv (vA a.b)
  | _ => ofLanes (vLw a.b) (List.replicate (if vLw a.b then 512 else 256) (a.x.rx (vXs a.b)).toNat)

def execVselVmovVbcast (tile : Fin 96) (s : State) : Answer := .next (s.vxu tile [0xA, 0xB, 0xC] Act.select)

/-- The function of codes 0x0D to 0x11. -/
def unaryOf : Nat → Unary
  | 0xD => .rcp
  | 0xE => .rsq
  | 0xF => .sqrt
  | 0x10 => .exp2
  | _ => .log2

/-- VRCP, VRSQ, VSQRT, VEXP2, VLOG2 (R80, R208), in the segment's mode. -/
def Act.unary (a : Act) : Vec :=
  ofLanes (vLw a.b) ((lanesOf (vLw a.b) (a.x.rv (vA a.b))).map
    ((unaryOf (slotOp a.b 1)).apply (laneFmt a.b) (segStrict a.g)))

def execVrcpVrsqVsqrtVexp2Vlog2 (tile : Fin 96) (s : State) : Answer :=
  .next (s.vxu tile [0xD, 0xE, 0xF, 0x10, 0x11] Act.unary)

/-- VREDADD, VREDMAX: lane 0 holds the tree's result, every other lane +0 (R209). -/
def Act.reduce (a : Act) : Vec :=
  let c := laneFmt a.b
  let op := if slotOp a.b 1 = 0x12 then fpAdd c else fpMinMax c true
  ofLanes (vLw a.b) [reduceLanes op 9 (lanesOf (vLw a.b) (a.x.rv (vA a.b)))]

def execVredaddVredmax (tile : Fin 96) (s : State) : Answer := .next (s.vxu tile [0x12, 0x13] Act.reduce)

/-! ### Stream operations (R81 to R92, R210) -/

/-- The 256 bins of a slot as U32 values (R92). -/
def Tile.histBytes (y : Tile) (slot : Nat) : Bytes :=
  (List.range 256).flatMap (fun b => natLe (sget 0 y.hist (slot * 256 + b)) 4)

/-- A slot at zero (R92). -/
def Tile.histClear (y : Tile) (h : Nat) : Tile := { y with hist := y.hist.filter (fun p => p.1 / 256 + 1 ≠ h) }

/-- A stream operation issues: the converter holds it, with the scalars it read, until its destination is written. HIST.RD takes its
slot's bins and HIST.CLR zeroes them here, in bundle order (R92). -/
def State.stream (s : State) (t code : Nat) : State :=
  if (s.tile t).conv.isSome then s
  else s.onSlot t 1 [code] (fun a =>
    let d := segDesc a.g (vDesc a.b)
    let op : UnitOp := { ctx := a.c, slot := fld a.b 64 64, desc := d, base := a.base, strict := segStrict a.g,
                         seq := (s.tile t).seq, tscale := BitVec.ofNat 32 (a.x.rx (dsTscale d)).toNat,
                         seed := a.x.rx (dsSeed d), sbase := a.x.rx (dsBase d),
                         bins := if code = 0x23 then (s.tile t).histBytes (dsHslot d - 1) else [] }
    let y := if code = 0x24 then (s.tile t).histClear (dsHslot d) else s.tile t
    (s.setTile t { y with conv := some op }).issued a 1 a.x)

def execCvt (tile : Fin 96) (s : State) : Answer := .next (s.stream tile 0x20)
def execTnarrow (tile : Fin 96) (s : State) : Answer := .next (s.stream tile 0x21)
def execTwiden (tile : Fin 96) (s : State) : Answer := .next (s.stream tile 0x22)
def execHistRd (tile : Fin 96) (s : State) : Answer := .next (s.stream tile 0x23)
def execHistClr (tile : Fin 96) (s : State) : Answer := .next (s.stream tile 0x24)

/-- The options of a conversion as its descriptor and scalars give them. -/
def UnitOp.opts (op : UnitOp) : CvtOpt :=
  let d := op.desc
  { src := dsSrc d, dst := dsDst d, blk := dsBlk d, rnd := dsRnd d, satNan := dsSatm d, tsel := dsTsel d,
    tscale := op.tscale.toNat, seed := op.seed.toNat, base := op.sbase.toNat, zp := dsZp d, guard := dsGuard d }

/-- Bytes that a stream operation reads. -/
def Tile.streamSrc (y : Tile) (op : UnitOp) : Nat :=
  let o := op.opts
  let n := dsCount op.desc
  match op.slot / 2 ^ 56 with
  | 0x20 => rowBytes o.src o.srcBlk n
  | 0x21 => rowBytes o.src o.tileBlk n
  | 0x22 => 16 + (if bit (y.scrRead (op.base + dsSrcWord op.desc) 16) 40 then 2 * n else n)
  | _ => 0

/-- The destination's bytes, the counts, and the values that a histogram of the output counts. -/
def Tile.streamOut (y : Tile) (op : UnitOp) : Bytes × NumCnt × List Num :=
  let o := op.opts
  let n := dsCount op.desc
  let src := y.scrRead (op.base + dsSrcWord op.desc) (y.streamSrc op)
  match op.slot / 2 ^ 56 with
  | 0x20 =>
    let r := o.cvt (elems src o.src o.srcBlk n)
    (r.1, r.2, elems r.1 o.dst (if o.dstBlk = 0 then 0 else o.blk) n)
  | 0x21 =>
    let r := o.narrow (elems src o.src o.tileBlk n)
    (r.1, r.2, [])
  | 0x22 =>
    let r := o.widen src n
    (r.1, r.2, elems r.1 o.dst 0 n)
  | 0x23 => (op.bins, {}, [])
  | _ => ([], {}, [])

/-- STREAM_OP_COMPLETE: the destination is written, its elements counted (R210). -/
def State.streamDone (s : State) (t : Nat) : State :=
  let y := s.tile t
  match y.conv with
  | none => s
  | some op =>
    if s.frozen then s
    else
      let r := (y.ctx op.ctx).req
      let bad := y.scrBad (64 * (op.base + dsSrcWord op.desc)) (y.streamSrc op)
      let o := y.streamOut op
      let code := op.slot / 2 ^ 56
      let h := dsHslot op.desc
      let y := if code = 0x24 then y else y.scrWrite (64 * (op.base + dsDstWord op.desc)) o.1
      let y := if code = 0x20 || code = 0x22 then y.histAdd h o.2.2 else y
      ((s.setTile t { y with conv := none }).numCount t o.2.1).poisonRead t r bad (some (t, op.ctx, op.seq))

def execStreamOpComplete (tile : Fin 96) (s : State) : Answer := .next (s.streamDone tile)

/-! ### Scratch load and store (R213, R215) -/

/-- What the scratch storage showed: SCR_CE, or SCR_UE with the word poisoned (R501). -/
def State.scrFound (s : State) (t word : Nat) (found : Ecc) : State :=
  let h : Hit := { access := 1, mUnit := uTile, mNum := t, addr := 64 * word }
  match found with
  | .clean => s
  | .corrected => s.fire uTile t 0 h
  | .uncorrectable =>
    (s.setTile t { s.tile t with scrPoison := sset false (s.tile t).scrPoison word true }).fire uTile t 1 h

/-- VLD: 1,024 bytes of scratch to VR. -/
def State.vload (s : State) (t : Nat) (found : Ecc) : State :=
  s.onSlot t 2 [1] (fun a =>
    let w := a.base + lWord a.b
    let pos := s.posOf a
    let s := s.scrFound t w found
    let y := s.tile t
    let s := s.issued a 2 (a.x.putV (lVr a.b) (ofVecBytes (y.scrRead w 1024)))
    s.poisonRead t a.x.req (y.scrBad (64 * w) 1024) pos)

def execVld (tile : Fin 96) (found : Ecc) (s : State) : Answer := .next (s.vload tile found)

/-- VST: VR to 1,024 bytes of scratch; HSLOT counts its lanes (R91). -/
def State.vstore (s : State) (t : Nat) : State :=
  s.onSlot t 2 [2] (fun a =>
    let v := a.x.rv (lVr a.b)
    let y := (s.tile t).scrWrite (64 * (a.base + lWord a.b)) (vecBytes v)
    let y := y.histAdd (lHslot a.b) ((lanesOf (lLw a.b) v).map (decodeNum (if lLw a.b then 1 else 0)))
    (s.setTile t y).issued a 2 a.x)

def execVst (tile : Fin 96) (s : State) : Answer := .next (s.vstore tile)

/-! ### Scalar control (R224) -/

/-- X[A] and X[B]. -/
def Act.xa (a : Act) : Word := a.x.rx (cA a.b)
def Act.xb (a : Act) : Word := a.x.rx (cB a.b)

def Act.addSubMul (a : Act) : Word :=
  match cOp a.b with
  | 1 => a.xa + a.xb
  | 2 => a.xa - a.xb
  | _ => a.xa * a.xb

def execAddSubMul (tile : Fin 96) (s : State) : Answer := .next (s.ctl tile [1, 2, 3] Act.addSubMul)

def Act.andOrXor (a : Act) : Word :=
  match cOp a.b with
  | 4 => a.xa &&& a.xb
  | 5 => a.xa ||| a.xb
  | _ => a.xa ^^^ a.xb

def execAndOrXor (tile : Fin 96) (s : State) : Answer := .next (s.ctl tile [4, 5, 6] Act.andOrXor)

/-- Shifts use the low 6 bits of X[B]. -/
def Act.shift (a : Act) : Word :=
  let n := a.xb.toNat % 64
  match cOp a.b with
  | 7 => a.xa <<< n
  | 8 => a.xa >>> n
  | _ => a.xa.sshiftRight n

def execShlShrSra (tile : Fin 96) (s : State) : Answer := .next (s.ctl tile [7, 8, 9] Act.shift)

def Act.lessThan (a : Act) : Word :=
  if (if cOp a.b = 0xA then a.xa.slt a.xb else a.xa.ult a.xb) then 1 else 0

def execSltSltu (tile : Fin 96) (s : State) : Answer := .next (s.ctl tile [0xA, 0xB] Act.lessThan)

def Act.sel (a : Act) : Word := if a.x.rx (cImm a.b % 32) ≠ 0 then a.xa else a.xb

def execSel (tile : Fin 96) (s : State) : Answer := .next (s.ctl tile [0xC] Act.sel)

def execAddi (tile : Fin 96) (s : State) : Answer := .next (s.ctl tile [0xD] (fun a => a.xa + cImmS a.b))

def execShori (tile : Fin 96) (s : State) : Answer :=
  .next (s.ctl tile [0xE] (fun a => (a.xa <<< 19) ||| BitVec.ofNat 64 (cImm a.b)))

/-- XLANE: lanes 2 IMM and 2 IMM + 1 of VR[A] as 64 bits. -/
def Act.xlane (a : Act) : Word :=
  BitVec.ofNat 64 ((a.x.rv (cA a.b)).toNat >>> (64 * (cImm a.b % 128)))

def execXlane (tile : Fin 96) (s : State) : Answer := .next (s.ctl tile [0xF] Act.xlane)

/-- GTCR: the GTC count. -/
def execGtcr (tile : Fin 96) (s : State) : Answer := .next (s.ctl tile [0x12] (fun _ => s.gtc.count))

/-- CSRR 0 to 5: logical tile, cabinet, context, request tag, trap cause, trap position. -/
def State.csr (s : State) (a : Act) : Word :=
  let y := s.tile a.t
  BitVec.ofNat 64 (match cImm a.b with
    | 0 => a.t
    | 1 => cabOf a.t
    | 2 => a.c
    | 3 => (s.req a.x.req).recVa
    | 4 => y.trap.cause
    | _ => (match y.trap.stopped with
            | some c => c % 16
            | none => 0) + y.trap.bundle % 2 ^ 24 * 256)

def execCsrr (tile : Fin 96) (s : State) : Answer := .next (s.ctl tile [0x13] s.csr)

/-! ### Wait points (R225 to R227) -/

/-- The outstanding tags of a context in groups named by a mask. -/
def Tile.openTags (y : Tile) (c mask : Nat) : List Nat :=
  (y.xfers.filter (fun p => p.2.ctx = c && mask.testBit p.2.grp)).map (fun p => p.1)

/-- WAIT: a hit where every named group is complete, else a miss. It is not due while an operation of the context runs in the
MXU or the converter (R225). -/
def State.waitGrp (s : State) (t : Nat) : State :=
  s.onSlot t 4 [0x10] (fun a =>
    let y := s.tile t
    if (y.mxu.any (fun o => o.ctx = a.c)) || (y.conv.any (fun o => o.ctx = a.c)) then s
    else
      let tags := y.openTags a.c (cImm a.b % 65536)
      s.issued a 4 { a.x with waits := tags, ns := (cImm a.b).testBit 16, missed := !tags.isEmpty })

def execWaitGrp (tile : Fin 96) (s : State) : Answer := .next (s.waitGrp tile)

end Sys2Proof.Machine
end

