-- ==== Sys2Proof/Machine/Xfu.lean ====
section
/-! DEFINITION. The transfer unit (R216 to R223) with the ordering rules it keeps (chapter 12): the issue of a transfer slot, the
issue of a transfer to the network, its completion and its timeouts. -/
namespace Sys2Proof.Machine

/-! ### Operations -/

/-- LD, LDS, LDP. -/
def opLoads (op : Nat) : Bool := op = 1 || op = 3 || op = 5
/-- ST, STS, STP: the plain stores. -/
def opStores (op : Nat) : Bool := op = 2 || op = 4 || op = 6
/-- The fetch-atomics and ACAS. -/
def opAtomics (op : Nat) : Bool := decide (9 ≤ op) && decide (op ≤ 0x12)
/-- GPOST, HPOST. -/
def opPosts (op : Nat) : Bool := op = 0x13 || op = 0x14
/-- BAR.L, BAR.S, BAR.A. -/
def opBars (op : Nat) : Bool := decide (0x15 ≤ op) && decide (op ≤ 0x17)
/-- What the store buffer holds (R347). -/
def opBuffered (op : Nat) : Bool := opStores op || op = 8 || opAtomics op
/-- The access writes, for its translation. -/
def opWrites (op : Nat) : Bool := opBuffered op
/-- The class of BAR.L: load, LDR, atomic, STC. -/
def opBarL (op : Nat) : Bool := opLoads op || op = 7 || op = 8 || opAtomics op
/-- An access to memory. -/
def opMem (op : Nat) : Bool := opLoads op || opBuffered op || op = 7

/-- The access kind of a fault record. -/
def opAccess (op : Nat) : Access :=
  if opLoads op then .read else if opStores op then .write else if opAtomics op then .atomic else .ldrStc

/-- The request at a home slice. -/
def opMemOp (op : Nat) : MemOp :=
  if opLoads op then .read else if opStores op then .write else if op = 7 then .ldr else if op = 8 then .stc else .atomic op

/-! ### What a transfer must wait for (R347 to R352) -/

/-- Byte ranges overlap. -/
def overlaps (a n b m : Nat) : Bool := decide (a < b + m) && decide (b < a + n)

/-- Ranges touch a common line. -/
def sameLine (a n b m : Nat) : Bool := overlaps (a / 64) ((a + n - 1) / 64 - a / 64 + 1) (b / 64) ((b + m - 1) / 64 - b / 64 + 1)

/-- What the translation of a transfer's pages comes to: the pieces with their targets and entries. -/
inductive XlPages where
  | go (l : List (Nat × Nat × Target × TlbEnt))
  | stop (off : Nat) (r : Xl)

/-- Translate a transfer page by page. -/
def State.xlPages (s : State) (t : Nat) (x : Xfer) (acid : Nat) : State × XlPages :=
  (pieces x.va x.len 4096).foldl (fun (s, r) oc =>
    match r with
    | .stop o e => (s, .stop o e)
    | .go l =>
      match s.xlate (.tile t) acid (x.va + oc.1) (opWrites x.op) with
      | (s, .go tg e) => (s, .go (l ++ [(oc.1, oc.2, tg, e)]))
      | (s, e) => (s, .stop oc.1 e)) (s, XlPages.go [])

/-- The lines that a transfer touches, where its translation is at hand. -/
def State.linesOf (s : State) (t : Nat) (x : Xfer) : Option (List Target) :=
  match (s.xlPages t x (s.req x.req).acid).2 with
  | .go l => some (l.flatMap (fun p => (pieces p.2.2.1.addr p.2.1 64).map (fun oc => (p.2.2.1.plus oc.1).align 64)))
  | .stop _ _ => none

/-- Two accesses of a context touch a common line (R349). Where the translation of one is still to come, lines at the same place in their
pages may be one. -/
def State.meets (s : State) (t : Nat) (o x : Xfer) : Bool :=
  sameLine o.va o.len x.va x.len ||
  match s.linesOf t o, s.linesOf t x with
  | some a, some b => a.any (fun l => b.contains l)
  | _, _ =>
    let places (x : Xfer) : List Nat := (pieces x.va x.len 64).map (fun oc => (x.va + oc.1) / 64 % 64)
    (places o).any (fun l => (places x).contains l)

/-- The transfer has been performed. -/
def State.xferPerformed (s : State) (x : Xfer) : Bool :=
  x.phase = 2 && !opPosts x.op && x.lines.all (fun l => !s.unperformed l.1)

/-- Older transfers of the context that are under a tag. -/
def Tile.older (y : Tile) (x : Xfer) : List Xfer :=
  (y.xfers.filter (fun p => p.2.ctx = x.ctx && decide (p.2.seq < x.seq))).map (fun p => p.2)

/-- Accepted stores of the context that are older and not yet performed. -/
def State.tracked (s : State) (t : Nat) (x : Xfer) : List Tracked :=
  (s.tile t).tracker.filter (fun k => k.ctx = x.ctx && decide (k.seq < x.seq) && s.unperformed k.id)

/-- A barrier is complete: every earlier transfer of its class has been performed (Table 12.3). -/
def State.barDone (s : State) (t : Nat) (x : Xfer) : Bool :=
  let old := ((s.tile t).older x).filter (fun o => opMem o.op && !s.xferPerformed o)
  let loads := old.any (fun o => opBarL o.op)
  let stores := old.any (fun o => opBuffered o.op) || !(s.tracked t x).isEmpty
  match x.op with
  | 0x15 => !loads
  | 0x16 => !stores
  | _ => !loads && !stores

/-- The transfer may leave the XFU as far as its context's older transfers go: no older barrier stands; buffered operations leave
in order; an older access to a common line has left (R349); an LDR or atomic waits until every buffered store that
overlaps it is performed (R348). -/
def State.mayLeave (s : State) (t : Nat) (x : Xfer) : Bool :=
  let old := (s.tile t).older x
  let inXfu := old.filter (fun o => o.phase ≤ 1)
  !old.any (fun o => opBars o.op) &&
  !(opBuffered x.op && inXfu.any (fun o => opBuffered o.op)) &&
  !(opMem x.op && inXfu.any (fun o => opMem o.op && !(opLoads x.op && opStores o.op) && s.meets t o x)) &&
  !((x.op = 7 || opAtomics x.op) &&
    (old.any (fun o => opBuffered o.op && !s.xferPerformed o && overlaps o.va o.len x.va x.len) ||
      (s.tracked t x).any (fun k => overlaps k.va k.len x.va x.len)))

/-! ### Forwarding (R348) -/

/-- What a normal load meets in the store buffer. -/
inductive Fwd where
  | memory
  | waits
  | partly
  | bytes (b : Bytes) (poison : List Nat)
  deriving DecidableEq, Repr

/-- The newest of some stores that covers a byte: the byte and whether its word is poisoned. -/
def coverOf (stores : List Xfer) (a : Nat) : Option (Byte × Bool) :=
  (stores.foldl (fun best o =>
    if o.va ≤ a && a < o.va + o.len then
      match best with
      | some q => if q.seq < o.seq then some o else best
      | none => some o
    else best) none).map (fun o => (o.data.getD (a - o.va) 0, o.poison.contains ((a - o.va) / 64)))

/-- The context's buffered stores that overlap a load: older stores, STCs and atomics whose tags have not completed. -/
def State.overBuf (s : State) (t : Nat) (x : Xfer) : List Xfer :=
  ((s.tile t).older x).filter (fun o => opBuffered o.op && overlaps o.va o.len x.va x.len)

/-- The bytes that buffered plain stores give a load, each with its poison; none where they do not give every byte. -/
def fwdBytes (buf : List Xfer) (x : Xfer) : Option (List (Byte × Bool)) :=
  if buf.any (fun o => !opStores o.op) then none else ((List.range x.len).map (fun k => coverOf buf (x.va + k))).mapM id

/-- A load overlaps a buffered store in part, or overlaps a buffered STC or atomic (R348). -/
def State.partlyMet (s : State) (t : Nat) (x : Xfer) : Bool :=
  let buf := s.overBuf t x
  opLoads x.op && !buf.isEmpty && (fwdBytes buf x).isNone

/-- A normal load against its context's buffered stores. One that a store covered in part waits until every access that overlaps it is
performed. -/
def State.forwards (s : State) (t : Nat) (x : Xfer) : Fwd :=
  let buf := s.overBuf t x
  -- a store on a common line that has not left the XFU goes first (R349)
  let reads : Fwd := if ((s.tile t).older x).any (fun o => o.phase ≤ 1 && opStores o.op && s.meets t o x) then .waits else .memory
  if x.partly then
    if buf.any (fun o => !s.xferPerformed o) || (s.tracked t x).any (fun k => overlaps k.va k.len x.va x.len) then .waits else reads
  else if buf.isEmpty then reads
  else
    match fwdBytes buf x with
    | none => .partly
    | some got =>
      .bytes (got.map (fun g => g.1))
        ((List.range ((x.len + 63) / 64)).filter (fun w => ((got.drop (64 * w)).take 64).any (fun g => g.2)))

/-! ### Issue of a slot -/

/-- Data that a transfer carries from its issue: scratch words, registers, or a command. -/
def State.xferData (s : State) (a : Act) : Bytes :=
  let b := a.b
  let n := xLen b
  let dr := natLe (a.x.rx (xDr b)).toNat 8
  let dr1 := natLe (a.x.rx (xDr b + 1)).toNat 8
  match xOp b with
  | 2 => (s.tile a.t).scrRead (a.base + xWord b) n
  | 0x13 => (s.tile a.t).scrRead (a.base + xWord b) 64
  | 0x14 => (s.tile a.t).scrRead (a.base + xWord b) 64
  | 4 => dr.take n
  | 6 => dr ++ dr1
  | 0x12 => dr1.take n ++ dr.take n
  | _ => dr.take n

/-- Words of a store's data that are poisoned, counted from its first. -/
def State.xferPoison (s : State) (a : Act) : List Nat :=
  if xOp a.b = 2 then
    (List.range ((xLen a.b + 63) / 64)).filter (fun k => sget false (s.tile a.t).scrPoison (a.base + xWord a.b + k))
  else []

/-- X[AR] breaks the alignment of R217. -/
def Act.badAlign (a : Act) : Bool :=
  let op := xOp a.b
  let va := (a.x.rx (xAr a.b)).toNat
  if op = 5 || op = 6 then va % 16 ≠ 0
  else if op = 3 || op = 4 || op = 7 || op = 8 || opAtomics op then va % xLen a.b ≠ 0
  else false

/-- Issue the XFU slot: BAD_XFER for a misaligned address; LEN = 0 of an LD or ST completes at once (R216); otherwise the
transfer takes the lowest free tag and queues. -/
def State.xferSlot (s : State) (t : Nat) (ops : List Nat) : State :=
  s.onSlot t 3 ops (fun a =>
    let op := xOp a.b
    let pos := s.posOf a
    if a.badAlign then (s.issued a 3 a.x).endTask a.x.req stBadXfer t pos
    else if (op = 1 || op = 2) && xLen a.b = 0 then s.issued a 3 a.x
    else
      let y := s.tile t
      match sfree y.xfers 256 with
      | none => s
      | some tag =>
        let x : Xfer := { ctx := a.c, req := a.x.req, grp := xGrp a.b, op := op, len := xLen a.b,
                          va := (a.x.rx (xAr a.b)).toNat, dr := xDr a.b, word := a.base + xWord a.b, seg := a.x.seg,
                          bundle := a.x.bundle, seq := y.seq, vbit := bundleV a.b, data := s.xferData a,
                          poison := s.xferPoison a, since := s.now, arith := s.arithTicks, gran := s.resGranule }
        (s.setTile t { y with xfers := sput y.xfers tag { x with partly := s.partlyMet t x } }).issued a 3 a.x)

def execLd (tile : Fin 96) (s : State) : Answer := .next (s.xferSlot tile [1])
def execSt (tile : Fin 96) (s : State) : Answer := .next (s.xferSlot tile [2])
def execLds (tile : Fin 96) (s : State) : Answer := .next (s.xferSlot tile [3])
def execSts (tile : Fin 96) (s : State) : Answer := .next (s.xferSlot tile [4])
def execLdp (tile : Fin 96) (s : State) : Answer := .next (s.xferSlot tile [5])
def execStp (tile : Fin 96) (s : State) : Answer := .next (s.xferSlot tile [6])
def execLdr (tile : Fin 96) (s : State) : Answer := .next (s.xferSlot tile [7])
def execStc (tile : Fin 96) (s : State) : Answer := .next (s.xferSlot tile [8])
def execFetchAtomic (tile : Fin 96) (s : State) : Answer :=
  .next (s.xferSlot tile [0x9, 0xA, 0xB, 0xC, 0xD, 0xE, 0xF, 0x10, 0x11])
def execAcas (tile : Fin 96) (s : State) : Answer := .next (s.xferSlot tile [0x12])
def execGpost (tile : Fin 96) (s : State) : Answer := .next (s.xferSlot tile [0x13])
def execHpost (tile : Fin 96) (s : State) : Answer := .next (s.xferSlot tile [0x14])
def execBarL (tile : Fin 96) (s : State) : Answer := .next (s.xferSlot tile [0x15])
def execBarS (tile : Fin 96) (s : State) : Answer := .next (s.xferSlot tile [0x16])
def execBarA (tile : Fin 96) (s : State) : Answer := .next (s.xferSlot tile [0x17])

/-! ### The end of a tag (R221, R225) -/

/-- A tag is freed: its context's WAIT no longer waits for it, a waiting context becomes ready with its last tag, and the active one
goes on. A tag that
completes after a younger one of its context is a timing choice (R254). -/
def State.freeTag (s : State) (t tag : Nat) : State :=
  let y := s.tile t
  match sfind y.xfers tag with
  | none => s
  | some x =>
    let xfers := (sdel y.xfers tag).map (fun p =>
      if p.2.ctx = x.ctx && decide (p.2.seq < x.seq) then (p.1, { p.2 with young := true }) else p)
    let k := y.ctx x.ctx
    let waits := k.waits.filter (fun n => n ≠ tag)
    let k := { k with waits := waits, phase := if k.phase = 4 && waits.isEmpty then 2 else k.phase }
    let y := { y with xfers := xfers }
    let y := if k.phase = 0 then y else y.setCtx x.ctx k
    let s := s.setTile t y
    (if x.young then s.choice t else s).goOn t

/-- The faulting bundle of a transfer. -/
def Xfer.pos (x : Xfer) (t : Nat) : Option (Nat × Nat × Nat) := some (t, x.ctx, x.seq)

/-- A tracked store was refused where it went: its task ends (R372, R377). -/
def State.storeRefused (s : State) (t : Nat) (x : Tracked) : State :=
  s.taskFault x.req t { va := x.va, acid := (s.req x.req).acid, type := ftOwner, access := Access.write.code, source := 0, unit := t }
    (some (t, x.ctx, x.seq))

/-- Answers of stores that have been performed leave the tracker (R346). -/
def State.prune (s : State) (t : Nat) : State :=
  let y := s.tile t
  let gone := y.tracker.filter (fun x => !s.unperformed x.id)
  let refused := gone.filter (fun x => (sfind s.rsps x.id).any (fun m => m.err = .owner || m.err = .badOp))
  let s := (s.setTile t { y with tracker := y.tracker.filter (fun x => s.unperformed x.id) }).forget (gone.map (fun x => x.id))
  refused.foldl (fun s x => s.storeRefused t x) s

/-- A store under a number has been answered: it leaves its tile's tracker, and settles what waits for it (R385). -/
def State.storeAnswered (s : State) (id : Nat) : State :=
  let s := s.settleStores
  match s.tiles.tile.find? (fun t => t.2.tracker.any (fun x => x.id = id)) with
  | some t => s.prune t.1
  | none => s

/-- A transfer's tag completes: its translations are settled (R385) and the tag is freed. -/
def State.completeTag (s : State) (t tag : Nat) : State := (s.settle (.tile t tag) false).freeTag t tag

/-! ### Metering (R239, R248) -/

/-- The counts of the demand record that are metered: 0 GPE_LINES_1, 1 GPE_LINES_3, 2 PD_PARTS, 3 HSE_LINES, 4 XFER_LINES_12,
5 XFER_LINES_3, 6 XFER_LINES_4. -/
def meterLow : Nat → Nat
  | 0 => 416
  | 1 => 384
  | 2 => 352
  | 3 => 320
  | 4 => 288
  | 5 => 256
  | _ => 224

/-- Meter `n` of a count; none where it would pass the declared count. -/
def State.metered (s : State) (r k n : Nat) : Option State :=
  match sfind s.sqe.reqs r with
  | none => some s
  | some q =>
    let v := sget 0 q.meters k + n
    if demand (s.prog q.prog).image (meterLow k) 32 < v then none
    else some (s.setReq r { q with meters := sset 0 q.meters k v })

/-- A count was passed: the task ends with OVER_DEMAND. -/
def State.overDemand (s : State) (r tile : Nat) (pos : Option (Nat × Nat × Nat)) : State :=
  (s.cabCount (s.req r).cab 3).endTask r stOverDemand tile pos

/-- Which of the three XFU counts a target's lines belong to. -/
def Target.meter : Target → Nat
  | .dev _ => 4
  | .host _ _ => 5
  | .fab _ => 6

/-! ### Leaving the XFU -/

/-- REGION_ATTR of an index: DEVICE and LATE_ACK (Table 12.1). -/
def State.regionAttr (s : State) (attr : Nat) : Bool × Bool :=
  let v := s.rdN 0x40F0 attr 0 1
  (v.testBit 0, v.testBit 1)

/-- The device region type of an older access, where its translation is known. -/
def State.regionOf (s : State) (t : Nat) (x : Xfer) (acid : Nat) : Option Bool :=
  if x.phase = 2 then some x.dev
  else
    match (s.xlPages t x acid).2 with
    | .go l => some (l.any (fun p => (s.regionAttr p.2.2.2.attr).1))
    | .stop _ _ => none

/-- Every earlier device access of the context has been performed (R342). -/
def State.deviceClear (s : State) (t : Nat) (x : Xfer) (acid : Nat) : Bool :=
  !((s.tile t).older x).any (fun o => opMem o.op && !s.xferPerformed o && s.regionOf t o acid ≠ some false) &&
  !(s.tracked t x).any (fun k => k.dev)

/-- The data of a piece of a store, and its poison. -/
def Xfer.piece (x : Xfer) (off n : Nat) : Bytes × Bool :=
  (bytesAt x.data off n, (wordsOf off n).any (fun w => x.poison.contains w))

/-- The payload of a fabric request: the data of a store; code, size, operand and compare value of an atomic (Table 15.4). -/
def Xfer.payload (x : Xfer) (off n : Nat) : Bytes :=
  if opAtomics x.op then
    let d := if x.op = 0x12 then bytesAt x.data 0 x.len else x.data
    let c := if x.op = 0x12 then x.data.drop x.len else []
    natLe x.op 1 ++ natLe x.len 1 ++ zeros 6 ++ bytesAt d 0 8 ++ bytesAt c 0 8
  else if opBuffered x.op then (x.piece off n).1
  else []

/-- The fabric operation of a transfer (Table 15.4). -/
def opFabric (op : Nat) : Nat :=
  if opLoads op then 0 else if opStores op then 1 else if opAtomics op then 2 else if op = 7 then 3 else 4

/-- Where the requests of one page's piece go: the home slice of each line, or the fabric port (16). -/
def Target.homes (t : Target) (n : Nat) : List Nat :=
  match t with
  | .fab _ => [16]
  | t => (pieces t.addr n 64).map (fun oc => (t.plus oc.1).slice)

/-- Send one page's piece: line requests to home slices, or one fabric message; the state with the requests' numbers, none
where no fabric tag is free. -/
def State.sendPiece (s : State) (t : Nat) (x : Xfer) (acid : Nat) (p : Nat × Nat × Target × TlbEnt) :
    Option (State × List (Nat × Nat × Nat)) :=
  let (off, n, tg, e) := p
  let dev := (s.regionAttr e.attr).1
  match tg with
  | .fab fa =>
    let (id, s) := s.fresh
    (s.fabRequest (.mem id (opMemOp x.op)) (opFabric x.op) fa (if opAtomics x.op then 24 else n) (x.payload off n)
      (opStores x.op && (x.piece off n).2) x.since).map (fun s =>
        ((pieces fa n 64).foldl (fun s oc => s.countAccess acid (x.va + off + oc.1) (tg.plus oc.1)) s, [(id, off, n)]))
  | _ =>
    some ((pieces tg.addr n 64).foldl (fun (s, l) oc =>
      let (id, s) := s.fresh
      let d := x.piece (off + oc.1) oc.2
      let r : MemReq := { id := id, src := .tile t x.ctx, acid := acid, op := opMemOp x.op, tgt := tg.plus oc.1, len := oc.2,
                          data := if opBuffered x.op then (if x.op = 0x12 then bytesAt x.data 0 x.len else d.1) else [],
                          cmp := if x.op = 0x12 then x.data.drop x.len else [], poison := opStores x.op && d.2,
                          alloc := true, crit := x.op = 3 || x.op = 5 || x.op = 7 || opAtomics x.op, device := dev,
                          issued := x.since, gran := x.gran }
      ((s.toSlice r).countAccess acid (x.va + off + oc.1) (tg.plus oc.1), l ++ [(id, off + oc.1, oc.2)])) (s, []))

/-- Put a transfer back under its tag. -/
def State.setXfer (s : State) (t tag : Nat) (x : Xfer) : State :=
  s.setTile t { s.tile t with xfers := sput (s.tile t).xfers tag x }

/-- The context's reservation changes. -/
def State.setCtxResv (s : State) (t c : Nat) (r : Option (Target × Nat)) (at_ : Nat) : State :=
  s.setTile t ((s.tile t).setCtx c { (s.tile t).ctx c with resv := r, resvAt := at_ })

/-- An STC fails without a memory access: X[DR + 1] becomes 1 and its tag completes; any reservation ends (R219, R357). -/
def State.stcFail (s : State) (t tag : Nat) (x : Xfer) : State :=
  let s := ((s.setCtxResv t x.ctx none 0).dropResv (.tile t x.ctx)).orderCount 1
  let k := (s.tile t).ctx x.ctx
  (s.setTile t ((s.tile t).setCtx x.ctx (k.wx (x.dr + 1) 1))).completeTag t tag

/-- Meter every line of a transfer in order; none where a declared count would be passed. -/
def State.meterPieces (s : State) (x : Xfer) (l : List (Nat × Nat × Target × TlbEnt)) : Option State :=
  l.foldl (fun s p => s.bind (fun s => s.metered x.req p.2.2.1.meter (pieces p.2.2.1.addr p.2.1 64).length)) (some s)

/-- Send a translated transfer. -/
def State.xferSend (s : State) (t tag : Nat) (x : Xfer) (acid : Nat) (late : Bool)
    (l : List (Nat × Nat × Target × TlbEnt)) : Option State :=
  match s.meterPieces x l with
  | none => some (s.overDemand x.req t (x.pos t))
  | some s =>
    let r := l.foldl (fun (r : Option (State × List (Nat × Nat × Nat))) p =>
      r.bind (fun (s, ids) => (s.sendPiece t x acid p).map (fun (s, more) => (s, ids ++ more)))) (some (s, []))
    r.map (fun (s, ids) =>
      s.setXfer t tag { x with phase := 2, late := late, lines := ids, homes := l.flatMap (fun p => p.2.2.1.homes p.2.1),
                               pages := l.map (fun p => p.2.2.2.page) })

/-- A post goes to its engine: the XFU writes V and TAGGRP into the command (R218). It is held at the cabinet port while the engine
is full. -/
def State.post (s : State) (t tag : Nat) (x : Xfer) : State :=
  let s := s.setXfer t tag { x with phase := 2 }
  let grp := (16 * x.ctx + x.grp) % 256
  if x.op = 0x13 then
    let v := leNat x.data
    let v := v - 2 ^ 494 * ((v >>> 494) % 2) + 2 ^ 494 * b2n x.vbit
    let v := v - 2 ^ 252 * ((v >>> 252) % 256) + 2 ^ 252 * grp
    let g := 4 * cabOf t + (v >>> 492) % 4
    let c : GCmd := { raw := natLe v 64, tile := t, ctx := x.ctx, xtag := tag, req := x.req }
    s.setGpe g { s.gpe g with posted := (s.gpe g).posted ++ [c] }
  else
    let v := leNat x.data
    let v := v - 2 ^ 416 * ((v >>> 416) % 256) + 2 ^ 416 * grp
    let c : Scan := { raw := natLe v 64, tile := t, ctx := x.ctx, xtag := tag, req := x.req }
    s.setHse (cabOf t) { s.hse (cabOf t) with posted := (s.hse (cabOf t)).posted ++ [c] }

/-- A translated transfer that may go: a load takes an earlier store's bytes where it can, LDR sets the reservation and STC goes
by it (R219, R352, R357). -/
def State.xferStart (s : State) (t tag : Nat) (x : Xfer) (acid : Nat) (late : Bool) (l : List (Nat × Nat × Target × TlbEnt)) :
    Option State :=
  if opLoads x.op && !x.dev then
    match s.forwards t x with
    | .waits => none
    | .partly => some (s.setXfer t tag { x with partly := true })
    | .memory => s.xferSend t tag x acid late l
    | .bytes b p => some (s.setXfer t tag { x with phase := 2, fwd := true, data := b, poison := p })
  else if x.op = 7 then
    match l.head? with
    | some p =>
      let g := p.2.2.1.granule x.gran
      ((s.dropResv (.tile t x.ctx)).setCtxResv t x.ctx (some (p.2.2.1.align g, g)) x.arith).xferSend t tag x acid late l
    | none => none
  else if x.op = 8 then
    match l.head?, ((s.tile t).ctx x.ctx).resv with
    | some p, some (base, g) =>
      if p.2.2.1.align g = base then (s.setCtxResv t x.ctx none 0).xferSend t tag x acid late l
      else some (s.stcFail t tag x)
    | _, _ => none
  else s.xferSend t tag x acid late l

/-- Take one queued transfer as far as it goes; none where it must wait. -/
def State.xferGo (s : State) (t tag : Nat) (x : Xfer) : Option State :=
  let q := s.req x.req
  let acid := q.acid
  let who : Waiter := { who := .tile t tag, access := opAccess x.op }
  if opBars x.op || !s.mayLeave t x then none
  else if opPosts x.op then some (s.post t tag x)
  else if x.op = 8 && ((s.tile t).ctx x.ctx).resv.isNone then some (s.stcFail t tag x)
  else
    let wait (s' : State) : Option State :=
      let s'' := if x.phase = 1 then s' else s'.setXfer t tag { x with phase := 1 }
      if s'' = s then none else some s''
    match s.xlPages t x acid with
    | (s', .stop off (.fault ty lv)) =>
      some (s'.taskFault x.req t { va := x.va + off, acid := acid, type := ty, access := (opAccess x.op).code, level := lv,
                                   source := 0, unit := t } (x.pos t))
    | (_, .stop off .miss) => wait (s.joinWalk acid (x.va + off) who)
    | (_, .stop _ (.ats e)) => wait (s.joinAts e who)
    | (_, .stop _ (.go _ _)) => none
    | (s', .go l) =>
      let dev := l.any (fun p => (s.regionAttr p.2.2.2.attr).1)
      let late := l.any (fun p => (s.regionAttr p.2.2.2.attr).2)
      let x := { x with dev := dev }
      let onDev := l.all (fun p => match p.2.2.1 with
                                   | .dev _ => true
                                   | _ => false)
      let onFab := l.any (fun p => match p.2.2.1 with
                                   | .fab _ => true
                                   | _ => false)
      let lost := l.any (fun p => match p.2.2.1 with
                                  | .host p _ => !s.hostOk p
                                  | _ => false)
      let held := l.any (fun p => match p.2.2.1 with
                                  | .host p _ => s.hostHeld p
                                  | _ => false)
      if q.locked && !onDev then some (s'.lockFail x.req t 1 (x.pos t))
      else if (x.op = 7 || x.op = 8 || opAtomics x.op) && onFab && !x.vbit then
        some (s'.endTask x.req stBadXfer t (x.pos t))
      else if dev && !s.deviceClear t x acid then none
      else if lost then some (s'.endTask x.req stHostLost t (x.pos t))
      else if held && !s.pcs.quiesced then none
      else
        s'.xferStart t tag x acid late l

/-- XFU_TRANSFER_ISSUE (R352): the oldest transfer that need not wait. -/
def State.xfuIssue (s : State) (t : Nat) : State :=
  let queued := ((s.tile t).xfers.filter (fun p => p.2.phase ≤ 1)).mergeSort (fun a b => decide (a.2.seq ≤ b.2.seq))
  match queued.findSome? (fun p => s.xferGo t p.1 p.2) with
  | some s' => s'
  | none => s

def execXfuTransferIssue (tile : Fin 96) (s : State) : Answer := .next (if s.halted then s else s.xfuIssue tile)

/-! ### Completion (R221, R345) -/

/-- The answers to a transfer's requests, with their places in its data. -/
def State.xferAnswers (s : State) (x : Xfer) : List (Option MemRsp × Nat × Nat) := x.lines.map (fun l => (sfind s.rsps l.1, l.2.1, l.2.2))

/-! ### The order of answers (R17)

Answers that a slice, or the fabric port, sends to a cabinet's port arrive in the order in which it sent them. An answer is taken when the
command of its arrival runs, or the last of a transfer's at the completion of its tag: so what has wholly been answered before is taken
before. -/

/-- The place of an answer that has been sent: its slice and its number there. -/
def State.turnOf (s : State) (home id : Nat) : Option (Nat × Nat) :=
  match sfind s.rsps id with
  | some m => if m.performed then some (home, m.num) else none
  | none => none

/-- The home of a target's answers. -/
def Target.home (t : Target) : Nat :=
  match t with
  | .fab _ => 16
  | t => t.slice

/-- The places of a transfer's answers. -/
def State.xferTurn (s : State) (x : Xfer) : List (Nat × Nat) := (x.lines.zip x.homes).filterMap (fun p => s.turnOf p.2 p.1.1)

/-- What of a cabinet has been answered wholly and has not been taken: transfers that return data, and lines of its GPEs and HSE. -/
def State.answered (s : State) (cab : Nat) : List (List (Nat × Nat)) :=
  let xfers := (s.tiles.tile.filter (fun t => cabOf t.1 = cab)).flatMap (fun t =>
    (t.2.xfers.filter (fun x => x.2.phase = 2 && opMem x.2.op && !opStores x.2.op)).filterMap (fun x =>
      let l := s.xferTurn x.2
      if l.length = x.2.lines.length then some l else none))
  let gpes := (s.gpes.filter (fun g => g.1 / 4 = cab)).flatMap (fun g =>
    g.2.tags.filterMap (fun t => (t.2.id.bind (s.turnOf t.2.tgt.home)).map (fun p => [p])))
  let hse := (s.hse cab).tags.filterMap (fun t => (t.2.id.bind (s.turnOf t.2.tgt.home)).map (fun p => [p]))
  xfers ++ gpes ++ hse

/-- Answers may be taken now: none that has wholly been answered earlier still waits. -/
def State.inTurn (s : State) (cab : Nat) (l : List (Nat × Nat)) : Bool :=
  !(s.answered cab).any (fun m => !m.isEmpty && m.all (fun a => l.any (fun b => a.1 = b.1 && decide (a.2 < b.2))))

/-- The bytes a load returned. -/
def loadBytes (x : Xfer) (l : List (Option MemRsp × Nat × Nat)) : Bytes :=
  if x.fwd then x.data
  else l.foldl (fun b r => match r.1 with
                           | some m => patch b r.2.1 (bytesAt m.data 0 r.2.2)
                           | none => b) (zeros x.len)

/-- Data that arrives for a context whose task goes on: scratch, X[DR], or a pair. -/
def State.deliver (s : State) (t : Nat) (x : Xfer) (l : List (Option MemRsp × Nat × Nat)) : State :=
  let y := s.tile t
  let k := y.ctx x.ctx
  let b := loadBytes x l
  let bad := l.any (fun r => r.1.any (fun m => m.poison)) || !x.poison.isEmpty
  let put (k : Ctx) : State := s.setTile t (y.setCtx x.ctx k)
  if x.op = 1 then
    let y := if x.fwd then
        (List.range ((x.len + 63) / 64)).foldl (fun y w =>
          y.scrWrite (64 * (x.word + w)) ((b.drop (64 * w)).take 64) (x.poison.contains w)) y
      else l.foldl (fun y r => match r.1 with
                               | some m => y.scrWrite (64 * x.word + r.2.1) (bytesAt m.data 0 r.2.2) m.poison
                               | none => y) y
    s.setTile t y
  else if (opLoads x.op || x.op = 7 || opAtomics x.op) && bad then s.endTask x.req stPoison t (x.pos t)
  else if x.op = 5 then
    put ((k.wx x.dr (BitVec.ofNat 64 (le b 0 8))).wx (x.dr + 1) (BitVec.ofNat 64 (le b 8 8)))
  else if opLoads x.op || x.op = 7 || opAtomics x.op then put (k.wx x.dr (BitVec.ofNat 64 (leNat b)))
  else if x.op = 8 then
    put (k.wx (x.dr + 1) (if l.all (fun r => r.1.all (fun m => m.data = [0])) then 0 else 1))
  else s

/-- The tracker takes the lines of a store that is accepted and not yet performed. -/
def State.track (s : State) (t : Nat) (x : Xfer) : State :=
  let open_ := x.lines.filter (fun l => s.unperformed l.1)
  let y := s.tile t
  s.setTile t { y with tracker := y.tracker ++ open_.map (fun l =>
    { ctx := x.ctx, req := x.req, id := l.1, seq := x.seq, va := x.va + l.2.1, len := l.2.2, dev := x.dev,
      since := x.since, pages := x.pages }) }

/-- A context takes what arrives for it: it is resident and its task has not ended. -/
def State.taking (s : State) (t : Nat) (x : Xfer) : Bool :=
  let k := (s.tile t).ctx x.ctx
  k.phase ≠ 0 && k.phase ≠ 5 && !(s.req x.req).ending

/-- XFER_COMPLETE (R221): a barrier with its class performed; a load, LDR, STC or atomic with every line performed; a store
accepted (LATE_ACK 0, room in the tracker) or performed. A line that was refused ends the task. -/
def State.xferDone (s : State) (t tag : Nat) : State :=
  let s := s.prune t
  match sfind (s.tile t).xfers tag with
  | none => s
  | some x =>
    if opBars x.op then (if s.barDone t x then s.completeTag t tag else s)
    else if x.phase ≠ 2 || opPosts x.op then s
    else
      let l := s.xferAnswers x
      let ids := x.lines.map (fun p => p.1)
      let done := l.all (fun r => r.1.any (fun m => m.performed))
      let accepted := l.all (fun r => r.1.isSome)
      let room := decide ((s.tile t).tracker.length + (x.lines.filter (fun p => s.unperformed p.1)).length ≤ 4096)
      match l.find? (fun r => r.1.any (fun m => m.performed && m.err ≠ .none)) with
      | some (some m, off, _) =>
        if !done || !(opStores x.op || s.inTurn (cabOf t) (s.xferTurn x)) then s
        else
          let s := if !s.taking t x then s
            else if m.err = .hostLost then s.endTask x.req stHostLost t (x.pos t)
            else s.taskFault x.req t { va := x.va + off, acid := (s.req x.req).acid, type := ftOwner,
                                       access := (opAccess x.op).code, source := 0, unit := t } (x.pos t)
          (s.forget ids).completeTag t tag
      | _ =>
        if opStores x.op then
          if done then (s.forget ids).completeTag t tag
          else if accepted && !x.late && room then
            let away := (x.lines.filter (fun p => s.unsent p.1)).map (fun p => XferRef.store t p.1)
            ((s.track t x).handOver (.tile t tag) away).freeTag t tag
          else s
        else if done && s.inTurn (cabOf t) (s.xferTurn x) then
          let s := if s.taking t x then s.deliver t x l else s
          (s.forget ids).completeTag t tag
        else s

def execXferComplete (tile : Fin 96) (tag : Nat) (s : State) : Answer := .next (if s.halted then s else s.xferDone tile tag)

/-! ### Timeouts (R223, R354) -/

/-- XFER_TIMEOUT: a memory transfer is not complete 50 µs after its issue. The task ends, and the tag returns. -/
def State.xferLate (s : State) (t tag : Nat) : State :=
  match sfind (s.tile t).xfers tag with
  | none => s
  | some x =>
    if !opMem x.op || since s.now x.since < 50000 then s
    else
      let held := s.heldByInv (.tile t tag)
      let s := (s.tileCount t 4).endTask x.req (if held then stXlateDrain else stXferTimeout) t (x.pos t)
      (((if held then s.mtuCount 7 else s).settle (.tile t tag) true).freeTag t tag).discardReqs (x.lines.map (fun p => p.1))

/-- A tracked store on the fabric, whose tag has completed, is not acknowledged 50 µs after its issue: its task ends, and nobody
awaits it any more (R223, R385). -/
def State.storeLate (s : State) (t id : Nat) : State :=
  match (s.tile t).tracker.find? (fun x => x.id = id) with
  | none => s
  | some x =>
    if since s.now x.since < 50000 || !s.unperformed id || !s.onFabric id then s
    else
      let held := s.heldByInv (.store t id)
      let s := (s.tileCount t 4).endTask x.req (if held then stXlateDrain else stXferTimeout) t
      let s := s.setTile t { s.tile t with tracker := (s.tile t).tracker.filter (fun x => x.id ≠ id) }
      ((if held then s.mtuCount 7 else s).settle (.store t id) true).discardReqs [id]

/-- XFER_TIMEOUT: tags 0 to 255 are those of the XFU; 256 + id names the tracked store with request number id. -/
def execXferTimeout (tile : Fin 96) (tag : Nat) (s : State) : Answer :=
  .next (if s.frozen then s else if tag < 256 then s.xferLate tile tag else s.storeLate tile (tag - 256))

/-- RESERVATION_TIMEOUT (R354): 4,096 ARITH cycles have passed since the LDR's issue. -/
def State.resvLate (s : State) (t c : Nat) : State :=
  let k := (s.tile t).ctx c
  if k.resv.isSome && decide (4096 * 1000000000 ≤ s.arithTicks - k.resvAt) then
    ((s.setCtxResv t c none 0).dropResv (.tile t c)).orderCount 4
  else s

def execReservationTimeout (tile : Fin 96) (ctx : Fin 17) (s : State) : Answer := .next (s.resvLate tile ctx)

end Sys2Proof.Machine
end

