-- ==== Sys2Proof/Machine/Gpe.lean ====
section
/-! DEFINITION. The gather-pool engines (chapter 4): commands, row resolution, line reads, pooling in list order, and pushdown. -/
namespace Sys2Proof.Machine

/-! ### A gather command's fields (Table 4.3) -/

def gTable (b : Bytes) : Nat := fld b 500 12
/-- MODE: 0 GATHER, 1 SUM, 2 MEAN, 3 MAX, 4 WSUM. -/
def gMode (b : Bytes) : Nat := fld b 497 3
def gOutBf (b : Bytes) : Bool := bit b 496
def gIdw (b : Bytes) : Bool := bit b 495
def gV (b : Bytes) : Bool := bit b 494
def gForm (b : Bytes) : Nat := fld b 490 2
def gGuard (b : Bytes) : Nat := fld b 477 13
def gZp (b : Bytes) : Nat := fld b 469 8
def gOutTile (b : Bytes) : Nat := fld b 466 3
def gScale (b : Bytes) : Nat := fld b 416 32
def gNids (b : Bytes) : Nat := fld b 399 17
def gNout (b : Bytes) : Nat := fld b 386 13
def gIds (b : Bytes) : Nat := fld b 364 22
def gOffs (b : Bytes) : Nat := fld b 342 22
def gWts (b : Bytes) : Nat := fld b 320 22
def gOut (b : Bytes) : Nat := fld b 298 22
def gStride (b : Bytes) : Nat := fld b 282 16
def gStat (b : Bytes) : Nat := fld b 260 22

/-- Bytes of an ID in the list. -/
def gIdBytes (b : Bytes) : Nat := if gIdw b then 4 else 8

/-! ### A pushdown request's header (Table 4.5) -/

def pdEpoch (h : Bytes) : Nat := fld h 192 64
def pdTable (h : Bytes) : Nat := fld h 180 12
def pdMode (h : Bytes) : Nat := fld h 177 3
def pdForm (h : Bytes) : Nat := fld h 175 2
def pdGuard (h : Bytes) : Nat := fld h 162 13
def pdZp (h : Bytes) : Nat := fld h 154 8
def pdCount (h : Bytes) : Nat := fld h 144 10
def pdTag (h : Bytes) : Nat := fld h 128 16
def pdScale (h : Bytes) : Nat := fld h 96 32
def pdDim (h : Bytes) : Nat := fld h 84 12 + 1

/-- Status bits (Table 4.4). -/
def fEmpty : Nat := 1
def fPoison : Nat := 2
def fDefaulted : Nat := 8
def fMayVary : Nat := 16
def fEscaped : Nat := 32

/-- RESULT of a pushdown response (Table 4.6). -/
def rsOk : Nat := 0
def rsAbsent : Nat := 1
def rsNoTable : Nat := 2
def rsMalformed : Nat := 3

/-- The task status that a RESULT brings about (R125). -/
def resultStatus (r : Nat) : Nat := if r = rsAbsent then stEpochAbsent else stBadGather

/-! ### Commands -/

def State.gcmd (s : State) (g k : Nat) : GCmd := sget {} (s.gpe g).cmds k
def State.setGcmd (s : State) (g k : Nat) (c : GCmd) : State := s.setGpe g { s.gpe g with cmds := sput (s.gpe g).cmds k c }

/-- GPE_COUNTS: 0 COMMANDS, 1 LINES, 2 BAD_GATHER, 3 EMPTY_OUT, 4 PD_SENT, 5 PD_SERVED, 6 PD_TIMEOUT, 7 PD_LATE. -/
def State.gpeCount (s : State) (g k : Nat) : State := s.bump 0x6001 g k

/-- The GPE is under a unit reset (Table 17.2). -/
def State.gpeResetting (s : State) (g : Nat) : Bool := s.faults.resets.contains (uGpe * 256 + g)

/-- A request's task goes on. -/
def State.taskGoesOn (s : State) (r : Nat) : Bool := (sfind s.sqe.reqs r).any (fun q => !q.ending)

/-- The faulting bundle of a command's post. -/
def State.postPos (s : State) (tile xtag : Nat) : Option (Nat × Nat × Nat) :=
  (sfind (s.tile tile).xfers xtag).map (fun x => (tile, x.ctx, x.seq))

/-- A command leaves its GPE: its slots and the tags that wait for a translation are freed, the others as their lines return;
the tag of its post completes. -/
def State.gDrop (s : State) (g k : Nat) : State :=
  let x := s.gpe g
  let c := s.gcmd g k
  let slots := (x.slots.filter (fun p => p.2.cmd = k)).map (fun p => p.1)
  let s := s.setGpe g { x with cmds := sdel x.cmds k, slots := x.slots.filter (fun p => p.2.cmd ≠ k),
                               tags := x.tags.filter (fun p => p.2.cmd ≠ k || p.2.id.isSome) }
  let s := { s with fab := { s.fab with tags := s.fab.tags.filter (fun p =>
    match p.2 with
    | .pd h n => !(h = g && slots.contains n)
    | _ => true) } }
  if c.pd.isSome then s else s.completeTag c.tile c.xtag

/-- Commands of tasks that are ending stop (R229): they write nothing further, and the tags of their posts return. -/
def State.gReap (s : State) (g : Nat) : State :=
  let dead := ((s.gpe g).cmds.filter (fun p => p.2.pd.isNone && !s.taskGoesOn p.2.req)).map (fun p => p.1)
  let s := dead.foldl (fun s k => s.gDrop g k) s
  let held := (s.gpe g).posted.filter (fun c => !s.taskGoesOn c.req)
  let s := s.setGpe g { s.gpe g with posted := (s.gpe g).posted.filter (fun c => s.taskGoesOn c.req) }
  held.foldl (fun s c => s.completeTag c.tile c.xtag) s

/-- GPE_COMMAND_ENQUEUE (R108): the oldest post takes a place; posts wait while the GPE is full or under a unit reset. -/
def State.gpeEnqueue (s : State) (g : Nat) : State :=
  if s.frozen then s
  else
    let s := s.gReap g
    let x := s.gpe g
    match x.posted with
    | c :: rest =>
      if x.cmds.length < 32 && !s.gpeResetting g then
        s.setGpe g { x with posted := rest, cmds := sput x.cmds x.next c, next := x.next + 1 }
      else s
    | [] => s

def execGpeCommandEnqueue (gpe : Fin 48) (s : State) : Answer := .next (s.gpeEnqueue gpe)

/-! ### What a command says of its rows -/

/-- The mode, whether the row source is a pushdown table's local part or an inbound part, and the elements per row. -/
def GCmd.mode (c : GCmd) : Nat :=
  match c.pd with
  | some p => pdMode p.msg.payload
  | none => gMode c.raw

/-- A command on a PUSHDOWN table. -/
def GCmd.push (c : GCmd) : Bool := c.pd.isNone && tdPush c.cdesc

/-- The rows must lie on shelves 1 and 2 (R121). -/
def GCmd.homeRows (c : GCmd) : Bool := c.pd.isSome || c.push

/-- The elements per row. -/
def GCmd.dim (c : GCmd) : Nat := tdDim (if c.pd.isSome then c.desc else c.cdesc)

/-- The length of the row stream that the GPE reads now: an inbound part, a part pooled here, or the command's list. -/
def GCmd.streamLen (c : GCmd) : Nat :=
  match c.pd, c.lpart with
  | some p, _ => pdCount p.msg.payload
  | none, some j => (sget {} c.parts j).ids.length
  | none, none => if c.push then 0 else gNids c.raw

/-- An ID and its weight of the posting tile's list. R107 says that a scratch address lies in the target tile's scratchpad, and R245
relocates all but OUT_ADDR by the posting context's frame: the lists and the status bytes lie in the posting tile (DEDUCED, log 88). -/
def State.listId (s : State) (c : GCmd) (i : Nat) : Nat × Nat :=
  let y := s.tile c.tile
  let w := gIdBytes c.raw
  (leNat (mread y.scr (c.base + gIds c.raw + w * i) w),
   if gMode c.raw = 4 then leNat (mread y.scr (c.base + gWts c.raw + 4 * i) 4) else 0)

/-- The ID and weight of row i of the stream. -/
def State.streamId (s : State) (c : GCmd) (i : Nat) : Nat × Nat :=
  match c.pd, c.lpart with
  | some p, _ =>
    let b := p.msg.payload
    (le b (32 + 8 * i) 8, if pdMode b = 4 then le b (32 + 8 * pdCount b + 4 * i) 4 else 0)
  | none, some j => ((sget {} c.parts j).ids.getD i 0, (sget {} c.parts j).ws.getD i 0)
  | none, none => s.listId c i

/-- The end offset of bag b. -/
def State.bagEndAt (s : State) (c : GCmd) (b : Nat) : Nat :=
  if gMode c.raw = 0 then b + 1 else leNat (mread (s.tile c.tile).scr (c.base + gOffs c.raw + 4 * b) 4)

/-- An end offset breaks R109: below the one before it, or the last one differs from NIDS. One above NIDS names IDs the list does
not have, and no later offset can mend it. -/
def GCmd.badEnd (c : GCmd) (b lo hi : Nat) : Bool :=
  decide (hi < lo) || decide (gNids c.raw < hi) || (b + 1 = gNout c.raw && hi ≠ gNids c.raw)

/-! ### Row resolution (R103 to R106, R140) -/

/-- A row with a slot: its lines are to be read. -/
def GRow.toSlot (r : GRow) (d ec : Bytes) (x : SlotRes) : GRow :=
  let va := slotVa d ec x
  { r with stage := 3, va := va, want := linesOf va (tdRowBytes d), got := [] }

/-- A row of a DIRECT or HASHED table: its version entry comes first, unless the table is IMMEDIATE. -/
def GRow.toRowed (r : GRow) (d ec : Bytes) (num : Nat) : GRow :=
  if tdImm d then { r with num := num }.toSlot d ec (.home num)
  else { r with stage := 2, num := num, want := [(ecVer ec + 8 * num) / 64 * 64], got := [] }

/-- A miss takes the DEFAULT policy (R106). A DIRECTORY table's DEFAULT_SLOT is a home slot, which no entry resolves. -/
def GRow.toMiss (r : GRow) (d ec : Bytes) : GRow :=
  let r := { r with miss := true, want := [], got := [] }
  match tdDefault d with
  | 0 => { r with stage := 4, eff := 1 }
  | 1 => { r with stage := 4, eff := 2 }
  | _ => if tdKind d = 2 then r.toSlot d ec (.home (tdDefSlot d)) else r.toRowed d ec (tdDefSlot d)

/-- The row that an ID begins (R103). -/
def GRow.start (d ec : Bytes) (id w : Nat) : GRow :=
  let r : GRow := { id := id, w := w }
  match tdKind d with
  | 0 => if tdRowsM1 d < id then r.toMiss d ec else r.toRowed d ec id
  | 1 => r.toRowed d ec (reduce (mix id (tdSeed d)) (tdRowsM1 d + 1))
  | _ => { r with stage := 1, want := [bucketVa d id 0] }

/-- A directory bucket or a version entry has arrived: the row goes on. -/
def GRow.onLine (r : GRow) (d ec : Bytes) (epoch : Nat) (line : Bytes) : GRow :=
  let take (r : GRow) (x : SlotRes) : GRow := if x = .miss then r.toMiss d ec else r.toSlot d ec x
  if r.stage = 2 then
    take r (resolveRowed r.num (bytesAt line ((ecVer ec + 8 * r.num) % 64) 8) epoch)
  else
    match bucketFind line r.id with
    | .found _ e => take r (resolveDir (tdImm d) e epoch)
    | .stop => r.toMiss d ec
    | .onward =>
      if r.probe < tdProbeM1 d then
        { r with probe := r.probe + 1, want := [bucketVa d r.id (r.probe + 1)], got := [] }
      else r.toMiss d ec

/-- Every line of the row has arrived. -/
def GRow.whole (r : GRow) (d : Bytes) : Bool :=
  r.stage = 4 || (r.stage = 3 && r.want.isEmpty && r.got.length = (linesOf r.va (tdRowBytes d)).length)

/-- The row's bytes. -/
def GRow.bytes (r : GRow) (d : Bytes) : Bytes :=
  bytesAt (r.got.flatMap (fun p => bytesAt p.2 0 64)) (r.va % 64) (tdRowBytes d)

/-- The row's elements as FP32 (R111). -/
def GRow.values (r : GRow) (d : Bytes) : List Nat :=
  if r.eff = 2 then List.replicate (tdDim d) 0
  else
    (elems (r.bytes d) (tdFmt d) (tdBlk d) (tdDim d)).map (fun v =>
      if tdTscale d = 0x3F800000 then toFp32 v else fpMul 0 (toFp32 v) (tdTscale d))

/-! ### Pooling (R112, R113, R122) -/

/-- Fold one contributing row into an accumulator of `n` rows. -/
def poolRow (mode n w : Nat) (acc row : List Nat) : List Nat :=
  if mode = 4 then
    if n = 0 then row.map (fun r => fpMul 0 w r) else acc.zipWith (fun a r => fpFma 0 w r a) row
  else if n = 0 || mode = 0 then row
  else if mode = 3 then acc.zipWith (fun a r => fpMinMax 0 true a r) row
  else acc.zipWith (fun a r => fpAdd 0 a r) row

/-- The empty result (R113). -/
def emptyVec (mode : Nat) (d : Bytes) (dim : Nat) : List Nat := List.replicate dim (if mode = 3 then tdEmpty d else 0)

/-- MEAN divides by the row count. -/
def meanOf (mode n : Nat) (acc : List Nat) : List Nat :=
  if mode = 2 then acc.map (fun a => fpDiv 0 a (roundNum 0 (.fin false n 1))) else acc

/-- Combine the parts of a bag in combining order: the vector and the number of rows. -/
def combineParts (mode : Nat) (parts : List Part) : List Nat × Nat :=
  (parts.filter (fun p => p.n ≠ 0)).foldl (fun (acc, n) p =>
    (if n = 0 then p.value
     else if mode = 3 then acc.zipWith (fun a r => fpMinMax 0 true a r) p.value
     else acc.zipWith (fun a r => fpAdd 0 a r) p.value, n + p.n)) ([], 0)

/-! ### Output (R110, R114, R116) -/

/-- Write a bag's vector in OUT_TILE and its status byte in the posting tile (log 88), and go on to the next bag. -/
def State.gEmit (s : State) (g k : Nat) (c : GCmd) (vec : List Nat) (n flags : Nat) : State :=
  let vec := if n = 0 then emptyVec (gMode c.raw) c.cdesc (tdDim c.cdesc) else meanOf (gMode c.raw) n vec
  let s := if n = 0 then s.gpeCount g 3 else s
  let fl := flags &&& 0b111010
  let fl := fl ||| (if n = 0 then fEmpty else 0) ||| (if tdImm c.cdesc then fMayVary else 0)
  let b := if gOutBf c.raw then packBits 16 (vec.map (fun v => roundNum 1 (decodeNum 0 v)))
    else packBits 32 (vec.map (fun v => if decodeNum 0 v = .nan then canonNan 0 else v))
  let ot := 8 * cabOf c.tile + gOutTile c.raw
  let s := s.setTile ot ((s.tile ot).scrWrite (c.obase + gOut c.raw + c.bag * gStride c.raw) b (fl.testBit 1))
  let s := s.setTile c.tile ((s.tile c.tile).scrWrite (c.base + gStat c.raw + c.bag) (natLe fl 1))
  s.setGcmd g k { c with bag := c.bag + 1, opened := false, acc := [], n := 0, flags := 0 }

/-! ### Failures -/

/-- BAD_GATHER (R109): counted, and the issuing task ends. -/
def State.badGather (s : State) (g : Nat) (c : GCmd) : State :=
  (s.gpeCount g 2).endTask c.req stBadGather c.tile (s.postPos c.tile c.xtag)

/-- Send a part's answer: 16 header bytes and the value (R124). -/
def State.pdAnswer (s : State) (m : FabMsg) (result n flags : Nat) (value : Bytes) : State :=
  let h := m.payload
  let head := natLe (2 ^ 48 * result + 2 ^ 56 * (flags % 256) + 2 ^ 64 * (n % 2 ^ 32) + 2 ^ 98 * pdForm h + 2 ^ 100 * pdTable h +
    2 ^ 112 * pdTag h) 16
  let b := head ++ value
  s.fabAnswer m 9 0 false (ceilDiv b.length 4) b

/-- A command or part cannot go on: a part is answered with a RESULT, a command's task ends with the status of it. -/
def State.gRefuse (s : State) (g k : Nat) (result : Nat) : State :=
  let c := s.gcmd g k
  match c.pd with
  | some p => (s.pdAnswer p.msg result 0 0 []).gDrop g k
  | none =>
    if result = rsAbsent then s.endTask c.req stEpochAbsent c.tile (s.postPos c.tile c.xtag)
    else s.badGather g c

/-- What a home finds of a part before it serves it (R125, R136). -/
def State.homeCheck (s : State) (d : Bytes) (table epoch dim : Nat) : Nat :=
  if !tdValid d then rsNoTable
  else if tdPush d || tdDim d ≠ dim then rsMalformed
  else if !tdImm d && !(s.table table).serves epoch then rsAbsent
  else rsOk

/-! ### Folding (R112, R115) -/

/-- Fold the next row of the stream, if every line of it has arrived; its tags are freed. -/
def State.gFoldRow (s : State) (g k : Nat) : Option State :=
  let c := s.gcmd g k
  match sfind c.rows c.pos with
  | none => none
  | some r =>
    if !r.whole c.desc then none
    else
      let x := s.gpe g
      let s := s.setGpe g { x with tags := x.tags.filter (fun p => !(p.2.cmd = k && p.2.row = c.pos)) }
      let fl := c.flags ||| (if r.miss then fDefaulted else 0)
      let c := { c with rows := sdel c.rows c.pos, pos := c.pos + 1, flags := fl }
      if r.eff = 1 then some (s.setGcmd g k c)
      else
        let bad := r.poison && r.eff = 0
        let s := if bad then s.tabCount c.table 2 else s
        some (s.setGcmd g k { c with acc := poolRow c.mode c.n r.w c.acc (r.values c.desc), n := c.n + 1,
                                     flags := fl ||| (if bad then fPoison else 0) })

/-- Split a bag into parts (R120): by shard, each shard's list in pieces of 512. -/
def State.splitBag (s : State) (c : GCmd) (b lo hi : Nat) : List Part :=
  let l := (List.range (hi - lo)).map (fun i =>
    let (id, w) := s.listId c (lo + i)
    let (sh, node) := s.shardOf c.cdesc id
    (sh, node, id, w))
  (List.range (tdShards c.cdesc)).flatMap (fun sh =>
    let l := l.filter (fun x => x.1 = sh)
    (List.range (ceilDiv l.length 512)).map (fun j =>
      let l := (l.drop (512 * j)).take 512
      { bag := b, shard := sh, home := (l.head?.map (fun x => x.2.1)).getD 0, ids := l.map (fun x => x.2.2.1),
        ws := l.map (fun x => x.2.2.2) }))

/-- Split the next bag of a PUSHDOWN command; its end offset is checked as it is read. -/
def State.gSplit (s : State) (g k : Nat) : State :=
  let c := s.gcmd g k
  let hi := s.bagEndAt c c.split
  if c.badEnd c.split c.splitEnd hi then s.badGather g c
  else
    let ps := s.splitBag c c.split c.splitEnd hi
    let parts := ps.foldl (fun (m, n) p => (sput m n p, n + 1)) (c.parts, c.nparts)
    s.setGcmd g k { c with parts := parts.1, nparts := parts.2, split := c.split + 1, splitEnd := hi }

/-- The next part that is pooled here begins, if one waits. -/
def State.gLocalPart (s : State) (g k : Nat) : Option State :=
  let c := s.gcmd g k
  match c.parts.find? (fun p => p.2.state = 0 && p.2.home = s.node.toNat) with
  | none => none
  | some (j, _) =>
    let r := s.homeCheck c.desc c.table c.epoch (tdDim c.cdesc)
    if r ≠ rsOk then some (s.gRefuse g k r)
    else some (s.setGcmd g k { c with lpart := some j, pos := 0, nrows := 0, rows := [], acc := [], n := 0, flags := 0 })

/-- A part pooled here has been folded. -/
def GCmd.endLocal (c : GCmd) (j : Nat) : GCmd :=
  let p := sget {} c.parts j
  let fl := c.flags ||| (if tdImm c.desc then fMayVary else 0)
  { c with parts := sput c.parts j { p with state := 3, n := c.n, flags := fl, value := c.acc },
           lpart := none, acc := [], n := 0, flags := 0, rows := [], nrows := 0, pos := 0 }

/-- A part's value in the form that the request names (R124). -/
def pdValue (h : Bytes) (v : List Nat) : Bytes :=
  match pdForm h with
  | 0 => packBits 32 v
  | 1 => packBits 16 (v.map (fun x => roundNum 1 (decodeNum 0 x)))
  | _ =>
    let o : CvtOpt := { zp := pdZp h, guard := pdGuard h, tscale := pdScale h }
    (o.narrow (v.map (decodeNum 0))).1

/-- A home's part has been folded: it is answered (R124, R121). -/
def State.pdFinish (s : State) (g k : Nat) (m : FabMsg) : State :=
  let c := s.gcmd g k
  let fl := c.flags ||| (if tdImm c.desc then fMayVary else 0) ||| (if c.n = 0 then fEmpty else 0)
  let v := if c.n = 0 then emptyVec c.mode c.desc (tdDim c.desc) else c.acc
  ((s.gpeCount g 5).pdAnswer m rsOk c.n fl (pdValue m.payload v)).gDrop g k

/-- One step of a command's fold: a row, the opening or the end of a bag, a part pooled here. -/
def State.gFoldStep (s : State) (g k : Nat) : Option State :=
  match sfind (s.gpe g).cmds k with
  | none => none
  | some c =>
    if !c.started || c.done then none
    else match c.pd with
      | some p => if c.pos < pdCount p.msg.payload then s.gFoldRow g k else some (s.pdFinish g k p.msg)
      | none =>
        if !s.taskGoesOn c.req then none
        else if gNout c.raw ≤ c.bag then some (s.setGcmd g k { c with done := true })
        else if tdPush c.cdesc then
          match c.lpart with
          | some j =>
            if c.pos < (sget {} c.parts j).ids.length then s.gFoldRow g k else some (s.setGcmd g k (c.endLocal j))
          | none =>
            match s.gLocalPart g k with
            | some s => some s
            | none =>
              if c.split ≤ c.bag then some (s.gSplit g k)
              else
                let mine := c.parts.filter (fun p => p.2.bag = c.bag)
                if mine.all (fun p => decide (2 ≤ p.2.state)) then
                  let (v, n) := combineParts (gMode c.raw) (mine.map (fun p => p.2))
                  let fl := mine.foldl (fun f p => f ||| p.2.flags) 0
                  some (s.gEmit g k { c with parts := c.parts.filter (fun p => p.2.bag ≠ c.bag) } v n fl)
                else none
        else if !c.opened then
          let hi := s.bagEndAt c c.bag
          if c.badEnd c.bag c.pos hi then some (s.badGather g c)
          else some (s.setGcmd g k { c with opened := true, bagEnd := hi })
        else if c.pos < c.bagEnd then s.gFoldRow g k
        else some (s.gEmit g k c c.acc c.n c.flags)

/-- Fold as far as the lines that have arrived allow. -/
def State.gFoldGo (s : State) (g k : Nat) : Nat → State
  | 0 => s
  | n + 1 =>
    match s.gFoldStep g k with
    | some s => s.gFoldGo g k n
    | none => s

/-- The fold of a command, step by step; each step folds a row or ends a part or a bag. -/
def State.gFold (s : State) (g k : Nat) : State :=
  let c := s.gcmd g k
  s.gFoldGo g k (2 * gNout c.raw + c.rows.length + 2 * c.parts.length + gNids c.raw + 4)

/-! ### The start of a command (R101, R109, R136) -/

/-- The bytes of an output vector. -/
def gVecBytes (b d : Bytes) : Nat := tdDim d * (if gOutBf b then 2 else 4)

/-- The conditions of R109 on the command, the descriptor and the request's frames. -/
def gBad (b d : Bytes) (base obase lanes : Nat) : Bool :=
  let mode := gMode b
  let w := gIdBytes b
  let vec := gVecBytes b d
  let top := 3 * 2 ^ 20
  let past (a n : Nat) : Bool := decide (top < a + n)
  !tdValid d || decide (4 < mode) || (tdPush d && gForm b = 3) ||
  decide (65536 < gNids b) || decide (4096 < gNout b) ||
  gIds b % w ≠ 0 || gOffs b % 4 ≠ 0 || (mode = 4 && gWts b % 4 ≠ 0) || gOut b % 64 ≠ 0 ||
  gStride b % 64 ≠ 0 || decide (gStride b < vec) ||
  past (base + gIds b) (w * gNids b) || (mode ≠ 0 && past (base + gOffs b) (4 * gNout b)) ||
  (mode = 4 && past (base + gWts b) (4 * gNids b)) || past (obase + gOut b) ((gNout b - 1) * gStride b + vec) ||
  past (base + gStat b) (gNout b) ||
  (mode = 0 && gNids b ≠ gNout b) || (mode = 0 && tdPush d) || (tdImm d && !gV b) || !lanes.testBit (gOutTile b)

/-- GATHER_COMMAND_START: the next command in order of arrival. It reads the descriptor once (R101), and EPOCH_CFG with it, under which
it finishes though the entry be rewritten while VALID is 0 (DEDUCED, log 92). -/
def State.gatherStart (s : State) (g : Nat) : State :=
  if s.frozen || s.gpeResetting g then s
  else
    let s := s.gReap g
    match (s.gpe g).cmds.find? (fun p => !p.2.started) with
    | none => s
    | some (k, c) =>
      let s := s.gpeCount g 0
      if gNout c.raw = 0 then s.setGcmd g k { c with started := true, done := true }
      else
        let n := gTable c.raw
        let d := s.tableDesc n
        let q := s.req c.req
        let frame := ((s.tile c.tile).ctx c.ctx).frame
        let base := 64 * s.frameBase c.tile frame
        let obase := 64 * s.frameBase (8 * cabOf c.tile + gOutTile c.raw) frame
        let n' := if tdPush d then tdRemote d else n
        let d' := if tdPush d then s.tableDesc n' else d
        let c := { c with started := true, base := base, obase := obase, cdesc := d, desc := d', table := n',
                          acid := tdAcid d', epoch := if tdImm d then 0 else (s.table n).epochFor q.snapshot,
                          ec := s.epochCfg n', gen := s.epm.gen }
        if gBad c.raw d base obase q.lanes then (s.setGcmd g k c).badGather g c
        else (s.setGcmd g k c).gFold g k

def execGatherCommandStart (gpe : Fin 48) (s : State) : Answer := .next (s.gatherStart gpe)

/-! ### Line reads (R97, R100, R128) -/

/-- A translation fault of a row read ends the task (R117), or answers the part MALFORMED (R121). -/
def State.gXlFault (s : State) (g k va type level : Nat) : State :=
  let c := s.gcmd g k
  let r : FaultRec := { va := va, gtc := s.now, acid := c.acid, type := type, access := Access.read.code, level := level,
                        source := 1, unit := g }
  match c.pd with
  | some _ => (s.record r).gRefuse g k rsMalformed
  | none => s.taskFault c.req c.tile r (s.postPos c.tile c.xtag)

/-- Meter a line a command reads; a part's reads are the requester's, and fabric reads are charged where they are served. -/
def State.gMeter (s : State) (c : GCmd) (tg : Target) : Option State :=
  match tg with
  | .dev _ => if c.pd.isSome then some s else s.metered c.req 0 1
  | .host _ _ => s.metered c.req 1 1
  | .fab _ => some s

/-- Send a translated line read; none where no fabric tag is free. -/
def State.gAsk (s : State) (g n : Nat) (t : GTag) (tg : Target) (e : TlbEnt) : Option State :=
  let c := s.gcmd g t.cmd
  let (id, s) := s.fresh
  let sent := match tg with
    | .fab fa => s.fabRequest (.mem id .read) 0 fa 64 [] false s.now
    | _ => some (s.toSlice { id := id, src := .gpe g, acid := c.acid, op := .read, tgt := tg, len := 64,
                             alloc := tdAlloc c.desc, device := (s.regionAttr e.attr).1, issued := s.now })
  sent.map (fun s =>
    let x := s.gpe g
    let t := { t with id := some id, tgt := tg, since := s.now, order := x.issues, acid := c.acid, page := e.page }
    ((s.setGpe g { x with tags := sput x.tags n t, issues := x.issues + 1 }).gpeCount g 1).tabCount c.table 3)

/-- Send the read of a tag's line; none where it must wait as it stands. -/
def State.gSend (s : State) (g n : Nat) (t : GTag) : Option State :=
  let c := s.gcmd g t.cmd
  let who : Waiter := { who := .gpe g n }
  let keep (s' : State) : Option State := if s' = s then none else some s'
  match s.xlate (.cab (g / 4)) c.acid t.va false with
  | (s', .fault ty lv) => some (s'.gXlFault g t.cmd t.va ty lv)
  | (_, .miss) => keep (s.joinWalk c.acid t.va who)
  | (_, .ats e) => keep (s.joinAts e who)
  | (s', .go tg e) =>
    let dev := match tg with
      | .dev _ => true
      | _ => false
    let lost := match tg with
      | .host p _ => !s.hostOk p
      | _ => false
    let held := match tg with
      | .host p _ => s.hostHeld p
      | _ => false
    if c.homeRows && !dev then some (s'.gRefuse g t.cmd rsMalformed)
    else if lost then some (s'.endTask c.req stHostLost c.tile (s.postPos c.tile c.xtag))
    else if held then none
    else
      match s'.gMeter c tg with
      | none => some (s'.overDemand c.req c.tile (s.postPos c.tile c.xtag))
      | some s' => s'.gAsk g n t tg e

/-- The first line a command may read next: the row, with the command's rows read in list order once their slots are known. -/
def GCmd.nextLine (c : GCmd) : Option (Nat × Nat) :=
  let rec go (clear : Bool) : SMap GRow → Option (Nat × Nat)
    | [] => none
    | (i, r) :: rest =>
      match r.want with
      | va :: _ => if r.stage ≤ 2 || clear then some (i, va) else go false rest
      | [] => go (clear && decide (3 ≤ r.stage)) rest
  go true c.rows

/-- A row of the stream is taken up. -/
def State.gNewRow (s : State) (g k : Nat) : State :=
  let c := s.gcmd g k
  let (id, w) := s.streamId c c.nrows
  let r := GRow.start c.desc c.ec id w
  let s := (s.setGcmd g k { c with rows := sput c.rows c.nrows r, nrows := c.nrows + 1 }).tabCount c.table 0
  if r.miss then s.tabCount c.table 1 else s

/-- Take a free tag for a line of a row and send its read. -/
def State.gTakeTag (s : State) (g k row va n : Nat) : State :=
  let c := s.gcmd g k
  let r := sget {} c.rows row
  let s := s.setGcmd g k { c with rows := sput c.rows row { r with want := r.want.drop 1 } }
  let t : GTag := { cmd := k, row := row, va := va, since := s.now, acid := c.acid }
  let s := s.setGpe g { s.gpe g with tags := sput (s.gpe g).tags n t }
  (s.gSend g n t).getD s

/-- Nothing waits to be sent: the next line of a command that has one, or of the row it takes up next. -/
def State.gNext (s : State) (g : Nat) : State :=
  match sfree (s.gpe g).tags 2048 with
  | none => s
  | some n =>
    match (s.gpe g).cmds.find? (fun p => p.2.started && !p.2.done && (p.2.nextLine.isSome || decide (p.2.nrows < p.2.streamLen))) with
    | none => s
    | some (k, c) =>
      match c.nextLine with
      | some (row, va) => s.gTakeTag g k row va n
      | none =>
        let s := s.gNewRow g k
        match (s.gcmd g k).nextLine with
        | some (row, va) => s.gTakeTag g k row va n
        | none => s.gFold g k

/-- GPE_LINE_READ_ISSUE: a read that waited for its translation, or the next line of the oldest command that has one. -/
def State.gIssue (s : State) (g : Nat) : State :=
  if s.frozen || s.gpeResetting g then s
  else
    let s := s.gReap g
    let waiting := (s.gpe g).tags.filter (fun p => p.2.id.isNone && !p.2.got)
    (waiting.findSome? (fun p => s.gSend g p.1 p.2)).getD (s.gNext g)

def execGpeLineReadIssue (gpe : Fin 48) (s : State) : Answer := .next (s.gIssue gpe)

/-! ### Lines that return (R115 to R117) -/

/-- A line's bytes reach its row. -/
def State.gLine (s : State) (g n : Nat) (t : GTag) (m : MemRsp) : State :=
  let x := s.gpe g
  let k := t.cmd
  let c := s.gcmd g k
  let r := sget {} c.rows t.row
  let b := bytesAt m.data 0 64
  let r := { r with poison := r.poison || m.poison }
  if r.stage = 3 then
    let late := x.tags.any (fun p => p.2.got && decide (t.order < p.2.order))
    let s := s.setGpe g { x with tags := sput x.tags n { t with id := none, got := true } }
    let s := s.setGcmd g k { c with rows := sput c.rows t.row { r with got := sput r.got t.va b } }
    (if late then s.cabChoice (g / 4) else s).gFold g k
  else
    let r' := r.onLine c.desc c.ec c.epoch b
    let s := s.setGpe g { x with tags := sdel x.tags n }
    let s := s.setGcmd g k { c with rows := sput c.rows t.row r' }
    (if r'.miss && !r.miss then s.tabCount c.table 1 else s).gFold g k

/-- The unit reset of a GPE (Table 17.2): its commands are discarded, and every task with one of them ends. -/
def State.gpeReset (s : State) (g : Nat) : State :=
  let cmds := (s.gpe g).cmds
  let s := { s with faults := { s.faults with resets := s.faults.resets ++ [uGpe * 256 + g] } }
  let s := cmds.foldl (fun s p => s.gDrop g p.1) s
  (cmds.filter (fun p => p.2.pd.isNone)).foldl (fun s p => s.endTask p.2.req stTrapped p.2.tile) s

/-- The tiles of tasks with a command in the GPE (R495). -/
def State.gpeTiles (s : State) (g : Nat) : List Nat :=
  (((s.gpe g).cmds.filter (fun p => p.2.pd.isNone)).flatMap (fun p => s.taskTiles p.2.req)).eraseDups

/-- What the pooling store showed during the fold (Table 17.7): STORE_CE is class A, STORE_UE class C. -/
def State.gpeFound (s : State) (g : Nat) (found : Ecc) (h : Hit) : State :=
  match found with
  | .clean => s
  | .corrected => s.fire uGpe g 0 h
  | .uncorrectable => s.fireWith (fun s => s.trapTiles (s.gpeTiles g) (Config.trapCause uGpe 1)) (fun s => s.gpeReset g) id uGpe g 1 h

/-- GPE_LINE_ARRIVE: the answer to a tag's read. -/
def State.gArrive (s : State) (g n : Nat) (found : Ecc) : State :=
  match sfind (s.gpe g).tags n with
  | none => s
  | some t =>
    match t.id.bind (fun id => (sfind s.rsps id).map (fun m => (id, m))) with
    | none => s
    | some (id, m) =>
      if !m.performed || s.faults.grave || !s.inTurn (g / 4) [(t.tgt.home, m.num)] then s
      else
        let s := ((s.settle (.gpe g n) false).forget [id]).countAccess t.acid t.va t.tgt
        let gone (s : State) : State := s.setGpe g { s.gpe g with tags := sdel (s.gpe g).tags n }
        match sfind (s.gpe g).cmds t.cmd with
        | none => gone s
        | some c =>
          if c.pd.isNone && !s.taskGoesOn c.req then (gone s).gReap g
          else match m.err with
            | .none =>
              let h : Hit := { access := 1, mUnit := uGpe, mNum := g, acid := c.acid, queue := (s.req c.req).q }
              match found with
              | .uncorrectable => (gone s).gpeFound g found h
              | _ => (s.gpeFound g found h).gLine g n t m
            | .hostLost => (gone s).endTask c.req stHostLost c.tile (s.postPos c.tile c.xtag)
            | _ => (gone s).gXlFault g t.cmd t.va ftOwner 7

def execGpeLineArrive (gpe : Fin 48) (tag : Nat) (found : Ecc) (s : State) : Answer := .next (s.gArrive gpe tag found)

/-- GATHER_COMMAND_COMPLETE: the oldest command, once its outputs are written, completes and signals its tag group. -/
def State.gComplete (s : State) (g : Nat) : State :=
  if s.frozen then s
  else
    let s := s.gReap g
    match (s.gpe g).cmds.find? (fun p => p.2.pd.isNone) with
    | some (k, c) => if c.done then s.gDrop g k else s
    | none => s

def execGatherCommandComplete (gpe : Fin 48) (s : State) : Answer := .next (s.gComplete gpe)

/-! ### Pushdown at the requester (R120 to R126) -/

/-- A part's request (Table 4.5). -/
def pdRequestBytes (c : GCmd) (p : Part) (tag : Nat) : Bytes :=
  natLe (2 ^ 84 * (tdDim c.cdesc - 1) + 2 ^ 96 * gScale c.raw + 2 ^ 128 * tag + 2 ^ 144 * p.ids.length + 2 ^ 154 * gZp c.raw +
    2 ^ 162 * gGuard c.raw + 2 ^ 175 * gForm c.raw + 2 ^ 177 * gMode c.raw + 2 ^ 180 * tdRemote c.cdesc + 2 ^ 192 * c.epoch) 32 ++
  p.ids.flatMap (fun id => natLe id 8) ++ (if gMode c.raw = 4 then p.ws.flatMap (fun w => natLe w 4) else [])

/-- The next part that must travel. -/
def State.partToSend (s : State) (c : GCmd) : Option (Nat × Part) :=
  c.parts.find? (fun p => p.2.state = 0 && p.2.home ≠ s.node.toNat)

/-- PD_REQUEST_SEND: the oldest command with a part to send; a bag not yet split is split first. PDTAG names the GPE and the slot. -/
def State.pdSend (s : State) (g : Nat) : State :=
  if s.frozen || s.gpeResetting g then s
  else
    let s := s.gReap g
    match (s.gpe g).cmds.find? (fun p => p.2.started && !p.2.done && p.2.push &&
      ((s.partToSend p.2).isSome || decide (p.2.split < gNout p.2.raw))) with
    | none => s
    | some (k, c) =>
      match s.partToSend c, sfree (s.gpe g).slots 64 with
      | none, _ => (s.gSplit g k).gFold g k
      | some _, none => s
      | some (j, p), some slot =>
        let pos := s.postPos c.tile c.xtag
        match s.metered c.req 2 1 with
        | none => s.overDemand c.req c.tile pos
        | some s' =>
          let b := pdRequestBytes c p (64 * g + slot)
          match s'.fabRequest (.pd g slot) 5 (2 ^ 48 * p.home) (b.length / 4) b false s.now with
          | none => s
          | some s' =>
            let s' := s'.setGcmd g k { c with parts := sput c.parts j { p with state := 1 } }
            let x := s'.gpe g
            (s'.setGpe g { x with slots := sput x.slots slot { cmd := k, part := j, since := s.now } }).gpeCount g 4

def execPdRequestSend (gpe : Fin 48) (s : State) : Answer := .next (s.pdSend gpe)

/-- The value of a response as FP32 (R122), and whether it came as an escaped transit tile. A tile that is not good widens to NaN
(R89). -/
def pdWiden (form dim : Nat) (b : Bytes) : List Nat × Bool :=
  match form with
  | 0 => ((List.range dim).map (fun i => le b (4 * i) 4), false)
  | 1 => ((List.range dim).map (fun i => 2 ^ 16 * le b (2 * i) 2), false)
  | _ =>
    match widenVals b dim with
    | some (esc, v) => (v.map toFp32, esc)
    | none => (List.replicate dim (canonNan 0), false)

/-- PD_RESPONSE_RECEIVE: a response is combined, ends the task, or is discarded as late. -/
def State.pdResponse (s : State) (k : Nat) : State :=
  match s.localMsg k with
  | none => s
  | some m =>
    if m.op.toNat ≠ 9 || s.frozen then s
    else
      let s := s.dropMsg k
      let b := m.payload
      let tag := fld b 112 16
      let late (s : State) : State := s.gpeCount (min 47 (tag / 64)) 7
      match sfind s.fab.tags m.tag.toNat with
      | some (.pd g slot) =>
        let s := { s with fab := { s.fab with tags := sdel s.fab.tags m.tag.toNat } }
        match sfind (s.gpe g).slots slot with
        | none => late s
        | some x =>
          let s := s.setGpe g { s.gpe g with slots := sdel (s.gpe g).slots slot }
          match sfind (s.gpe g).cmds x.cmd with
          | none => late s
          | some c =>
            let result := fld b 48 8
            if !s.taskGoesOn c.req then s.gReap g
            else if result ≠ rsOk then
              if result = rsAbsent then s.endTask c.req stEpochAbsent c.tile (s.postPos c.tile c.xtag) else s.badGather g c
            else
              let (v, esc) := pdWiden (gForm c.raw) (tdDim c.cdesc) (b.drop 16)
              let p := sget {} c.parts x.part
              let p := { p with state := 2, n := fld b 64 32, value := v,
                                flags := fld b 56 8 ||| (if esc then fEscaped else 0) }
              (s.setGcmd g x.cmd { c with parts := sput c.parts x.part p }).gFold g x.cmd
      | _ => late (s.gfrCount 3)

def execPdResponseReceive (msg : Nat) (s : State) : Answer := .next (s.pdResponse msg)

/-- PD_SLOT_TIMEOUT (R126): the task ends with REMOTE_LOST. -/
def State.pdTimeout (s : State) (g slot : Nat) : State :=
  match sfind (s.gpe g).slots slot with
  | none => s
  | some x =>
    if s.frozen || decide (since s.now x.since < 1000 * s.rdN 0x6002 0 0 4) then s
    else
      let c := s.gcmd g x.cmd
      let s := s.setGpe g { s.gpe g with slots := sdel (s.gpe g).slots slot }
      let s := { s with fab := { s.fab with tags := s.fab.tags.filter (fun p => p.2 ≠ TagFor.pd g slot) } }
      ((s.gpeCount g 6).endTask c.req stRemoteLost c.tile (s.postPos c.tile c.xtag)).gReap g

def execPdSlotTimeout (gpe : Fin 48) (slot : Nat) (s : State) : Answer := .next (s.pdTimeout gpe slot)

/-! ### Pushdown at the home (R121, R125, R127, R283) -/

/-- PD_REQUEST_ARRIVE: a request of a bad length or with a reserved bit is answered with MALFORMED (R440, R443); another enters the inbound
queue of 256, where a full queue leaves it at the router, and its port gets no credits back. -/
def State.pdArrive (s : State) (k : Nat) : State :=
  match s.localMsg k with
  | none => s
  | some m =>
    if m.op.toNat ≠ 5 then s
    else if s.faults.grave then (s.dropMsg k).fabAnswer m 0xA 1 false 0 []
    else if s.staleSent m.sent then (s.dropMsg k).countStale m
    else if m.rsv || m.payload.length ≠ 4 * m.len || decide (6176 < m.payload.length) then (s.dropMsg k).fabAnswer m 0xA 3 false 0 []
    else if 256 ≤ s.fab.pdIn.length then s
    else
      let s := s.dropMsg k
      { s with fab := { s.fab with pdIn := s.fab.pdIn ++ [{ msg := m }] } }

def execPdRequestArrive (msg : Nat) (s : State) : Answer := .next (s.pdArrive msg)

/-- The inbound bucket in thousandths of a line (R283): IN_RATE is in M lines/s, IN_BURST in lines. -/
def State.inBucketNow (s : State) : Nat :=
  min (1000 * s.rdN 0x7800 0 8 4) (s.sqe.inb.z + s.rdN 0x7800 0 4 4 * since s.now s.sqe.inb.zAt)

/-- The contents of the device line at a virtual address as they stand, or none. -/
def State.lineSeen (s : State) (p : TlbPath) (acid va : Nat) : Option Bytes :=
  match s.xlSeen p acid va false with
  | .go (.dev a) _ => some (s.lineNow (a / 64))
  | _ => none

/-- The line reads of one row (R130): its directory buckets or version entry, and the lines of the slot that these name. A read that
cannot be made counts as one and ends the row. -/
def State.rowReads (s : State) (p : TlbPath) (c : GCmd) : Nat → GRow → Nat
  | 0, _ => 0
  | n + 1, r =>
    if 3 ≤ r.stage then r.want.length
    else match r.want with
      | [] => 0
      | va :: _ =>
        1 + (match s.lineSeen p c.acid va with
          | none => 0
          | some line => s.rowReads p c n (r.onLine c.desc c.ec c.epoch line))

/-- The line reads of a part (R283), which it is charged when it starts. -/
def State.partLines (s : State) (p : TlbPath) (c : GCmd) : Nat :=
  ((List.range c.streamLen).map (fun i =>
    let (id, w) := s.streamId c i
    s.rowReads p c (tdProbeM1 c.desc + 4) (GRow.start c.desc c.ec id w))).foldl (· + ·) 0

/-- The GPE that serves the next inbound part: the fewest queued commands, then the lowest number; one under a unit reset or with a
full queue takes none. -/
def State.partGpe (s : State) : Option Nat :=
  (List.range 48).foldl (fun best g =>
    let n := (s.gpe g).cmds.length
    if s.gpeResetting g || 32 ≤ n then best
    else match best with
      | none => some g
      | some b => if n < (s.gpe b).cmds.length then some g else some b) none

/-- The header's form is bad (R125): COUNT, a reserved field, FORM, GUARD or MODE. -/
def pdBad (h : Bytes) : Bool :=
  pdCount h = 0 || decide (512 < pdCount h) || fld h 0 84 ≠ 0 || pdForm h = 3 || decide (4096 < pdGuard h) || pdMode h = 0 ||
  decide (4 < pdMode h)

/-- PD_PART_START: the head of the inbound queue is refused, or starts within the inbound bucket. -/
def State.partStart (s : State) : State :=
  match s.fab.pdIn with
  | [] => s
  | p :: rest =>
    if s.frozen then s
    else
      let h := p.msg.payload
      let n := pdTable h
      let d := s.tableDesc n
      let pop (s : State) : State := { s with fab := { s.fab with pdIn := rest } }
      let r := if !tdValid d then rsNoTable else if pdBad h then rsMalformed else s.homeCheck d n (pdEpoch h) (pdDim h)
      match s.partGpe with
      | none => s
      | some g =>
        if r ≠ rsOk then (pop s).pdAnswer p.msg r 0 0 []
        else
          let c : GCmd := { pd := some p, started := true, cdesc := d, desc := d, table := n, acid := tdAcid d,
                            ec := s.epochCfg n, epoch := pdEpoch h, gen := s.epm.gen }
          let cost := 1000 * s.partLines (.cab (g / 4)) c
          let z := s.inBucketNow
          if z < cost then s
          else
            let s := pop { s with sqe := { s.sqe with inb := { s.sqe.inb with z := z - cost, zAt := s.now } } }
            let x := s.gpe g
            s.setGpe g { x with cmds := sput x.cmds x.next c, next := x.next + 1 }

def execPdPartStart (s : State) : Answer := .next s.partStart

end Sys2Proof.Machine
end

