-- ==== Sys2Proof/Machine/Ssu.lean ====
section
/-! DEFINITION. The session unit (chapter 6): drawers and their spill area, ring classes, bindings, event batches, expiry and rebuild. -/
namespace Sys2Proof.Machine

/-! ### Drawers (R173, R174) -/

/-- The 64 bytes of a drawer (Table 6.1). -/
def Drawer.bytes (d : Drawer) : Bytes :=
  natLe (2 ^ 146 * (d.pinLow % 2 ^ 16) + 2 ^ 162 * b2n d.valid + 2 ^ 163 * b2n d.rebuild + 2 ^ 164 * (d.age % 16) +
    2 ^ 168 * (d.pins % 256) + 2 ^ 176 * (d.touch % 2 ^ 32) + 2 ^ 208 * (d.lastEpoch % 2 ^ 64) + 2 ^ 272 * (d.head % 2 ^ 24) +
    2 ^ 296 * (d.length % 2 ^ 24) + 2 ^ 327 * (d.sumBase % 2 ^ 57) + 2 ^ 388 * (d.rclass % 8) + 2 ^ 391 * (d.ringBase % 2 ^ 57) +
    2 ^ 448 * (d.key % 2 ^ 64)) 64

/-- The drawer that 64 bytes hold. -/
def Drawer.ofBytes (b : Bytes) : Drawer :=
  { key := fld b 448 64, ringBase := fld b 391 57, rclass := fld b 388 3, sumBase := fld b 327 57, length := fld b 296 24,
    head := fld b 272 24, lastEpoch := fld b 208 64, touch := fld b 176 32, pins := fld b 168 8, age := fld b 164 4,
    rebuild := bit b 163, valid := bit b 162, pinLow := fld b 146 16 }

/-- SSU_COUNTS: 0 LOOKUPS, 1 HITS, 2 RELOADS, 3 SPILLS, 4 LOST_SESSIONS, 5 EXPIRED, 6 HOLDS, 7 SESSION_BUSY. -/
def State.ssuCount (s : State) (k : Nat) : State := s.bump 0x7000 3 k

/-- The set of a key. -/
def State.ssuSet (s : State) (key : Nat) : Nat := reduce (mix key (s.rdN 0x7000 0 0 8)) 16384

/-- The place of a resident session. -/
def State.resident (s : State) (key : Nat) : Option Nat :=
  (List.range 16).findSome? (fun w =>
    let k := s.ssuSet key * 16 + w
    let d := s.drawer k
    if d.valid && d.key = key then some k else none)

/-- The session waits in the write-back buffer. -/
def State.inWbuf (s : State) (key : Nat) : Bool := s.ssu.wbuf.any (fun d => d.key = key)

/-- LAST_TOUCH's unit. -/
def State.touchNow (s : State) : Nat := s.now / 2 ^ 20 % 2 ^ 32

/-- A drawer goes out of its way; the ranks of the older drawers of its set move up (R174). -/
def State.takeDrawer (s : State) (k : Nat) : State :=
  let v := s.drawer k
  let base := k / 16 * 16
  let s := if !v.valid then s else
    (List.range 16).foldl (fun s w =>
      let d := s.drawer (base + w)
      if d.valid && decide (v.age < d.age) then s.setDrawer (base + w) { d with age := d.age - 1 } else s) s
  s.setDrawer k {}

/-- A drawer becomes the newest of its set. -/
def State.useDrawer (s : State) (k : Nat) : State :=
  let old := (s.drawer k).age
  let base := k / 16 * 16
  let s := (List.range 16).foldl (fun s w =>
    let d := s.drawer (base + w)
    if d.valid && decide (d.age < old) then s.setDrawer (base + w) { d with age := d.age + 1 } else s) s
  s.setDrawer k { s.drawer k with age := 0 }

/-- The way that a new drawer of a set takes (R177): an invalid one, else the unpinned one with the largest AGE. -/
def State.freeWay (s : State) (set : Nat) : Option Nat :=
  match (List.range 16).find? (fun w => !(s.drawer (set * 16 + w)).valid) with
  | some w => some (set * 16 + w)
  | none =>
    (List.range 16).foldl (fun best w =>
      let k := set * 16 + w
      if (s.drawer k).pins ≠ 0 then best
      else match best with
        | some b => if (s.drawer b).age < (s.drawer k).age then some k else best
        | none => some k) none

/-- Put a drawer into a way; what it held goes to the write-back buffer. -/
def State.placeDrawer (s : State) (k : Nat) (d : Drawer) : State :=
  let v := s.drawer k
  let s := if v.valid then { s with ssu := { s.ssu with wbuf := s.ssu.wbuf ++ [v] } } else s
  ((s.takeDrawer k).setDrawer k { d with age := 15, valid := true }).useDrawer k

/-- The write-back buffer of 64 drawers has room for the way's drawer. -/
def State.wbufRoom (s : State) (k : Nat) : Bool := !(s.drawer k).valid || decide (s.ssu.wbuf.length < 64)

/-! ### Ring classes (R180, R181) -/

def State.ringClass (s : State) (c : Nat) : Bytes := s.rd 0x7001 c
def rcRings (b : Bytes) : Nat := fld b 160 32
def rcOn (b : Bytes) : Bool := bit b 136
def rcGuard (b : Bytes) : Nat := fld b 128 8
def rcNb (b : Bytes) : Nat := fld b 112 16
def rcBlk (b : Bytes) : Nat := fld b 104 2
def rcFmt (b : Bytes) : Nat := fld b 96 4
def rcDim (b : Bytes) : Nat := fld b 80 8 + 1
def rcAcid (b : Bytes) : Nat := fld b 64 12
def rcBase (b : Bytes) : Nat := fld b 0 64

/-- The bytes of a key vector, the record stride S and the summary size SB. -/
def rcVec (b : Bytes) : Nat := rowBytes (rcFmt b) (rcBlk b) (rcDim b)
def rcStride (b : Bytes) : Nat := 32 * ceilDiv (16 + rcVec b) 32
def rcSum (b : Bytes) : Nat := 64 * ceilDiv (rcDim b) 32

/-- The free map's size FM, and a ring's size RB. -/
def rcMap (b : Bytes) : Nat := 4096 * ceilDiv (rcRings b) 32768
def rcRing (b : Bytes) : Nat :=
  4096 * ceilDiv (rcNb b * 256 * rcStride b + rcNb b * rcSum b + 64 + 64 * ceilDiv (rcDim b) 16) 4096

/-- The slots of a ring. -/
def rcSlots (b : Bytes) : Nat := 256 * rcNb b

/-- The key of a ring in the map of rings in use. -/
def usedKey (c r : Nat) : Nat := 2 ^ 20 * c + r

/-- The ring number of a drawer. -/
def Drawer.ringNo (d : Drawer) (b : Bytes) : Nat := (d.ringBase - rcBase b - rcMap b) / rcRing b

/-- The lowest free ring of a class. -/
def State.freeRing (s : State) (c : Nat) : Option Nat :=
  (sfreeFrom s.ssu.used (rcRings (s.ringClass c)) (usedKey c 0)).map (fun k => k - usedKey c 0)

/-- The rings of a class in use. -/
def State.ringsUsed (s : State) (c : Nat) : Nat := (s.ssu.used.filter (fun p => p.1 / 2 ^ 20 = c)).length

/-- The byte of the free map that holds a ring's bit. -/
def State.mapByte (s : State) (c r : Nat) : Bytes :=
  natLe ((List.range 8).foldl (fun v i => v + b2n (sget false s.ssu.used (usedKey c (r / 8 * 8 + i))) * 2 ^ i) 0) 1

/-- A ring is in use or free, on the die. -/
def State.useRing (s : State) (c r : Nat) (on : Bool) : State :=
  { s with ssu := { s.ssu with used := sset false s.ssu.used (usedKey c r) on } }

/-- Mark a ring in use or free: in the region's free map, and where that write is done on the die (R181). -/
def jUse (w : JobFor) (c r : Nat) (on : Bool) : Job Unit := do
  let s ← get
  let b := s.ringClass c
  jHome (rcAcid b) (rcBase b + r / 8) 1 true
  jWrite w (rcAcid b) (rcBase b + r / 8) ((s.useRing c r on).mapByte c r)
  modify (fun s => s.useRing c r on)

/-- A window (R186): its blocks, and the events of its tail block. -/
def window (b : Bytes) (head length : Nat) : Nat × Nat :=
  if length = 0 then (0, 0)
  else
    let tail := (head + rcSlots b - 1) % rcSlots b % 256 + 1
    let full := (length - tail) / 256
    (1 + min (rcNb b - rcGuard b - 1) full, tail)

/-- The ring position of block j of a window, 0 the oldest. -/
def windowPos (b : Bytes) (head blocks j : Nat) : Nat :=
  ((head + rcSlots b - 1) % rcSlots b / 256 + rcNb b - (blocks - 1) + j) % rcNb b

/-! ### The spill area (R177, R178) -/

def State.spillN (s : State) (off n : Nat) : Nat := s.rdN 0x7000 1 off n
def State.spillAcid (s : State) : Nat := s.spillN 8 2 % 4096

/-- The buckets of a key in probe order, as virtual addresses. The default of SPILL_CFG is acted on as it stands (R504): one bucket
at address 0 of context 0. -/
def State.spillBuckets (s : State) (key : Nat) : List Nat :=
  let n := 2 ^ s.spillN 10 1
  (List.range (s.spillN 11 1 + 1)).map (fun p => s.spillN 0 8 + 256 * ((reduce (mix key (s.spillN 16 8)) n + p) % n))

/-- The spill area must translate to shelf 1 (R178). -/
def jShelf1 (va : Nat) (writes : Bool) : Job Unit := do
  let s ← get
  let (s, x) := s.xlateNow .ctl s.spillAcid va writes
  set s
  let ok := match x with
    | .go (.dev a) _ => !inShelf2 a
    | .go _ _ => false
    | _ => true
  if ok then pure () else throw bsMalformed

/-- The slots of some buckets with their addresses, in probe order. -/
def jSlots (w : JobFor) : List Nat → Job (List (Nat × Drawer))
  | [] => pure []
  | va :: rest => do
    jShelf1 va false
    let b ← jRead w (← get).spillAcid va 256
    let mine := (List.range 4).map (fun j => (va + 64 * j, Drawer.ofBytes (bytesAt b (64 * j) 64)))
    let more ← jSlots w rest
    pure (mine ++ more)

/-- Find a spilled session. -/
def jSpillFind (w : JobFor) (key : Nat) : Job (Option (Nat × Drawer)) := do
  let l ← jSlots w ((← get).spillBuckets key)
  pure (l.find? (fun p => p.2.valid && p.2.key = key))

/-- The lookup of a key in the spill area. A read that faults is a lookup that finds no session (Table 13.6). -/
def jProbe (key : Nat) : Job (Option (Nat × Drawer)) := do
  match (jSpillFind .ssu key).go (← get) with
  | (.ok r, s) =>
    set s
    pure r
  | (.error _, s) =>
    set s
    pure none

/-- Clear a spill slot. -/
def jSpillClear (w : JobFor) (va : Nat) : Job Unit := do
  jShelf1 va true
  jWrite w (← get).spillAcid va (zeros 64)

/-- A discarded session ends in the sweep (R178): LOST_SESSIONS counts, and SESSION_LOST fires. -/
def State.loseSession (s : State) (d : Drawer) : State :=
  let s := { s with ssu := { s.ssu with doomed := s.ssu.doomed ++ [d] } }
  (s.ssuCount 4).fire uHse 12 1 { mUnit := uHse, mNum := 12, acid := rcAcid (s.ringClass d.rclass) }

/-- The older of two drawers by LAST_TOUCH, the one at the lower address on a tie (R178). -/
def State.older (s : State) (a b : Nat × Drawer) : Nat × Drawer :=
  let age (d : Drawer) : Nat := (2 ^ 32 + s.touchNow - d.touch) % 2 ^ 32
  if age a.2 < age b.2 || (age a.2 = age b.2 && decide (b.1 < a.1)) then b else a

/-- Write a victim to its spill slot; the session that is discarded for want of one, if any. -/
def jSpill (d : Drawer) : Job (Option Drawer) := do
  let l ← jSlots .ssu ((← get).spillBuckets d.key)
  match l.find? (fun p => !p.2.valid) with
  | some (va, _) =>
    jShelf1 va true
    jWrite .ssu (← get).spillAcid va d.bytes
    pure none
  | none =>
    match l with
    | [] => pure (some d)
    | p :: rest =>
      let s ← get
      let o := s.older (rest.foldl (fun a b => s.older a b) p) (2 ^ 57, d)
      if o.1 = 2 ^ 57 then pure (some d)
      else
        jShelf1 o.1 true
        jWrite .ssu s.spillAcid o.1 d.bytes
        pure (some o.2)

/-- DRAWER_SPILL: the oldest drawer of the write-back buffer; where the spill faults, the drawer is discarded (Table 13.6). -/
def State.drawerSpill (s : State) : State :=
  match s.ssu.wbuf with
  | [] => s
  | d :: rest =>
    if s.frozen then s
    else s.direct .spill (fun s =>
      match (jSpill d).go { s with ssu := { s.ssu with wbuf := rest } } with
      | (.ok none, s) => s.ssuCount 3
      | (.ok (some v), s) => if v = d then s.loseSession v else (s.ssuCount 3).loseSession v
      | (.error _, s) => s.loseSession d)

def execDrawerSpill (s : State) : Answer := .next s.drawerSpill

/-! ### The end of a session (R188, R189) -/

/-- Bindings to a drawer that goes while they stand count in no PINS any more. -/
def State.unbind (s : State) (k : Nat) : State :=
  { s with sqe := { s.sqe with reqs := s.sqe.reqs.map (fun p =>
    (p.1, { p.2 with binding := p.2.binding.map (fun b => if b.slot = k then { b with live := false } else b) })) } }

/-- Free the ring of a session. -/
def jEndRing (w : JobFor) (d : Drawer) : Job Unit := do
  jUse w d.rclass (d.ringNo ((← get).ringClass d.rclass)) false

/-- No block of a key awaits its rebuild. -/
def State.dropRedo (s : State) (key : Nat) : State :=
  { s with ssu := { s.ssu with redo := s.ssu.redo.filter (fun p => p.1 ≠ key) } }

/-- The drawer of a session that has ended goes. -/
def State.dropDrawer (s : State) (k : Nat) : State := ((s.dropRedo (s.drawer k).key).takeDrawer k).unbind k

/-- The ring of a session whose drawer has gone is free; where its free map faults, the sweep ends it later. -/
def State.endRing (s : State) (d : Drawer) : State :=
  match (jEndRing .ssu d).go s with
  | (.ok _, s) => s
  | (.error _, s) => { s with ssu := { s.ssu with doomed := s.ssu.doomed ++ [d] } }

/-! ### Blocks that await rebuild (R190) -/

/-- REBUILD of a resident drawer says whether a block of its session awaits rebuild. -/
def State.showRedo (s : State) (k : Nat) : State :=
  let d := s.drawer k
  s.setDrawer k { d with rebuild := s.ssu.redo.any (fun p => p.1 = d.key) }

/-- A poisoned summary, or a poisoned accumulator of the open block, was read. -/
def State.askRedo (s : State) (k blk : Nat) : State :=
  let p := ((s.drawer k).key, blk)
  let s := if s.ssu.redo.contains p then s else { s with ssu := { s.ssu with redo := s.ssu.redo ++ [p] } }
  s.showRedo k

/-- A block is rebuilt, or begins anew. -/
def State.endRedo (s : State) (k blk : Nat) : State :=
  State.showRedo { s with ssu := { s.ssu with redo := s.ssu.redo.filter (fun p => p ≠ ((s.drawer k).key, blk)) } } k

/-! ### The order of operations on a key (R177) -/

/-- An operation still waits. -/
def State.waits (s : State) (p : SsuWait) : Bool :=
  match p.op with
  | .bind r =>
    let q := s.req r
    q.admitted && decide (q.phase ≤ 3) && q.binding.isNone && fld q.desc 64 64 = p.key
  | .batch g => (s.evRing g).batch.any (fun b => b.status.isNone && fld b.desc 448 64 = p.key)

/-- An operation reaches the SSU. -/
def State.joinLine (s : State) (key : Nat) (o : SsuOp) : State :=
  let line := s.ssu.line.filter (fun p => s.waits p)
  { s with ssu := { s.ssu with line := if line.any (fun p => p.key = key && p.op = o) then line else line ++ [{ key := key, op := o }] } }

/-- It has taken effect, or it waits for something other than a reload. -/
def State.leaveLine (s : State) (key : Nat) (o : SsuOp) : State :=
  { s with ssu := { s.ssu with line := s.ssu.line.filter (fun p => !(p.key = key && p.op = o)) } }

/-- No operation on the key came before it. -/
def State.lineTurn (s : State) (key : Nat) (o : SsuOp) : Bool :=
  ((s.ssu.line.filter (fun p => p.key = key)).head?).all (fun p => p.op = o)

/-- What the line says of an operation. -/
def State.inLine (s : State) (key : Nat) (o : SsuOp) : SsuWait :=
  (s.ssu.line.find? (fun p => p.key = key && p.op = o)).getD {}

/-- Change it. -/
def State.onLine (s : State) (key : Nat) (o : SsuOp) (f : SsuWait → SsuWait) : State :=
  { s with ssu := { s.ssu with line := s.ssu.line.map (fun p => if p.key = key && p.op = o then f p else p) } }

/-- No drawer is VALID, resident, in the write-back buffer or spilled (R199): every session has a ring in use, so the rings in use
are those of sessions that the sweep has still to end. -/
def State.noSession (s : State) : Bool :=
  s.ssu.drawers.all (fun d => !d.2.valid) && s.ssu.wbuf.isEmpty && decide (s.ssu.used.length ≤ s.ssu.doomed.length)

/-! ### Bindings (R175, R179) -/

/-- The key of a request's session. -/
def reqKey (q : Request) : Nat := fld q.desc 64 64

/-- Bind a request to a resident drawer. -/
def State.bindSession (s : State) (r k : Nat) : State :=
  let q := s.req r
  let d := s.drawer k
  let c := s.ringClass d.rclass
  let (n, _) := window c d.head d.length
  let low := if d.pins = 0 then windowPos c d.head (max n 1) 0 else d.pinLow
  let b : Binding := { key := d.key, slot := k, head := d.head, length := d.length, epoch := d.lastEpoch, rclass := d.rclass,
                       ring := d.ringBase, sum := d.sumBase, session := true, live := true }
  ((s.setReq r { q with binding := some b }).setDrawer k { d with pins := d.pins + 1, pinLow := low, touch := s.touchNow }).useDrawer k

/-- A binding that found no session. -/
def State.bindNone (s : State) (r : Nat) : State :=
  s.setReq r { s.req r with binding := some { key := reqKey (s.req r) } }

/-- The request ends with SESSION_BUSY (R179). -/
def State.sessionBusy (s : State) (r : Nat) : State :=
  let s := (s.bindNone r).ssuCount 7
  s.endTask r stSessionBusy (8 * (s.req r).cab)

/-- Every way of the key's set is pinned. -/
def State.noWay (s : State) (key : Nat) : Bool := (s.freeWay (s.ssuSet key)).isNone

/-- The lookup of a request's session, in its turn. A session in the write-back buffer or the spill area holds it until it has been
reloaded. -/
def State.bindLookup (s0 : State) (r : Nat) : State :=
  let key := reqKey (s0.req r)
  let o := SsuOp.bind r
  let p := s0.inLine key o
  let later : State := s0.onLine key o (fun p => { p with missed := true })
  let s := (s0.leaveLine key o).ssuCount 0
  if !s0.lineTurn key o then s0
  else match s.resident key with
    | some k =>
      let s := if p.missed then s else s.ssuCount 1
      if 255 ≤ (s.drawer k).pins then s.sessionBusy r else s.bindSession r k
    | none =>
      if p.gone then s.bindNone r
      else if s.inWbuf key then later
      else match (jProbe key).go s with
        | (.ok (some _), s) => if s.noWay key then s.sessionBusy r else if s.coh.need.isEmpty then later else s
        | (_, s) => s.bindNone r

/-- SESSION_BIND: an admitted request whose descriptor carries a key. DRAWER_UE ends the session that the lookup met; SSU_UE takes
BLK. -/
def State.sessionBind (s : State) (r : Nat) (found : SsuFinding) : State :=
  let q := s.req r
  let h : Hit := { access := 1, mUnit := uHse, mNum := 12, acid := q.acid, queue := q.q }
  if s.frozen || !q.admitted || decide (4 ≤ q.phase) || q.binding.isSome || reqKey q = 0 then s
  else match found, s.resident (reqKey q) with
    | .ssuUe, _ => s.fireBlk uHse 12 3 h
    | .drawerUe, some k =>
      (s.joinLine (reqKey q) (.bind r)).direct (.bindReq r) (fun s =>
        let d := s.drawer k
        (((s.fire uHse 12 0 h).dropDrawer k).endRing d).bindLookup r)
    | _, _ => (s.joinLine (reqKey q) (.bind r)).direct (.bindReq r) (fun s => s.bindLookup r)

def execSessionBind (req : Nat) (found : SsuFinding) (s : State) : Answer := .next (s.sessionBind req found)

/-! ### Event rings (R183, R184) -/

def State.evBase (s : State) (g : Nat) : Nat := s.rdN 0x7002 g 0 8
def State.evAcid (s : State) (g : Nat) : Nat := s.rdN 0x7002 g 8 2 % 4096
def State.evSize (s : State) (g : Nat) : Nat := 2 ^ s.rdN 0x7002 g 10 1
def State.evOn (s : State) (g : Nat) : Bool := s.rdN 0x7002 g 11 1 = 1
def State.evTail (s : State) (g : Nat) : Nat := s.rdN 0x7003 g 0 4

def State.evQuiet (s : State) (g : Nat) : Bool :=
  !s.evOn g || ((s.evRing g).head = s.evTail g && (s.evRing g).batch.isNone)

/-- EV_RING_CFG took effect: head, tail and stream count start at 0 (R146). -/
def State.evApplied (s : State) (g : Nat) : State := s.setEvRing g { done := (s.evRing g).done }

/-- Every event ring is disabled. -/
def State.evAllOff (s : State) : Bool := (List.range 8).all (fun g => !s.evOn g)

/-- Batches that apply now. -/
def State.evBatches (s : State) : Nat := (s.ssu.rings.filter (fun r => r.2.batch.isSome)).length

/-- Fields of an event batch descriptor (Table 6.4). OP: 0 APPEND, 1 END. -/
def edKey (b : Bytes) : Nat := fld b 448 64
def edEvents (b : Bytes) : Nat := fld b 391 57
def edDone (b : Bytes) : Nat := fld b 327 57
def edEpoch (b : Bytes) : Nat := fld b 256 64
def edCount (b : Bytes) : Nat := fld b 239 17
def edAcid (b : Bytes) : Nat := fld b 227 12
def edOp (b : Bytes) : Nat := fld b 224 3
def edClass (b : Bytes) : Nat := fld b 221 3
def edSeq (b : Bytes) : Nat := fld b 213 8

/-- Completion statuses of R184, and what a job may say of a batch that goes on later. -/
def esOk : Nat := 0
def esNoRing : Nat := 1
def esMalformed : Nat := 2
def esFault : Nat := 3
def esHostLost : Nat := 4
def esPoison : Nat := 5
def esMismatch : Nat := 6
def jcNoRing : Nat := 0x101
def jcMismatch : Nat := 0x106
def jcHold : Nat := 0x200
def jcNoWay : Nat := 0x201
def jcLater : Nat := 0x202

/-- The status of a job's failure. -/
def esOf (c : Nat) : Nat :=
  if c = jcNoRing then esNoRing else if c = jcMismatch then esMismatch else if c = bsFault then esFault
  else if c = bsHostLost then esHostLost else if c = bsPoison then esPoison else esMalformed

/-- The checks of a batch when it starts. -/
def State.evCheck (s : State) (b : Bytes) : Nat :=
  if decide (1 < edOp b) || fld b 0 213 ≠ 0 || fld b 320 7 ≠ 0 || fld b 384 7 ≠ 0 || decide (65536 < edCount b) || edKey b = 0 ||
      !rcOn (s.ringClass (edClass b)) then esMalformed
  else esOk

/-- A ring's descriptor was read: its batch starts. An empty one stands for a ring behind a lost port. -/
def State.evBegin (s : State) (g : Nat) (b : Bytes) : State :=
  let x := s.evRing g
  let st := if b.isEmpty then esHostLost else s.evCheck b
  let s := s.setEvRing g { x with ready := none, retry := none, fresh := false,
                                  batch := some { desc := b, since := s.now, status := if st = esOk then none else some st } }
  { s with ssu := { s.ssu with last := g } }

/-- A descriptor read failed. -/
def State.evBad (s : State) (g : Nat) : State :=
  let x := s.evRing g
  s.setEvRing g { x with fresh := false, retry := some (match x.retry with
    | some r => { r with issued := r.issued + 1, returned := r.returned + 1 }
    | none => { f := s.now }) }

/-- Read the descriptor at a ring's head. -/
def State.evRead (s : State) (g : Nat) : State :=
  let x := s.evRing g
  let good (s : State) (b : Bytes) : State :=
    if s.evBatches < 4 then s.evBegin g b else s.setEvRing g { s.evRing g with ready := some b, retry := none, fresh := false }
  let (s, b, poison, e) := s.vread (.ssu g) .ctl (s.evAcid g) (s.evBase g + 64 * x.head) 64
  match e with
  | .fault ty l a => (s.engineFault (s.evAcid g) ty l a .read 4 g).evBad g
  | .hostLost => good s []
  | .none => if !poison && edSeq b = x.stream % 256 then good s b else s.evBad g

/-- The ring whose batch starts next. -/
def State.nextEv (s : State) : Option Nat :=
  (List.range 8).findSome? (fun k =>
    let g := (s.ssu.last + 1 + k) % 8
    let x := s.evRing g
    if s.evOn g && x.head ≠ s.evTail g && !x.ahead && x.batch.isNone && x.retry.isNone then some g else none)

/-- EV_BATCH_START (R183): at most 4 batches apply at a time. -/
def State.evStart (s : State) : State :=
  if s.frozen || decide (4 ≤ s.evBatches) then s
  else match s.nextEv with
    | none => s
    | some g =>
      match (s.evRing g).ready with
      | some b => s.evBegin g b
      | none => s.direct (.evRing g) (fun s => s.evRead g)

def execEvBatchStart (s : State) : Answer := .next s.evStart

/-- EV_RING_REREAD (R147): a re-read of the schedule, or the fresh read of a ring that was resumed. -/
def State.evReread (s : State) (g : Nat) : State :=
  match (s.evRing g).retry with
  | some r => if !s.frozen && s.retryDue r then s.direct (.evRing g) (fun s => s.evRead g) else s
  | none => if !s.frozen && (s.evRing g).fresh then s.direct (.evRing g) (fun s => s.evRead g) else s

def execEvRingReread (ring : Fin 8) (s : State) : Answer := .next (s.evReread ring)

/-- EV_RING_STALL (R147). -/
def State.evStall (s : State) (g : Nat) : State :=
  let x := s.evRing g
  if !s.frozen && x.retry.any (fun r => s.retryOver r) then s.setEvRing g { x with ahead := true, retry := none } else s

def execEvRingStall (ring : Fin 8) (s : State) : Answer := .next (s.evStall ring)

/-- SSU_RESUME's effect: the schedule starts again with a fresh read of the descriptor, issued at once (R147). -/
def State.evResume (s : State) (g : Nat) : State :=
  (s.setEvRing g { s.evRing g with ahead := false, retry := none, fresh := true }).prefetch (.evRing g) (fun s => s.evRead g)

/-- A ring's batch changes. -/
def State.onEvBatch (s : State) (g : Nat) (f : Batch → Batch) : State :=
  let x := s.evRing g
  s.setEvRing g { x with batch := x.batch.map f }

/-- An access of a ring's batch waits; it has been made (R385). -/
def State.markEv (s : State) (g : Nat) (p : Nat × Page) : State :=
  s.onEvBatch g (fun b => if b.held.isSome then b else { b with held := some (s.now, p) })
def State.unmarkEv (s : State) (g : Nat) : State :=
  if (s.evRing g).batch.any (fun b => b.held.isSome) then
    (s.onEvBatch g (fun b => { b with held := none })).settle (.ssu g) false
  else s

/-- The failure of a batch's job: it ends, or holds its ring (counted once), or goes on later. -/
def State.evFail (s : State) (g key code : Nat) : State :=
  let o := SsuOp.batch g
  if code = jcLater then s.onLine key o (fun p => { p with missed := true })
  else
    let s := s.leaveLine key o
    if code = jcHold then
      if (s.evRing g).batch.any (fun b => b.holding) then s
      else (s.onEvBatch g (fun b => { b with paused := true, holding := true })).ssuCount 6
    else if code = jcNoWay then s.onEvBatch g (fun b => { b with paused := true, holding := false })
    else s.onEvBatch g (fun b => { b with paused := false, holding := false, status := some (esOf code) })

/-! ### Appends (R185) -/

/-- Find the drawer of a batch's session, or create it; the place of the drawer. -/
def jDrawer (g : Nat) (q : Bytes) (first : Bool) : Job Nat := do
  let w : JobFor := .ev g
  let key := edKey q
  let p := (← get).inLine key (.batch g)
  if first then modify (fun s => s.ssuCount 0) else pure ()
  match (← get).resident key with
  | some k =>
    if first && !p.missed then modify (fun s => s.ssuCount 1) else pure ()
    if ((← get).drawer k).rclass = edClass q then pure k else throw jcMismatch
  | none =>
    if (← get).inWbuf key && !p.gone then throw jcLater else pure ()
    match ← (if p.gone then pure none else jProbe key) with
    | some (_, d) =>
      if d.rclass ≠ edClass q then throw jcMismatch
      else if (← get).noWay key then throw jcNoWay
      else throw jcLater
    | none =>
      let s ← get
      match s.freeRing (edClass q), s.freeWay (s.ssuSet key) with
      | none, _ => throw jcNoRing
      | some _, none => throw jcNoWay
      | some r, some k =>
        if !s.wbufRoom k then throw jcLater else pure ()
        let c := s.ringClass (edClass q)
        let base := rcBase c + rcMap c + r * rcRing c
        let sum := base + rcSlots c * rcStride c
        let acc := sum + rcNb c * rcSum c
        jHome (rcAcid c) acc 64 true
        jWrite w (rcAcid c) acc (zeros 64)
        jUse w (edClass q) r true
        modify (fun s => s.placeDrawer k { key := key, ringBase := base, rclass := edClass q, sumBase := sum, touch := s.touchNow })
        pure k

/-- The key vector of a record as FP32 (R79). -/
def recVec (c : Bytes) (r : Bytes) : List Nat := (elems (r.drop 16) (rcFmt c) (rcBlk c) (rcDim c)).map toFp32

/-- Fold a vector into an accumulator of `n` events. -/
def accFold (n : Nat) (acc v : List Nat) : List Nat := if n = 0 then v else acc.zipWith (fun a b => fpAdd 0 a b) v

/-- The mean of `n` events as BF16 bytes. -/
def accMean (n : Nat) (acc : List Nat) : Bytes :=
  packBits 16 (acc.map (fun a => roundNum 1 (decodeNum 0 (fpDiv 0 a (roundNum 0 (.fin false n 1))))))

/-- The elements of an accumulator. -/
def accVals (c : Bytes) (b : Bytes) : List Nat := (List.range (rcDim c)).map (fun i => le b (4 * i) 4)

/-- One event of an APPEND. -/
def jEvent (g : Nat) (b : Batch) : Job Unit := do
  let w : JobFor := .ev g
  let q := b.desc
  let k ← jDrawer g q (b.next = 0)
  let s ← get
  let d := s.drawer k
  let c := s.ringClass d.rclass
  let acid := rcAcid c
  let slot := d.head
  let blk := slot / 256
  if slot % 256 = 0 && d.length = rcSlots c && d.pins ≠ 0 && blk = d.pinLow then throw jcHold else pure ()
  let src ← jRead w (edAcid q) (edEvents q + rcStride c * b.next) (rcStride c)
  let rec_ := bytesAt (src.take (16 + rcVec c)) 0 (rcStride c)
  let va := d.ringBase + slot * rcStride c
  jHome acid va (rcStride c) true
  jWrite w acid va rec_
  -- the accumulator
  let head := d.sumBase + rcNb c * rcSum c
  let size := 4 * rcDim c
  jHome acid head (64 + size) true
  let (hb, p0) ← jReadP w acid head 4
  let (ab, p1) ← jReadP w acid (head + 64) size
  let n := if p0 then slot % 256 else leNat hb
  let bad := p0 || (n ≠ 0 && p1)
  modify (fun s => let s := if slot % 256 = 0 then s.endRedo k blk else s
                   if bad then s.askRedo k blk else s)
  let acc := accFold n (accVals c ab) (recVec c rec_)
  if n + 1 = 256 then
    let sva := d.sumBase + blk * rcSum c
    jHome acid sva (rcSum c) true
    jWrite w acid sva (bytesAt (accMean 256 acc) 0 (rcSum c)) bad
    jWrite w acid head (natLe 0 4)
  else
    jWrite w acid (head + 64) (packBits 32 acc) bad
    jWrite w acid head (natLe (n + 1) 4)
  modify (fun s =>
    s.setDrawer k { s.drawer k with head := (slot + 1) % rcSlots c, length := min (d.length + 1) (rcSlots c) })

/-- An APPEND that applied an event leaves its EPOCH and the time in the drawer. -/
def State.evStamp (s : State) (q : Bytes) : State :=
  match s.resident (edKey q) with
  | some k => (s.setDrawer k { s.drawer k with lastEpoch := edEpoch q, touch := s.touchNow }).useDrawer k
  | none => s

/-- EVENT_APPEND: the next event of the ring's batch, whole. -/
def State.eventAppend (s : State) (g : Nat) : State :=
  match (s.evRing g).batch with
  | none => s
  | some b =>
    if s.frozen || b.status.isSome || edOp b.desc ≠ 0 || decide (edCount b.desc ≤ b.next) then s
    else
      let key := edKey b.desc
      (s.joinLine key (.batch g)).directFor (.evRing g) (fun s p => s.markEv g p) (fun s0 =>
        let s := s0.unmarkEv g
        if !s.lineTurn key (.batch g) then s0
        else match (jEvent g b).go s with
          | (.ok _, s) =>
            let s := s.onEvBatch g (fun b => { b with next := b.next + 1, applied := b.applied + 1, paused := false, holding := false })
            let s := s.leaveLine key (.batch g)
            if b.next + 1 = edCount b.desc then s.evStamp b.desc else s
          | (.error code, s) =>
            if code = jcLater || code = jcHold || code = jcNoWay then (if s.coh.need.isEmpty then s0.evFail g key code else s)
            else (if b.applied = 0 then s else s.evStamp b.desc).evFail g key code)

def execEventAppend (ring : Fin 8) (s : State) : Answer := .next (s.eventAppend ring)

/-- An END of a session (R188): of an unknown key it does nothing; a session of another class is a mismatch (R184); a pinned session
holds the ring. -/
def jEnd (g : Nat) (q : Bytes) : Job Unit := do
  let w : JobFor := .ev g
  let key := edKey q
  let p := (← get).inLine key (.batch g)
  match (← get).resident key with
  | some k =>
    let d := (← get).drawer k
    if d.rclass ≠ edClass q then throw jcMismatch else pure ()
    if d.pins ≠ 0 then throw jcHold else pure ()
    jEndRing w d
    modify (fun s => s.dropDrawer k)
  | none =>
    if (← get).inWbuf key && !p.gone then throw jcLater else pure ()
    match ← (if p.gone then pure none else jProbe key) with
    | some (va, d) =>
      if d.rclass ≠ edClass q then throw jcMismatch else pure ()
      jEndRing w d
      jSpillClear w va
      modify (fun s => s.dropRedo key)
    | none => pure ()

/-- SESSION_END_APPLY: the END of the ring's batch. -/
def State.sessionEnd (s : State) (g : Nat) : State :=
  match (s.evRing g).batch with
  | none => s
  | some b =>
    if s.frozen || b.status.isSome || edOp b.desc ≠ 1 then s
    else
      let key := edKey b.desc
      (s.joinLine key (.batch g)).directFor (.evRing g) (fun s p => s.markEv g p) (fun s0 =>
        let s := s0.unmarkEv g
        if !s.lineTurn key (.batch g) then s0
        else match (jEnd g b.desc).go s with
          | (.ok _, s) =>
            (s.leaveLine key (.batch g)).onEvBatch g (fun b => { b with paused := false, holding := false, status := some esOk })
          | (.error code, s) =>
            if code = jcLater || code = jcHold then (if s.coh.need.isEmpty then s0.evFail g key code else s) else s.evFail g key code)

def execSessionEndApply (ring : Fin 8) (s : State) : Answer := .next (s.sessionEnd ring)

/-- Write the completion word and advance the ring's head (R148, R184). -/
def State.evEnd (s : State) (g : Nat) : State :=
  match (s.evRing g).batch with
  | none => s
  | some b =>
    let st := b.status.getD esOk
    let q := b.desc
    let s :=
      if edDone q = 0 then s
      else
        let (s, e) := s.vwrite (.ssu g) .ctl (edAcid q) (edDone q) (natLe (st + 2 ^ 32 * b.applied) 8)
        match e with
        | .fault ty l a => s.engineFault (edAcid q) ty l a .write 4 g
        | _ => s
    let x := s.evRing g
    s.setEvRing g { x with batch := none, head := (x.head + 1) % s.evSize g, stream := x.stream + 1, done := x.done + 1 }

/-- EV_BATCH_COMPLETE (R184). -/
def State.evComplete (s : State) (g : Nat) : State :=
  match (s.evRing g).batch with
  | none => s
  | some b =>
    if s.frozen || b.undecided || (b.status.isNone && (edOp b.desc ≠ 0 || decide (b.next < edCount b.desc))) then s
    else s.directFor (.evRing g) (fun s p => s.markEv g p) (fun s => (s.unmarkEv g).evEnd g)

def execEvBatchComplete (ring : Fin 8) (s : State) : Answer := .next (s.evComplete ring)

/-- A batch whose access has waited 50 µs under an invalidation ends with FAULT and writes no record (R385). -/
def State.ssuCancel (s : State) (g : Nat) : State :=
  match (s.evRing g).batch with
  | none => s
  | some b =>
    match b.held with
    | some (t, _) =>
      if decide (50000 ≤ since s.now t) && s.heldByInv (.ssu g) then
        let s := (s.settle (.ssu g) true).mtuCount 7
        let s := (s.onEvBatch g (fun b => { b with held := none })).endJob (.evRing g)
        if b.status.isSome then s else s.evFail g (edKey b.desc) bsFault
      else s
    | none => s

/-! ### Reload (R177) -/

/-- An operation waits for a key's session. -/
def State.reloadAwaited (s : State) (key : Nat) : Bool := s.ssu.line.any (fun p => p.key = key && p.missed && s.waits p)

/-- The reload of a key's session has faulted: the operations that waited for it find no session (Table 13.6). -/
def State.reloadGone (s : State) (key : Nat) : State :=
  { s with ssu := { s.ssu with line := s.ssu.line.map (fun p => if p.key = key && p.missed then { p with gone := true } else p) } }

/-- Take a spilled session out of its slot, into a way. -/
def jReload (key : Nat) : Job Unit := do
  match ← jSpillFind .ssu key with
  | none => throw jcLater
  | some (va, d) =>
    let s ← get
    match s.freeWay (s.ssuSet key) with
    | none => throw jcLater
    | some k =>
      if !s.wbufRoom k then throw jcLater else pure ()
      match (jSpillClear .ssu va).go s with
      | (.ok _, s) => set ((s.placeDrawer k { d with pins := 0 }).ssuCount 2)
      | (.error _, s) =>
        set (s.loseSession d)
        throw bsFault

/-- DRAWER_RELOAD: where an operation waits for the key. A reload that faults is a lookup that finds no session, and the drawer that it
had found is discarded (Table 13.6). -/
def State.drawerReload (s : State) (key : Nat) : State :=
  if s.frozen || (s.resident key).isSome || s.inWbuf key || !s.reloadAwaited key then s
  else
    s.direct (.session key) (fun s0 =>
      match (jReload key).go s0 with
      | (.ok _, s) => s
      | (.error code, s) =>
        if code = jcLater then (if s.coh.need.isEmpty then s0 else s)
        else s.reloadGone key)

def execDrawerReload (key : BitVec 64) (s : State) : Answer := .next (s.drawerReload key.toNat)

/-! ### The sweep and the rebuild (R189, R190) -/

/-- LAST_TOUCH lies more than SESSION_TTL behind the GTC. -/
def State.expired (s : State) (d : Drawer) : Bool :=
  decide (1000000000 * s.rdN 0x7000 2 0 4 < 2 ^ 20 * ((2 ^ 32 + s.touchNow - d.touch) % 2 ^ 32))

/-- SESSION_EXPIRE: the sweep ends a discarded session, or one that is unpinned and too old. -/
def State.sessionExpire (s : State) (key : Nat) : State :=
  if s.frozen then s
  else match s.ssu.doomed.find? (fun d => d.key = key), s.resident key with
    | some d, _ => s.direct (.session key) (fun s => State.endRing { s with ssu := { s.ssu with doomed := s.ssu.doomed.erase d } } d)
    | none, some k =>
      let d := s.drawer k
      if d.pins = 0 && s.expired d then
        s.direct (.session key) (fun s =>
          match (jEndRing .ssu d).go s with
          | (.ok _, s) => (s.dropDrawer k).ssuCount 5
          | (.error _, s) => s)
      else s
    | none, none =>
      s.direct (.session key) (fun s0 =>
        match ((do
          match ← jSpillFind .ssu key with
          | some (va, d) =>
            if (← get).expired d then
              jEndRing .ssu d
              jSpillClear .ssu va
              modify (fun s => (s.dropRedo key).ssuCount 5)
            else pure ()
          | none => pure ()) : Job Unit).go s0 with
        | (_, s) => s)

def execSessionExpire (key : BitVec 64) (s : State) : Answer := .next (s.sessionExpire key.toNat)

/-- Fold `n` records from a slot. -/
def jFoldRecs (c : Bytes) (ring slot : Nat) : Nat → Job (List Nat)
  | 0 => pure []
  | n + 1 => do
    let acc ← jFoldRecs c ring slot n
    let va := ring + (slot + n) * rcStride c
    jHome (rcAcid c) va (rcStride c) false
    let b ← jRead .ssu (rcAcid c) va (rcStride c)
    pure (accFold n acc (recVec c b))

/-- Rebuild the summary of a full block, or the accumulator of the open one. -/
def jRebuild (k blk : Nat) : Job Unit := do
  let s ← get
  let d := s.drawer k
  let c := s.ringClass d.rclass
  let head := d.sumBase + rcNb c * rcSum c
  if blk = d.head / 256 && d.head % 256 ≠ 0 then
    let acc ← jFoldRecs c d.ringBase (256 * blk) (d.head % 256)
    jHome (rcAcid c) head (64 + 4 * rcDim c) true
    jWrite .ssu (rcAcid c) (head + 64) (bytesAt (packBits 32 acc) 0 (64 * ceilDiv (rcDim c) 16))
    jWrite .ssu (rcAcid c) head (natLe (d.head % 256) 64)
  else
    let acc ← jFoldRecs c d.ringBase (256 * blk) 256
    let va := d.sumBase + blk * rcSum c
    jHome (rcAcid c) va (rcSum c) true
    jWrite .ssu (rcAcid c) va (bytesAt (accMean 256 acc) 0 (rcSum c))

/-- SUMMARY_REBUILD: a block that awaits rebuild; REBUILD clears with the last of them. A block that holds a poisoned record keeps its
poisoned summary. -/
def State.summaryRebuild (s : State) (key blk : Nat) : State :=
  match s.resident key with
  | none => s
  | some k =>
    if s.frozen || !s.ssu.redo.contains (key, blk) then s
    else s.direct (.session key) (fun s =>
      match (jRebuild k blk).go s with
      | (.ok _, s) => s.endRedo k blk
      | (.error code, s) => if code = bsPoison then s.endRedo k blk else s)

def execSummaryRebuild (key : BitVec 64) (block : Nat) (s : State) : Answer := .next (s.summaryRebuild key.toNat block)

/-! ### SESSION_QUERY (R199) -/

/-- The drawer of a key, wherever it is, goes to SESSION_RESULT. -/
def State.sessionQuery (s : State) (key : Nat) : State :=
  let put (s : State) (b : Bytes) : State := { s with ssu := { s.ssu with result := b } }
  match s.resident key, s.ssu.wbuf.find? (fun d => d.key = key) with
  | some k, _ => put s (s.drawer k).bytes
  | none, some d => put s d.bytes
  | none, none =>
    match (jSpillFind .ssu key).go s with
    | (.ok (some (_, d)), s) => put s d.bytes
    | (_, s) => put s (zeros 64)

end Sys2Proof.Machine
end

