-- ==== Sys2Proof/Machine/Hse.lean ====
section
/-! DEFINITION. The history scan engines (chapter 6): scans, their line reads, scores, selection and results. -/
namespace Sys2Proof.Machine

/-! ### A scan command's fields (Table 6.5) -/

def hQ (b : Bytes) : Nat := fld b 490 22
def hQn (b : Bytes) : Nat := fld b 487 3 + 1
def hK (b : Bytes) : Nat := fld b 480 7
def hForce (b : Bytes) : Nat := fld b 476 4
def hMask (b : Bytes) : Nat := fld b 468 8
def hOut (b : Bytes) : Nat := fld b 446 22
def hRes (b : Bytes) : Nat := fld b 424 22

/-- The target tiles in order. -/
def hTiles (b : Bytes) : List Nat := (List.range 8).filter (fun n => (hMask b).testBit n)

/-- HSE_COUNTS: 0 SCANS, 1 SUMMARIES, 2 LINES, 3 BAD_SCAN. -/
def State.hseCount (s : State) (c k : Nat) (n : Nat := 1) : State := s.bump 0x7005 c k n

/-- The HSE is under a unit reset (Table 17.2). -/
def State.hseResetting (s : State) (c : Nat) : Bool := s.faults.resets.contains (uHse * 256 + c)

/-! ### Scans that leave (R229) -/

/-- Scans of ending tasks stop, and the tags of their posts return. A tag that has no request is free at once. -/
def State.hReap (s : State) (c : Nat) : State :=
  let x := s.hse c
  let dead := x.posted.filter (fun q => !s.taskGoesOn q.req) ++ x.queue.filter (fun q => !s.taskGoesOn q.req)
  let queue := x.queue.filter (fun q => s.taskGoesOn q.req)
  let s := s.setHse c { x with posted := x.posted.filter (fun q => s.taskGoesOn q.req), queue := queue,
                               tags := x.tags.filter (fun p => p.2.id.isSome || queue.any (fun q => q.num = p.2.scan)) }
  dead.foldl (fun s q => s.completeTag q.tile q.xtag) s

/-- The scan that runs, and what it becomes. -/
def State.hHead (s : State) (c : Nat) : Option Scan := (s.hse c).queue.head?
def State.setHead (s : State) (c : Nat) (q : Scan) : State :=
  s.setHse c { s.hse c with queue := q :: (s.hse c).queue.drop 1 }

/-- HSE_SCAN_ACCEPT: the oldest post takes a place in the queue of 16. -/
def State.hseAccept (s : State) (c : Nat) : State :=
  if s.frozen || s.hseResetting c then s
  else
    let s := s.hReap c
    let x := s.hse c
    match x.posted with
    | q :: rest =>
      if x.queue.length < 16 then
        s.setHse c { x with posted := rest, queue := x.queue ++ [{ q with num := x.next }], next := x.next + 1 }
      else s
    | [] => s

def execHseScanAccept (cab : Fin 12) (s : State) : Answer := .next (s.hseAccept cab)

/-! ### Geometry of a scan's window (R186, R192) -/

/-- The ring class of a scan. -/
def State.hClass (s : State) (q : Scan) : Bytes := s.ringClass q.bind.rclass

/-- Blocks of the window, and the events of its tail block. -/
def State.hWindow (s : State) (q : Scan) : Nat × Nat := window (s.hClass q) q.bind.head q.bind.length

/-- The tail block is scored from its records. -/
def tailRecs (w : Nat × Nat) : Bool := w.1 ≠ 0 && decide (w.2 < 256)

/-- The events of block j. -/
def blkCount (w : Nat × Nat) (j : Nat) : Nat := if j + 1 = w.1 then w.2 else 256

/-- How many blocks are selected. -/
def State.hSelected (s : State) (q : Scan) : Nat := min (hK q.raw) (s.hWindow q).1

/-- The address of block j's records. -/
def State.blkVa (s : State) (q : Scan) (j : Nat) : Nat :=
  let c := s.hClass q
  q.bind.ring + windowPos c q.bind.head (s.hWindow q).1 j * 256 * rcStride c

/-- Lines of a block's first `n` records. -/
def recLines (c : Bytes) (n : Nat) : Nat := ceilDiv (n * rcStride c) 64

/-- The number of lines that a scan reads in a phase. -/
def State.hLines (s : State) (q : Scan) : Nat :=
  let c := s.hClass q
  let w := s.hWindow q
  if q.phase = 1 then
    (if tailRecs w then recLines c w.2 + (w.1 - 1) * (rcSum c / 64) else w.1 * (rcSum c / 64))
  else (q.picked.map (fun j => recLines c (blkCount w j))).foldl (· + ·) 0

/-- Line `i` of the selected blocks: the place of its block in the selection, and its place in the block. -/
def pickLine (c : Bytes) (w : Nat × Nat) : List Nat → Nat → Nat → Nat × Nat
  | [], k, i => (k, i)
  | j :: rest, k, i =>
    let n := recLines c (blkCount w j)
    if i < n then (k, i) else pickLine c w rest (k + 1) (i - n)

/-- The address of line `i` of a phase: the tail's records first, then the summaries in the window's order; then the records of the
selected blocks in placement order. -/
def State.hLineVa (s : State) (q : Scan) (i : Nat) : Nat :=
  let c := s.hClass q
  let w := s.hWindow q
  if q.phase = 1 then
    let t := if tailRecs w then recLines c w.2 else 0
    if i < t then s.blkVa q (w.1 - 1) + 64 * i
    else
      let n := rcSum c / 64
      q.bind.sum + windowPos c q.bind.head w.1 ((i - t) / n) * rcSum c + 64 * ((i - t) % n)
  else
    let (k, l) := pickLine c w q.picked 0 i
    s.blkVa q (q.picked.getD k 0) + 64 * l

/-! ### The start of a scan (R191) -/

/-- BAD_SCAN: counted, and the issuing task ends. -/
def State.badScan (s : State) (c : Nat) (q : Scan) : State :=
  (s.hseCount c 3).endTask q.req stBadScan q.tile (s.postPos q.tile q.xtag)

/-- The conditions of R191 on the command, the binding and the request's frames. -/
def State.hBad (s : State) (q : Scan) (lanes : Nat) : Bool :=
  let b := q.raw
  let c := s.hClass q
  let top := 3 * 2 ^ 20
  let sel := s.hSelected q
  let tiles := hTiles b
  let per := ceilDiv sel tiles.length
  decide (64 < hK b) || decide (hK b < hForce b) || fld b 0 416 ≠ 0 || (hK b ≠ 0 && hMask b = 0) ||
  (hK b ≠ 0 && tiles.any (fun n => !lanes.testBit n)) ||
  (q.bind.session && decide (top < q.base + hQ b + hQn b * rcDim c * 2)) ||
  decide (top < q.base + hRes b + 16 * (1 + sel)) ||
  (sel ≠ 0 && tiles.any (fun n =>
    decide (top < 64 * s.frameBase (8 * cabOf q.tile + n) q.frame + hOut b + per * 256 * rcStride c)))

/-! ### Line reads -/

/-- A translation fault of a scan's read ends the task (R195). -/
def State.hXlFault (s : State) (c va type level : Nat) (q : Scan) : State :=
  s.taskFault q.req q.tile { va := va, gtc := s.now, acid := rcAcid (s.hClass q), type := type, access := Access.read.code,
                             level := level, source := 2, unit := c } (s.postPos q.tile q.xtag)

/-- Send a translated line read. -/
def State.hAsk (s : State) (c n : Nat) (t : HTag) (tg : Target) (e : TlbEnt) (acid : Nat) : State :=
  let (id, s) := s.fresh
  let s := s.toSlice { id := id, src := .hse c, acid := acid, op := .read, tgt := tg, len := 64,
                       device := (s.regionAttr e.attr).1, issued := s.now }
  let x := s.hse c
  let t := { t with id := some id, order := id, tgt := tg, since := s.now, acid := acid, page := e.page }
  (s.setHse c { x with tags := sput x.tags n t }).hseCount c 2

/-- Send the read of a tag's line; none where it must wait as it stands. A ring outside shelves 1 and 2 is BAD_SCAN (R181). -/
def State.hSend (s : State) (c n : Nat) (t : HTag) (q : Scan) : Option State :=
  let who : Waiter := { who := .hse c n }
  let acid := rcAcid (s.hClass q)
  let keep (s' : State) : Option State := if s' = s then none else some s'
  match s.xlate (.cab c) acid t.va false with
  | (s', .fault ty lv) => some (s'.hXlFault c t.va ty lv q)
  | (_, .miss) => keep (s.joinWalk acid t.va who)
  | (_, .ats e) => keep (s.joinAts e who)
  | (s', .go (.dev a) e) =>
    match s'.metered q.req 3 1 with
    | none => some (s'.overDemand q.req q.tile (s.postPos q.tile q.xtag))
    | some s' => some (s'.hAsk c n t (.dev a) e acid)
  | (s', .go _ _) => some (s'.badScan c q)

/-- One line more: a tag that waited, or the next line of the scan at the head; none where nothing can be sent. -/
def State.hPumpStep (s : State) (c : Nat) (q : Scan) : Option State :=
  match ((s.hse c).tags.filter (fun p => p.2.id.isNone && p.2.scan = q.num)).findSome? (fun p => s.hSend c p.1 p.2 q) with
  | some s => some s
  | none =>
    match sfree (s.hse c).tags 4096 with
    | none => none
    | some n =>
      if (q.phase = 1 || q.phase = 2) && decide (q.issued < s.hLines q) then
        let t : HTag := { scan := q.num, line := q.issued, va := s.hLineVa q q.issued, since := s.now }
        let s := s.setHead c { q with issued := q.issued + 1 }
        let s := s.setHse c { s.hse c with tags := sput (s.hse c).tags n t }
        some ((s.hSend c n t q).getD s)
      else none

/-- Read as many lines as tags and translations allow, at most `fuel`. -/
def State.hPumpGo (s : State) (c : Nat) : Nat → State
  | 0 => s
  | fuel + 1 =>
    match (s.hHead c).bind (fun q => if !s.taskGoesOn q.req then none else s.hPumpStep c q) with
    | some s => s.hPumpGo c fuel
    | none => s

/-- The HSE issues what it can: for a line of every tag, and a second try for each that waited. -/
def State.hPump (s : State) (c : Nat) : State :=
  if s.frozen || s.hseResetting c then s else s.hPumpGo c 8192

/-! ### Results (R194) -/

/-- The score of block j as reported. -/
def Scan.score (q : Scan) (j : Nat) : Nat := sget 0 q.scores j

/-- Where the k-th selected block goes: the tile's position and its address there. -/
def hPlace (b c : Bytes) (k : Nat) : Nat × Nat :=
  let tiles := hTiles b
  let m := tiles.length
  (tiles.getD (k % m) 0, hOut b + k / m * 256 * rcStride c)

/-- The header of a result list (Table 6.6). -/
def resHeader (q : Scan) (w : Nat × Nat) (sel : Nat) (poison : Bool) : Bytes :=
  let len := if w.1 = 0 then 0 else (w.1 - 1) * 256 + w.2
  natLe (b2n (w.1 = 0) + 2 * b2n poison + 4 * b2n (!q.bind.session) + 2 ^ 16 * sel + 2 ^ 24 * (w.1 % 2 ^ 16) +
    2 ^ 40 * (len % 2 ^ 24) + 2 ^ 64 * (q.bind.epoch % 2 ^ 64)) 16

/-- An entry (Table 6.7). -/
def resEntry (b c : Bytes) (q : Scan) (w : Nat × Nat) (k j : Nat) : Bytes :=
  let (tile, addr) := hPlace b c k
  natLe (b2n (sget false q.badBlk j) + 2 ^ 46 * (addr % 2 ^ 22) + 2 ^ 68 * tile + 2 ^ 71 * blkCount w j +
    2 ^ 80 * ((w.1 - 1 - j) % 2 ^ 16) + 2 ^ 96 * (q.score j % 2 ^ 32)) 16

/-- Write the result list: the scan is done. -/
def State.hFinish (s : State) (c : Nat) (q : Scan) : State :=
  let rc := s.hClass q
  let w := s.hWindow q
  let poison := q.badBlk.any (fun p => p.2)
  let list := q.picked.zipIdx.flatMap (fun p => resEntry q.raw rc q w p.2 p.1)
  let b := resHeader q w q.picked.length poison ++ list
  let s := s.setTile q.tile ((s.tile q.tile).scrWrite (q.base + hRes q.raw) b)
  s.setHead c { q with phase := 3, lines := [], bad := [] }

/-- The zero bytes past a partial block's records. -/
def State.hZero (s : State) (q : Scan) : State :=
  let rc := s.hClass q
  let w := s.hWindow q
  q.picked.zipIdx.foldl (fun s p =>
    let n := blkCount w p.1
    if n = 256 then s
    else
      let (tile, addr) := hPlace q.raw rc p.2
      let t := 8 * cabOf q.tile + tile
      s.setTile t ((s.tile t).scrWrite (64 * s.frameBase t q.frame + addr + n * rcStride rc) (zeros ((256 - n) * rcStride rc)))) s

/-! ### Scores and selection (R192, R193) -/

/-- Query vector i as FP32 values. -/
def State.hQuery (s : State) (q : Scan) (i : Nat) : List Nat :=
  let n := rcDim (s.hClass q)
  let b := mread (s.tile q.tile).scr (q.base + hQ q.raw + 2 * n * i) (2 * n)
  (List.range n).map (fun k => 2 ^ 16 * le b (2 * k) 2)

/-- One query's dot product with a summary, in index order. -/
def hDot (q v : List Nat) : Nat := (q.zip v).foldl (fun t p => fpFma 0 p.1 p.2 t) 0

/-- The best score over the queries; a NaN ends it. -/
def hBest (qs : List (List Nat)) (v : List Nat) : Nat :=
  let go := qs.foldl (fun (best : Option Nat × Bool) q =>
    if best.2 then best
    else
      let t := hDot q v
      if decodeNum 0 t = .nan then (some t, true)
      else match best.1 with
        | none => (some t, false)
        | some b => (some (if (decodeNum 0 b).lt (decodeNum 0 t) then t else b), false)) (none, false)
  go.1.getD 0

/-- The lines `a … a + n - 1` of a phase that have arrived, joined, and whether one came poisoned. -/
def Scan.joined (q : Scan) (a n : Nat) : Bytes × Bool :=
  ((List.range n).flatMap (fun i => sget [] q.lines (a + i)), (List.range n).any (fun i => sget false q.bad (a + i)))

/-- The summary of block j as FP32 values, and its poison. -/
def State.hSummary (s : State) (q : Scan) (j : Nat) : List Nat × Bool :=
  let c := s.hClass q
  let w := s.hWindow q
  let t := if tailRecs w then recLines c w.2 else 0
  let sum (b : Bytes) : List Nat := (List.range (rcDim c)).map (fun i => 2 ^ 16 * le b (2 * i) 2)
  if j + 1 = w.1 && tailRecs w then
    let (b, bad) := q.joined 0 t
    let acc := (List.range w.2).foldl (fun acc i => accFold i acc (recVec c (bytesAt b (i * rcStride c) (rcStride c)))) []
    (sum (accMean w.2 acc), bad)
  else
    let n := rcSum c / 64
    let (b, bad) := q.joined (t + j * n) n
    (sum b, bad)

/-- Block a goes before block b: a higher score, NaN lowest, then the more recent. -/
def scoreBefore (x y : Nat × Nat) : Bool :=
  let a := decodeNum 0 x.2
  let b := decodeNum 0 y.2
  if a = .nan && b = .nan then decide (y.1 < x.1)
  else if a = .nan then false
  else if b = .nan then true
  else b.lt a || (a.eq b && decide (y.1 < x.1))

/-- Put a block in its place in a list in that order. -/
def scoreInsert (x : Nat × Nat) : List (Nat × Nat) → List (Nat × Nat)
  | [] => [x]
  | y :: r => if scoreBefore x y then x :: y :: r else y :: scoreInsert x r

/-- The selected blocks, oldest first (R193). -/
def hSelect (k force n : Nat) (score : Nat → Nat) : List Nat :=
  if n ≤ k then List.range n
  else
    let old := n - force
    let order := ((List.range old).map (fun j => (j, score j))).foldl (fun l x => scoreInsert x l) []
    let best := (order.take (k - force)).map (fun p => p.1)
    (List.range n).filter (fun j => decide (old ≤ j) || best.contains j)

/-- Every summary line is in: the blocks are scored and selected, and copying begins. A poisoned summary asks for its rebuild
(R195). -/
def State.hScored (s : State) (c : Nat) (q : Scan) : State :=
  let w := s.hWindow q
  let qs := (List.range (hQn q.raw)).map (fun i => s.hQuery q i)
  let res := (List.range w.1).map (fun j =>
    let (v, bad) := s.hSummary q j
    (j, if bad then canonNan 0 else hBest qs v, bad))
  let scores := res.foldl (fun m r => sset 0 m r.1 r.2.1) []
  let bads := res.foldl (fun m r => sset false m r.1 r.2.2) []
  let redo := res.filter (fun r => r.2.2 && !(r.1 + 1 = w.1 && tailRecs w))
  let s := if q.bind.live then redo.foldl (fun s r => s.askRedo q.bind.slot (windowPos (s.hClass q) q.bind.head w.1 r.1)) s else s
  let q := { q with phase := 2, scores := scores, badBlk := bads, picked := hSelect (hK q.raw) (hForce q.raw) w.1 (fun j => sget 0 scores j),
                    issued := 0, lines := [], bad := [], top := 0 }
  let s := s.hseCount c 1 (if tailRecs w then w.1 - 1 else w.1)
  s.setHead c { q with left := s.hLines q }

/-- HSE_SCAN_START: the scan at the head of the queue, once its request's binding is complete. A scan that selects nothing writes its
header alone. -/
def State.hseStart (s : State) (c : Nat) : State :=
  if s.frozen || s.hseResetting c then s
  else
    let s := s.hReap c
    match s.hHead c with
    | none => s
    | some q =>
      let r := s.req q.req
      if q.phase ≠ 0 || (reqKey r ≠ 0 && r.binding.isNone) then s
      else
        let s := s.hseCount c 0
        match r.binding with
        | none => s.badScan c q
        | some b =>
          let frame := ((s.tile q.tile).ctx q.ctx).frame
          let q := { q with bind := b, frame := frame, base := 64 * s.frameBase q.tile frame }
          if s.hBad q r.lanes then s.badScan c q
          else if s.hSelected q = 0 then s.hFinish c q
          else
            let q := { q with phase := 1 }
            (s.setHead c { q with left := s.hLines q }).hPump c

def execHseScanStart (cab : Fin 12) (s : State) : Answer := .next (s.hseStart cab)

/-! ### Lines that return -/

/-- A record line lands in its target tile's scratch, with its poison (R195); bytes past the block's records are not written. -/
def State.hRecord (s : State) (q : Scan) (i : Nat) (b : Bytes) (poison : Bool) : State × Scan :=
  let rc := s.hClass q
  let w := s.hWindow q
  let (k, l) := pickLine rc w q.picked 0 i
  let j := q.picked.getD k 0
  let (tile, addr) := hPlace q.raw rc k
  let t := 8 * cabOf q.tile + tile
  let n := min 64 (blkCount w j * rcStride rc - 64 * l)
  let s := s.setTile t ((s.tile t).scrWrite (64 * s.frameBase t q.frame + addr + 64 * l) (bytesAt b 0 n) poison)
  (s, if poison then { q with badBlk := sset false q.badBlk j true } else q)

/-- A line of the running scan has arrived. A fold that waited on it after a line issued later is a timing choice (R254). -/
def State.hLine (s : State) (c : Nat) (q : Scan) (t : HTag) (m : MemRsp) : State :=
  let b := bytesAt m.data 0 64
  if q.phase = 1 then
    let late := decide (t.order < q.top)
    let s := if late then s.cabChoice c else s
    let q := { q with lines := sput q.lines t.line b, bad := sset false q.bad t.line m.poison, left := q.left - 1,
                      top := max q.top t.order }
    if q.left = 0 then s.hScored c q else s.setHead c q
  else
    let (s, q) := s.hRecord q t.line b m.poison
    let q := { q with left := q.left - 1 }
    if q.left = 0 then (s.hZero q).hFinish c q else s.setHead c q

/-- The unit reset of an HSE (Table 17.2): its scans are discarded, and every task with one of them ends. -/
def State.hseReset (s : State) (c : Nat) : State :=
  let x := s.hse c
  let s := { s with faults := { s.faults with resets := s.faults.resets ++ [uHse * 256 + c] } }
  let s := s.setHse c { x with queue := [], tags := x.tags.filter (fun p => p.2.id.isSome) }
  let s := x.queue.foldl (fun s q => s.completeTag q.tile q.xtag) s
  x.queue.foldl (fun s q => s.endTask q.req stTrapped q.tile) s

/-- The tiles of tasks with a scan in the HSE (R495). -/
def State.hseTiles (s : State) (c : Nat) : List Nat := ((s.hse c).queue.flatMap (fun q => s.taskTiles q.req)).eraseDups

/-- HSE_LINE_ARRIVE: the answer to a tag's read. An uncorrectable error of the HSE's buffer fires HSE_UE. -/
def State.hArrive (s : State) (c n : Nat) (found : Ecc) : State :=
  match sfind (s.hse c).tags n with
  | none => s
  | some t =>
    match t.id.bind (fun id => (sfind s.rsps id).map (fun m => (id, m))) with
    | none => s
    | some (id, m) =>
      if !m.performed || s.faults.grave || !s.inTurn c [(t.tgt.home, m.num)] then s
      else
        let s := ((s.settle (.hse c n) false).forget [id]).countAccess t.acid t.va t.tgt
        let s := s.setHse c { s.hse c with tags := sdel (s.hse c).tags n }
        let s := s.hReap c
        match s.hHead c with
        | none => s
        | some q =>
          if q.num ≠ t.scan then s
          else
            let h : Hit := { access := 1, mUnit := uHse, mNum := c, acid := t.acid, queue := (s.req q.req).q }
            if found = .uncorrectable then
              s.fireWith (fun s => s.trapTiles (s.hseTiles c) (Config.trapCause uHse 2)) (fun s => s.hseReset c) (fun s => s) uHse c 2 h
            else if m.err ≠ .none then s.hXlFault c t.va ftOwner 7 q
            else (s.hLine c q t m).hPump c

def execHseLineArrive (cab : Fin 12) (tag : Nat) (found : Ecc) (s : State) : Answer := .next (s.hArrive cab tag found)

/-- HSE_SCAN_COMPLETE: the scan at the head, once its result is written, completes and signals its tag group. -/
def State.hseComplete (s : State) (c : Nat) : State :=
  if s.frozen then s
  else
    let s := s.hReap c
    match s.hHead c with
    | some q => if q.phase = 3 then (s.setHse c { s.hse c with queue := (s.hse c).queue.drop 1 }).completeTag q.tile q.xtag else s
    | none => s

def execHseScanComplete (cab : Fin 12) (s : State) : Answer := .next (s.hseComplete cab)

end Sys2Proof.Machine
end

