-- ==== Sys2Proof/Machine/Walk.lean ====
section
/-! DEFINITION. Walk steps, and the cancelling of a transfer that an invalidation holds (R369, R370, R374, R385). -/
namespace Sys2Proof.Machine

/-! ### WALK_STEP (R369) -/

/-- A waiter of a walk meets the walk's fault. -/
def State.waiterFault (s : State) (x : Waiter) (type level : Nat) : State :=
  let va := x.va
  match x.who with
  | .tile t tag =>
    match sfind (s.tile t).xfers tag with
    | none => s
    | some f =>
      s.taskFault f.req t { va := va, acid := (s.req f.req).acid, type := type, access := x.access.code, level := level, source := 0,
                            unit := t } (f.pos t)
  | .gpe g n =>
    match sfind (s.gpe g).tags n with
    | none => s
    | some t => if t.id.isSome || (sfind (s.gpe g).cmds t.cmd).isNone then s else s.gXlFault g t.cmd va type level
  | .hse c n =>
    match sfind (s.hse c).tags n, s.hHead c with
    | some t, some q => if t.id.isSome || q.num ≠ t.scan then s else s.hXlFault c va type level q
    | _, _ => s
  | .eng id => { s with coh := { s.coh with eng := s.coh.eng.map (fun e => if e.id = id then { e with fault := some (type, level) } else e) } }
  | _ => s

/-- A leaf was found: the caches of every waiter take it (R373). Scans go on at once; other waiters go on as their own commands
come. An engine's work finds the page in the control TLB. -/
def State.walkFound (s : State) (w : Walk) (e : TlbEnt) : State :=
  let s := w.waiters.foldl (fun s x => s.tlbInstall x.who.path e) s
  w.waiters.foldl (fun s x => match x.who with
    | .hse c _ => s.hPump c
    | .eng id => { s with coh := { s.coh with eng := s.coh.eng.filter (fun e => e.id ≠ id) } }
    | _ => s) s

/-- One level of a walk. -/
def State.walkOn (s : State) (k : Nat) (w : Walk) : State :=
  let drop (s : State) : State := { s with mtu := { s.mtu with walkers := sdel s.mtu.walkers k } }
  match s.walkRead w.acid w.va w.level w.table with
  | (s, .down l t) => { s with mtu := { s.mtu with walkers := sput s.mtu.walkers k { w with level := l, table := t } } }
  | (s, .found e) => (drop s).walkFound w e
  | (s, .fault ty l) =>
    w.waiters.foldl (fun s x => s.waiterFault x ty l) (drop s)

/-- WALK_STEP with what the MTU's storage showed: TLB_UE has the MTU's unit reset, OWNER_TAG_UE is class D. -/
def State.walkStep (s : State) (k : Nat) (found : WalkFinding) : State :=
  match sfind s.mtu.walkers k with
  | none => s
  | some w =>
    let h : Hit := { access := 5, mUnit := uMtu, aspace := 1, acid := w.acid, addr := w.va }
    if s.faults.grave || s.faults.resets.contains (uMtu * 256) then s
    else match found with
      | .clean => s.direct (.walk k) (fun s => s.walkOn k w)
      | .tlbUe => s.fireWith id State.mtuReset id uMtu 0 2 h
      | .ownerTagUe => s.fire uMtu 0 3 h

def execWalkStep (walker : Fin 64) (found : WalkFinding) (s : State) : Answer := .next (s.walkStep walker found)

/-! ### MATCHING_TRANSFER_CANCEL (R385) -/

/-- A GPE line under an invalidation is not settled 50 µs after its issue: its task ends with XLATE_DRAIN, and a part is answered
MALFORMED. -/
def State.gpeCancel (s : State) (g n : Nat) : State :=
  match sfind (s.gpe g).tags n with
  | none => s
  | some t =>
    match t.id with
    | none => s
    | some id =>
      if decide (since s.now t.since < 50000) || !s.heldByInv (.gpe g n) then s
      else
        let s := (((s.settle (.gpe g n) true).mtuCount 7).discardReqs [id])
        let s := s.setGpe g { s.gpe g with tags := sdel (s.gpe g).tags n }
        match sfind (s.gpe g).cmds t.cmd with
        | none => s
        | some c =>
          if c.pd.isSome then s.gRefuse g t.cmd rsMalformed
          else s.endTask c.req stXlateDrain c.tile (s.postPos c.tile c.xtag)

/-- The same for a line of an HSE. -/
def State.hseCancel (s : State) (c n : Nat) : State :=
  match sfind (s.hse c).tags n with
  | none => s
  | some t =>
    match t.id with
    | none => s
    | some id =>
      if decide (since s.now t.since < 50000) || !s.heldByInv (.hse c n) then s
      else
        let s := (((s.settle (.hse c n) true).mtuCount 7).discardReqs [id])
        let s := s.setHse c { s.hse c with tags := sdel (s.hse c).tags n }
        match s.hHead c with
        | some q => if q.num = t.scan then s.endTask q.req stXlateDrain q.tile (s.postPos q.tile q.xtag) else s
        | none => s

/-- The transfer that is cancelled. A tile's transfer still under its tag is cancelled by XFER_TIMEOUT. -/
def State.cancel (s : State) (u : CancelUnit) : State :=
  if s.faults.grave then s
  else match u with
    | .store t id => if s.heldByInv (.store t id) then s.storeLate t id else s
    | .gpe g n => s.gpeCancel g n
    | .hse c n => s.hseCancel c n
    | .epm r => s.epmCancel r
    | .ssu r => s.ssuCancel r

def execMatchingTransferCancel (unit : CancelUnit) (s : State) : Answer := .next (s.cancel unit)

end Sys2Proof.Machine
end

