-- ==== Sys2Proof/Machine/Hlc.lean ====
section
/-! DEFINITION. The host link ports (chapter 14; R470): function and link resets, the lost-write log, D-states, the HDM decoder and
window moves, the staging aperture, interrupts and the DOE mailbox. -/
namespace Sys2Proof.Machine

/-- PORT_COUNTS: 0 REPLAYS, 1 RECOVERIES, 2 LINK_DOWNS, 3 FLRS, 4 STORES_DISCARDED, 5 HDM_REFUSED, 6 STAGE_DROPPED, 7 IRQ_DROPPED. -/
def State.portCount (s : State) (p k : Nat) (n : Nat := 1) : State := s.bump (portIx p 0x2000) 1 k n

/-! ### What leads to a port -/

/-- Requests to the host of a port that wait in a slice's input. -/
def State.hostQueued (s : State) (p : Nat) : List MemReq :=
  (List.range 16).flatMap (fun i => (s.slice i).inq.filter (fun r => r.tgt.onHost p))

/-- Requests to the host of a port in miss registers, or sent as writes. -/
def State.hostTaken (s : State) (p : Nat) : List MemReq :=
  (List.range 16).flatMap (fun i => (s.slice i).misses.flatMap (fun m => m.2.waiters.filter (fun r => r.tgt.onHost p))) ++
  s.coh.hostReqs.filterMap (fun q => match q.2.why with
    | .write r => if q.2.port = p then some r else none
    | _ => none)

/-- The request writes host memory. -/
def MemOp.stores : MemOp → Bool
  | .read => false
  | .ldr => false
  | _ => true

/-- A tile's transfer leads to the host of a port, as far as its pages translate. -/
def State.leadsTo (s : State) (t : Nat) (x : Xfer) (p : Nat) : Bool :=
  (pieces x.va x.len 4096).any (fun oc =>
    match s.xlSeen (.tile t) (s.req x.req).acid (x.va + oc.1) true with
    | .go tg _ => tg.onHost p
    | .ats e => e.tgt.onHost p
    | _ => false)

/-- Store buffer entries that target a port: not yet on the network, or not yet accepted at their home slices (R346). -/
def State.bufferedTo (s : State) (p : Nat) : List (Nat × Nat × Xfer) :=
  let ids := ((s.hostQueued p).filter (fun r => r.op.stores)).map (fun r => r.id)
  s.tiles.tile.flatMap (fun t => (t.2.xfers.filter (fun x => opBuffered x.2.op &&
    ((decide (x.2.phase ≤ 1) && s.leadsTo t.1 x.2 p) || (x.2.phase = 2 && x.2.lines.any (fun l => ids.contains l.1))))).map
      (fun x => (t.1, x.1, x.2)))

/-- Tasks with a transfer, a gather or a scan outstanding to a port: the request, its tile, the faulting bundle. -/
def State.tasksOn (s : State) (p : Nat) : List (Nat × Nat × Option (Nat × Nat × Nat)) :=
  let ids := (s.hostQueued p ++ s.hostTaken p).map (fun r => r.id)
  s.tiles.tile.flatMap (fun t =>
    (t.2.xfers.filter (fun x => x.2.lines.any (fun l => ids.contains l.1))).map (fun x => (x.2.req, t.1, x.2.pos t.1)) ++
    (t.2.tracker.filter (fun k => ids.contains k.id)).map (fun k => (k.req, t.1, none))) ++
  s.gpes.flatMap (fun g => (g.2.tags.filter (fun x => x.2.id.isSome && x.2.tgt.onHost p)).filterMap (fun x =>
    (sfind g.2.cmds x.2.cmd).map (fun c => (c.req, c.tile, s.postPos c.tile c.xtag))))

/-- Discard a store buffer entry: one not yet sent frees its tag; the lines of one sent that no slice has accepted are dropped. -/
def State.dropStore (s : State) (p t tag : Nat) (x : Xfer) : State :=
  if x.phase ≤ 1 then s.completeTag t tag
  else
    let ids := x.lines.map (fun l => l.1)
    let mine (r : MemReq) : Bool := r.tgt.onHost p && ids.contains r.id
    let gone := (s.hostQueued p).filter mine
    let s := { s with coh := { s.coh with slices := s.coh.slices.map (fun kv =>
      (kv.1, { kv.2 with inq := kv.2.inq.filter (fun r => !mine r) })) } }
    gone.foldl (fun s r => s.failReq r.id .hostLost) s

/-- Discard the store buffer entries for a port, each counted, and end every task with a transfer outstanding there (R413, R416). -/
def State.endPortWork (s : State) (p : Nat) : State :=
  let stores := s.bufferedTo p
  let tasks := s.tasksOn p ++ stores.map (fun x => (x.2.2.req, x.1, x.2.2.pos x.1))
  let s := stores.foldl (fun s x => s.dropStore p x.1 x.2.1 x.2.2) s
  let s := s.portCount p 4 stores.length
  let s := s.setPort p { s.port p with lostStores := min (2 ^ 64 - 1) ((s.port p).lostStores + stores.length) }
  tasks.foldl (fun s x => s.endTask x.1 stHostLost x.2.1 x.2.2) s

/-! ### Function Level Reset (R413, R414) -/

/-- The port's fault records are dropped (R381): the port takes no requests, so none is written. -/
def State.dropBatch (s : State) (p : Nat) : State := s.writeBatch p

/-- FLR: within 1 µs the enables are clear, shelf 3 work of the port has ended, and its queues, mailbox, claims and stage are gone. -/
def State.flr (s : State) (p : Nat) : State :=
  if !s.linkUp p then s
  else
    let s := s.setPort p { s.port p with bme := false, msix := false, msi := 0, pend := [], unmasked := [], d3req := false,
                                         stage := none, flrAt := some s.now }
    let s := (((s.portCount p 3).endPortWork p).queuesLost p).endJobs (fun j => j = .stage p)
    let s := (s.resetEnts (fun r => r = .flr p)).pathLost p
    (s.dropBatch p).dropAts p

def execFlr (port : Fin 2) (s : State) : Answer := .next (s.flr port)

/-- FLR_DONE: every entry of reset class FLRx is at its default; configuration space answers with default values. -/
def State.flrDone (s : State) (p : Nat) : State :=
  let h := s.port p
  match h.flrAt with
  | none => s
  | some _ =>
    (s.setPort p { h with flrAt := none, dstate := 0, pmeEn := false, romOffset := 0 }).resetClass (fun r => r = .flr p)

def execFlrDone (port : Fin 2) (s : State) : Answer := .next (s.flrDone port)

/-- BUS_MASTER_ENABLE_CLEAR (R414). -/
def execBusMasterEnableClear (port : Fin 2) (s : State) : Answer :=
  .next (if s.linkUp port then (s.setPort port { s.port port with bme := false }).dropBatch port else s)

/-! ### Link events (R415, R416) -/

/-- The lines of a port whose writes are lost with it (R417): MH lines, and lines whose store was accepted and is not performed. -/
def State.lostWrites (s : State) (p : Nat) : List Nat :=
  let open_ := (s.hostTaken p).filter (fun r => r.op.stores && (sfind s.rsps r.id).any (fun m => !m.performed))
  (s.lostLines p ++ open_.map (fun r => r.tgt.addr)).map (fun a => a / 64)

/-- What waits for the host's IOMMU or answers its ATS requests ends with the link. -/
def State.atsLost (s : State) (p : Nat) : State :=
  let mine (w : Walk) : Bool := w.ats.any (fun e => e.tgt.onHost p)
  let s := s.dropAts p
  { s with mtu := { s.mtu with atsWait := s.mtu.atsWait.filter (fun w => !mine w),
                               atsInv := s.mtu.atsInv.filter (fun v => v.1 ≠ p) } }

/-- Sorted numbers without repeats. -/
def sortNat (l : List Nat) : List Nat :=
  (l.mergeSort (fun a b => decide (a ≤ b))).foldr (fun a r => if r.head? = some a then r else a :: r) []

/-- Runs of consecutive line numbers, of at most 65,535 lines: the first line and the count of each. -/
def lineRuns (l : List Nat) : List (Nat × Nat) :=
  (l.foldl (fun acc n => match acc with
    | (a, c) :: r => if a + c = n && decide (c < 65535) then (a, c + 1) :: r else (n, 1) :: acc
    | [] => [(n, 1)]) []).reverse

/-- Enter lost lines into a port's log: 256 ranges at most, the first since LOST_CLEAR. -/
def State.logLost (s : State) (p : Nat) (lines : List Nat) : State :=
  let h := s.port p
  let lines := sortNat lines
  let runs := (lineRuns lines).map (fun r => (r.1 * 64, r.2))
  let room := 256 - h.lostLog.length
  s.setPort p { h with lostLog := h.lostLog ++ runs.take room, lostLines := min (2 ^ 64 - 1) (h.lostLines + lines.length),
                       lostOver := h.lostOver || decide (room < runs.length) }

/-- The ranges that an HLx has lost enter the log, once R336 has ended: those of one HLx before those of a later one. -/
def State.lostAppend (s : State) (p : Nat) : State :=
  match (s.port p).lostDue with
  | none => s
  | some l =>
    let s := s.logLost p l
    s.setPort p { s.port p with lostDue := none }

/-- HLx (R416): every effect within the first 10 µs, on a link that was up or down (PERST_N). What a re-attached host finds as it
was (R418) is everything else: programs, classes, tables, epochs, sessions, the HDM window, owner tags, routes and windows. -/
def State.hlx (s : State) (p : Nat) : State :=
  let s := s.lostAppend p
  let lost := s.lostWrites p
  let up := decide ((s.port p).link ≠ 0)
  let s := s.endPortWork p
  let h := s.port p
  let s := s.setPort p { h with
    link := 0, rate := 0, width := 0, flit := 0, dstate := 0, d3req := false, bme := false, cacheEn := false, memEn := false,
    ide := false, msix := false, msi := 0, unmasked := [], pend := [], decoded := false, decErr := false, decBase := 0,
    held := [], stage := none, hlxAt := s.now, flrAt := none, lostDue := some lost, lostHlx := min (2 ^ 32 - 1) (h.lostHlx + 1),
    lostAt := s.now, l1 := 0, pmeEn := false, pmeOff := false, romOffset := 0, spdm := 0, session := false }
  let s := (if up then s.portCount p 2 else s).fire (uHlc p) 0 0 { mUnit := uHlc p, mNum := p }
  let s := ((s.cohPortLost p).queuesLost p).endJobs (fun j => j = .stage p)
  let s := ((s.pathLost p).dropBatch p).atsLost p
  (s.setFq p {}).resetClass (fun r => r = .flr p || r = .hl p)

/-- HOST_LINK_RESET: the event HLx of a link that is up, and of the assertion of PERST_N, which keeps the port there until its
release. -/
def execHostLinkReset (port : Fin 2) (cause : LinkResetCause) (s : State) : Answer :=
  .next (
    if cause = .perst then
      if (s.port port).perst then s
      else
        let s := s.hlx port
        s.setPort port { s.port port with perst := true }
    else if (s.port port).link = 0 then s
    else s.hlx port)

/-! ### Configuration space (R395, R396, R399) -/

/-- The capability ROM's records (Table 14.6): UNIT, COUNT, first and last index. -/
def romRecords : List (Nat × Nat × Nat × Nat) := [
  (0x01, 96, 0x5100, 0x57FF), (0x02, 100, 0x5100, 0x57FF), (0x03, 12, 0x5000, 0x50FF), (0x04, 64, 0x5000, 0x50FF),
  (0x05, 48, 0x6000, 0x63FF), (0x06, 4096, 0x6000, 0x63FF), (0x07, 1, 0x6800, 0x6FFF), (0x08, 262144, 0x7000, 0x77FF),
  (0x09, 12, 0x7000, 0x77FF), (0x0A, 256, 0x2800, 0x28FF), (0x0B, 64, 0x7800, 0x7FFF), (0x0C, 16, 0x3200, 0x32FF),
  (0x0D, 1048576, 0x3800, 0x38FF), (0x0E, 8, 0x3000, 0x30FF), (0x0F, 12, 0x3100, 0x31FF), (0x10, 4096, 0x4000, 0x40FF),
  (0x11, 2, 0x2000, 0x23FF), (0x12, 6, 0x8100, 0x86FF), (0x13, 4096, 0x8800, 0x8FFF), (0x14, 1, 0x9800, 0x9FFF),
  (0x15, 1, 0x9000, 0x97FF), (0x16, 1, 0x1100, 0x11FF), (0x17, 0, 0, 0)]

/-- CAP_ROM (Tables 14.4 and 14.5). -/
def capRom : Bytes :=
  natLe 0x50414352 4 ++ natLe 1 2 ++ natLe 23 2 ++ natLe 0x0480 2 ++ natLe Config.romRevision 2 ++ natLe 432 4 ++
  natLe Config.romVariant 8 ++ zeros 40 ++
  romRecords.flatMap (fun r => natLe r.1 2 ++ natLe 1 2 ++ natLe r.2.1 4 ++ natLe r.2.2.1 2 ++ natLe r.2.2.2 2 ++ zeros 4)

/-- What a port's configuration space answers with. An offset at or beyond the ROM's size reads zero (R396). -/
def State.cfgSpace (s : State) (p : Nat) : CfgSpace :=
  let o := (s.port p).romOffset
  { ident := s.pcs.ident, range1 := s.winSize p, romHead := capRom.take 64, romOffset := o, romData := bytesAt capRom o 4 }

/-- The rate and flit mode go together (Table 14.1): 68-byte flits at 32 GT/s and below, 256-byte flits at 32 and 64 GT/s; x16 or
x8. -/
def linkModeOk (rate width flit : Nat) : Bool :=
  (width = 16 || width = 8) && decide (1 ≤ rate) && decide (rate ≤ 4) && (if flit = 0 then rate ≠ 4 else decide (3 ≤ rate))

/-- The host port is fitted: H1 by strap (R477). -/
def State.portFitted (s : State) (p : Nat) : Bool := p = 0 || s.pcs.straps.getLsbD 39

/-- The host's configuration of the function (R394, R402). -/
def Hlc.config (h : Hlc) (c : HostCfg) : Hlc :=
  { h with bme := c.bme, cacheEn := c.cache, memEn := c.mem, ide := c.ide, msix := c.msix,
           msi := if [1, 2, 4, 8, 16, 32].contains c.msi then c.msi else 0, romOffset := 4 * c.rom.toNat }

/-- The host enumerates the function: configuration space answers with its values (R395). -/
def State.enumerate (s : State) (p : Nat) (h : Hlc) (c : HostCfg) : State :=
  let s := s.setPort p (h.config c)
  s.emit (.config p (s.cfgSpace p))

/-- HOST_LINK_UP: PERST_N is released and the link trains; on a link that is up the host configures the function anew, as after an
FLR. -/
def State.hostLinkUp (s : State) (p rate width flit : Nat) (c : HostCfg) : State :=
  let h := s.port p
  if s.linkUp p then (if h.flrAt.isNone then s.enumerate p h c else s)
  else if s.pcs.phase = 0 || s.pcs.blk = 3 || !s.portFitted p || !linkModeOk rate width flit then s
  else s.enumerate p { h with link := 2, rate := rate, width := width, flit := flit, perst := false } c

def execHostLinkUp (port : Fin 2) (rate : Fin 5) (width : Nat) (flit : Fin 3) (cfg : HostCfg) (s : State) : Answer :=
  .next (s.hostLinkUp port rate width flit cfg)

/-- LINK_RECOVERY (R415): counted; nothing is lost. A failed IDE check has the unit reset of Table 17.2, event HLx. -/
def State.linkRecovery (s : State) (p replays : Nat) (ideFailed : Bool) : State :=
  if !s.linkUp p then s
  else
    let hit : Hit := { mUnit := uHlc p, mNum := p }
    let s := (((s.portCount p 1).portCount p 0 replays).fire (uHlc p) 0 1 hit)
    if ideFailed && (s.port p).ide then s.fireWith id (fun s => s.hlx p) id (uHlc p) 0 3 hit else s

def execLinkRecovery (port : Fin 2) (replays : Nat) (ideFailed : Bool) (s : State) : Answer :=
  .next (s.linkRecovery port replays ideFailed)

/-- LINK_L1_CHANGE (R466): level 1 is L1 or L1.1, level 2 is L1.2, which stops the port's LNK clock. -/
def execLinkL1Change (port : Fin 2) (level : Fin 3) (s : State) : Answer :=
  .next (if s.linkUp port then
      s.setPort port { s.port port with l1 := level.val, link := if level.val = 0 then 2 else 4 }
    else s)

/-! ### The lost-write log (R417) -/

/-- LOST_WRITE_LOG_APPEND: R336 has ended. -/
def execLostWriteLogAppend (port : Fin 2) (s : State) : Answer := .next (s.lostAppend port)

/-- LOST_CLEAR's effect (R420). -/
def State.lostClear (s : State) (p : Nat) : State :=
  s.setPort p { s.port p with lostLog := [], lostLines := 0, lostOver := false, lostHlx := 0, lostStores := 0, lostAt := 0 }

/-! ### D-states (R470) -/

/-- No store to the port waits anywhere in the block. -/
def State.storesDrained (s : State) (p : Nat) : Bool :=
  (s.bufferedTo p).isEmpty && (s.hostQueued p ++ s.hostTaken p).all (fun r => !r.op.stores)

/-- D3HOT_ENTRY: SQE stops at once; the PMCSR write completes when every store to the port has drained, and until then the command
only begins the entry. -/
def State.d3hotEntry (s : State) (p : Nat) (pmeEn : Bool) : State :=
  if !s.linkUp p then s
  else
    let h := { s.port p with pmeEn := pmeEn }
    if s.storesDrained p then s.setPort p { h with dstate := 3, d3req := false } else s.setPort p { h with d3req := true }

def execD3hotEntry (port : Fin 2) (pmeEn : Bool) (s : State) : Answer := .next (s.d3hotEntry port pmeEn)

/-- D0_RETURN (R470). -/
def execD0Return (port : Fin 2) (pmeEn : Bool) (s : State) : Answer :=
  .next (if s.linkUp port then s.setPort port { s.port port with dstate := 0, d3req := false, pmeEn := pmeEn } else s)

/-! ### The HDM decoder and window moves (R403 to R407) -/

/-- HDM_DECODER_COMMIT: the decoder is committed, or reports Error Not Committed. -/
def State.decoderCommit (s : State) (p base size ways : Nat) : State :=
  if !s.linkUp p then s
  else
    let ok := s.winSize p ≠ 0 && size = s.winSize p && ways = 1
    let h := s.port p
    s.setPort p (if ok then { h with decoded := true, decErr := false, decBase := base } else { h with decErr := true })

def execHdmDecoderCommit (port : Fin 2) (base : BitVec 64) (size ways : Nat) (s : State) : Answer :=
  .next (s.decoderCommit port base.toNat size ways)

/-- A window of a size at a base lies wholly in software-visible shelf 1 or shelf 2 (R403). -/
def State.winFits (s : State) (base size : Nat) : Bool :=
  base % size = 0 && (decide (base + size ≤ s.shelf1Top) ||
    (inShelf2 base && decide (base + size ≤ shelf2Base + s.shelf2Bytes)))

/-- What R405 refuses of a move: 4 RANGE, 5 STATE, 0 accepted. -/
def State.moveCheck (s : State) (p : Nat) (arg : Bytes) : Nat :=
  let new := le arg 0 8
  let size := s.winSize p
  let old := s.winBase p
  if fld arg 65 63 ≠ 0 then 4
  else if size = 0 then 5
  else if !s.winFits new size || (decide (new < old + size) && decide (old < new + size)) then 4
  else if (s.port p).move.phase ≠ 0 then 5
  else if (List.range (size / 2 ^ 21)).all (fun k =>
      let o := s.owner (new + 2 ^ 21 * k)
      o.mode = 2 || (o.mode = 1 && o.acid = s.winAcid p)) then 0
  else 5

/-- A line of the moving port's old range. -/
def State.inOld (s : State) (p line : Nat) : Bool :=
  let o := (s.port p).move.old
  decide (o ≤ line * 64) && decide (line * 64 < o + s.winSize p)

/-- Entries of the old range in which P_x is set. -/
def State.toRecall (s : State) (p : Nat) : List SnfEnt :=
  (List.range 16).flatMap (fun i => ((s.slice i).snf.filter (fun kv =>
    kv.2.holders.contains p && s.inOld p kv.2.line)).map (fun kv => kv.2))

/-- Recalls of the port in the old range that have no answer yet. -/
def State.recallsOut (s : State) (p : Nat) : Bool :=
  s.coh.bis.any (fun b => b.1 / 2 ^ 36 = p && s.inOld p (b.1 % 2 ^ 36))

/-- Recall one line (R331); a BI_DEAD holder has lost it (R335). -/
def State.recallLine (s : State) (p : Nat) (e : SnfEnt) : State :=
  let line := e.line
  if (sfind s.coh.bis (biKey p line)).isSome then s
  else if s.biDead p then
    match s.snfFind line with
    | none => s
    | some (k, e) =>
      let s := if e.holders.all (fun q => s.biDead q) then (s.poisonLine line).snfCount 3 else s
      s.setSnf line k (e.clear p)
  else if 256 ≤ s.biCount (Target.dev (line * 64)).slice then s
  else s.sendBi line p .inv

/-- Send the recalls that may be sent (R406, step 2). -/
def State.recall (s : State) (p : Nat) : State := (s.toRecall p).foldl (fun s e => s.recallLine p e) s

/-- HDM_MOVE was accepted (R406, step 1). -/
def State.moveStart (s : State) (p : Nat) (arg : Bytes) : State :=
  let s := s.cmdStart (portIx p 0x2010) 1
  let m : MoveSt := { phase := 1, copy := bit arg 64, old := s.winBase p, new := le arg 0 8, pointer := 0,
                      moved := (s.port p).move.moved }
  (s.setPort p { s.port p with move := m }).recall p

/-- The hold ends: the held requests go on in order. -/
def State.moveRelease (s : State) (p : Nat) : State :=
  let h := s.port p
  h.held.foldl (fun s r => s.hdmArrive p r) (s.setPort p { h with held := [] })

/-- DPA_BASE takes the new base, and the move is done. -/
def State.moveSwitch (s : State) (p : Nat) : State :=
  let h := s.port p
  let m : MoveSt := { h.move with phase := 0, moved := some h.move.new }
  ((s.setPort p { h with move := m }).cmdDone (portIx p 0x2010) 1).moveRelease p

/-- HDM_MOVE_RECALL_DONE: recalls that found no place are sent first; with the last response, and with the last request that was accepted
before the move served at the old DPA, the base switches or the copy begins. -/
def State.recallDone (s : State) (p : Nat) : State :=
  let h := s.port p
  if h.move.phase ≠ 1 then s
  else
    let s := s.recall p
    if s.recallsOut p || !(s.toRecall p).isEmpty || s.coh.held.any (fun w => w.port = p) then s
    else if h.move.copy then (s.setPort p { h with move := { h.move with phase := 2, pointer := 0 } }).moveRelease p
    else s.moveSwitch p

def execHdmMoveRecallDone (port : Fin 2) (s : State) : Answer := .next (s.recallDone port)

/-- HDM_MOVE_COPY_STEP: the line at the pointer goes from the old DPA to the new one, with its poison (R300). -/
def State.copyLineStep (s : State) (p : Nat) : State :=
  let m := (s.port p).move
  if m.phase ≠ 2 || s.faults.grave then s
  else
    s.direct (.move p) (fun s =>
      let off := m.pointer * 64
      let (s, b, poison, _) := s.devRead (.host p) (s.winAcid p) (m.old + off) 64
      let (s, _) := s.devWrite (.host p) (s.winAcid p) (m.new + off) b poison
      let s := s.setPort p { s.port p with move := { m with pointer := m.pointer + 1 } }
      if m.pointer + 1 = s.winSize p / 64 then s.moveSwitch p else s.moveRelease p)

def execHdmMoveCopyStep (port : Fin 2) (s : State) : Answer := .next (s.copyLineStep port)

/-! ### The staging aperture (R408, R409) -/

/-- STAGE_CFG of a port: DPA, ACID, ENABLE. -/
def State.stageN (s : State) (p off n : Nat) : Nat := s.rdN (portIx p 0x2020) 0 off n
def State.stageOn (s : State) (p : Nat) : Bool := s.stageN p 10 1 = 1

/-- Run an access of the aperture (R409). One that waits for a line keeps every later access of the function behind it. -/
def State.stageRun (s : State) (p : Nat) (r : StageReq) (f : State → State) : State :=
  if (s.port p).stage.any (fun c => c ≠ r) then s
  else
    let job : EngJob := .stage p
    let t := f { s with coh := { s.coh with job := some job } }
    if t.coh.need.isEmpty then
      let t := t.endJob job
      t.setPort p { t.port p with stage := none }
    else
      let s := s.waitFor t job
      s.setPort p { s.port p with stage := some r }

/-- STAGING_APERTURE_WRITE: through the home slices without allocating; a refused or disabled write is dropped and counted. -/
def State.stageWrite (s : State) (p off : Nat) (data : Bytes) : State :=
  if !s.linkUp p then s
  else if !s.stageOn p || s.faults.grave then s.portCount p 6
  else
    s.stageRun p { write := true, off := off, len := data.length, data := data } (fun s =>
      match s.writeAt (.host p) (s.stageN p 8 2 % 4096) (.dev (s.stageN p 0 8 + off)) data with
      | (s, .none) => s
      | (s, _) => s.portCount p 6)

def execStagingApertureWrite (port : Fin 2) (offset : BitVec 32) (data : Bytes) (s : State) : Answer :=
  .next (s.stageWrite port offset.toNat data)

/-- STAGING_APERTURE_READ: the bytes, or a Completer Abort. -/
def State.stageRead (s : State) (p off n : Nat) : State :=
  if !s.linkUp p then s
  else if !s.stageOn p then s.emit (.barRsp p none false)
  else
    s.stageRun p { off := off, len := n } (fun s =>
      match s.readAt (.host p) (s.stageN p 8 2 % 4096) (.dev (s.stageN p 0 8 + off)) n with
      | (s, b, poison, .none) => s.emit (.barRsp p (some b) poison)
      | (s, _, _, _) => s.emit (.barRsp p none false))

def execStagingApertureRead (port : Fin 2) (offset : BitVec 32) (len : Nat) (s : State) : Answer :=
  .next (s.stageRead port offset.toNat len)

/-! ### Interrupts and the DOE mailbox (R397, R398, R402) -/

/-- MSIX_VECTOR_UNMASK: a pending vector is sent once. -/
def State.msixUnmask (s : State) (p v : Nat) : State :=
  if !s.linkUp p then s
  else
    let h := s.port p
    let s := s.setPort p { h with unmasked := sset false h.unmasked v true, pend := sset false h.pend v false }
    if sget false h.pend v then s.raise p v else s

def execMsixVectorUnmask (port : Fin 2) (vector : Fin 256) (s : State) : Answer := .next (s.msixUnmask port vector)

/-- The measurement blocks of R397: the ROM's digest, and CHECK of each program slot or zero. -/
def State.measurements (s : State) : Bytes :=
  (List.range 48).map Config.romDigestByte ++
  (List.range 64).flatMap (fun k => if (s.prog k).state = 2 then bytesAt (s.prog k).image 60 4 else zeros 4)

/-- The figures of CDAT (R398): the window's base and size, the latencies in ns and the bandwidth in GB/s. -/
def State.cdat (s : State) (p : Nat) : Bytes :=
  natLe (s.winBase p) 8 ++ natLe (s.winSize p) 8 ++ natLe 700 8 ++ natLe 700 8 ++ natLe 115 8

/-- An answer whose bytes the spec leaves to the part: keys, nonces, signatures (log 7). -/
def State.doeFree (s : State) (p : Nat) (b : Bytes) : State :=
  let n := s.free
  State.emit { s with free := n + 1 } (.doe p ((List.range (Config.doeAnswerLen b n)).map (Config.doeAnswerByte b n)))

/-- SPDM_REQUEST. -/
def State.doeRequest (s : State) (p : Nat) (r : DoeReq) : State :=
  if !s.linkUp p then s
  else
    let h := s.port p
    match r with
    | .cdat => s.emit (.doe p (s.cdat p))
    | .ideKm b => if h.session then (s.setPort p { h with ide := true }).doeFree p b else s.doeFree p b
    | .spdm .getMeasurements _ => s.emit (.doe p s.measurements)
    | .spdm .setCertificate b => (s.setPort p { h with cert := b }).doeFree p b
    | .spdm .finish b => (s.setPort p { h with session := h.spdm = 1 || h.session, spdm := 0 }).doeFree p b
    | .spdm .keyExchange b => (s.setPort p { h with spdm := 1 }).doeFree p b
    | .spdm .endSession b => (s.setPort p { h with session := false }).doeFree p b
    | .spdm .getCertificate b => if h.cert.isEmpty then s.doeFree p b else s.emit (.doe p h.cert)
    | .spdm _ b => s.doeFree p b

def execSpdmRequest (port : Fin 2) (req : DoeReq) (s : State) : Answer := .next (s.doeRequest port req)

end Sys2Proof.Machine
end

