-- ==== Sys2Proof/Machine/Checker.lean ====
section
/-! DEFINITION. The load checker (R236 to R244, Table 8.5): what it refuses in a service program image, and where. Its timing takes
every WAIT as a hit: a bundle issues at its index (R241). -/
namespace Sys2Proof.Machine

/-- A refusal: the code of Table 8.5, the SEG_ID and the bundle index that LOAD_RESULT names. -/
structure Refuse where
  code   : Nat := 0
  seg    : Nat := 0xFFFF
  bundle : Nat := 0xFFFFFFFF
  deriving DecidableEq, Repr

/-- The first refusal of a list, by code; at equal code the first found. -/
def firstRefuse (l : List Refuse) : Option Refuse :=
  l.foldl (fun best r =>
    match best with
    | some b => if r.code < b.code then some r else best
    | none => some r) none

/-- A check that refuses where its condition holds. -/
def refuseIf (c : Bool) (code : Nat) (seg : Nat := 0xFFFF) (bundle : Nat := 0xFFFFFFFF) : List Refuse :=
  if c then [{ code := code, seg := seg, bundle := bundle }] else []

/-- The segment table's rows. -/
def imgRows (img : Bytes) : List Nat := List.range (imgNseg img)

/-! ### Headers (code 1) -/

/-- CHECK of an image: CRC-32C with the field at bytes 60 to 63 taken as zero. -/
def checkOk (b : Bytes) : Bool := le b 60 4 = crc32c (patch b 60 [0, 0, 0, 0])

/-- MAGIC, VERSION and CHECK of a header. -/
def headOk (b : Bytes) (magic : Nat) : Bool :=
  decide (64 ≤ b.length) && le b 0 4 = magic && le b 6 2 = 1 && checkOk b

/-- The length that a segment image's header implies (R240). -/
def segLength (g : Bytes) : Nat := 64 + 8 * segNbuf g + 32 * segNdesc g + 32 * segBundles g

/-- BAD_HEADER. -/
def headRefuses (img : Bytes) : List Refuse :=
  if !headOk img 0x31505359 || img.length < 128 || img.length < 128 + 16 * imgNseg img then [{ code := 1 }]
  else
    (imgRows img).flatMap (fun k =>
      let r := segRow img k
      let g := segBytes img k
      refuseIf (decide (img.length < r.1 + r.2.1) || !headOk g 0x31475359 || segLength g ≠ r.2.1) 1 r.2.2)

/-! ### Program-wide checks (codes 2 to 4) -/

/-- Every field of the program header, the demand record and the segment table (code 2). -/
def progReserved (img : Bytes) : Bool :=
  fld img 384 32 ≠ 0 || fld img 224 8 ≠ 0 || !zeroIn img 8 18 || fld img 208 4 ≠ 0 || fld img 32 16 ≠ 0 ||
  !zeroIn img 64 28 || decide (4096 < imgNseg img) || decide (16 < imgFrames img) || imgFrameWords img % 32 ≠ 0 ||
  decide (imgFrameWords img < 32) || decide (49152 < imgFrameWords img) ||
  (imgRows img).any (fun k => le img (128 + 16 * k + 14) 2 ≠ 0)

/-- The entries that name a segment. -/
def imgEntries (img : Bytes) : List (Nat × Nat) := ((imgLanes img).map (fun n => (n, imgEntry img n)))

/-- SEGMENT_TABLE for one row: a SEG_ID named twice, or one that its image does not carry. -/
def rowMismatch (img : Bytes) (k : Nat) : Bool :=
  let id := (segRow img k).2.2
  segId (segBytes img k) ≠ id || (List.range k).any (fun j => (segRow img j).2.2 = id)

/-- Program-wide refusals. -/
def progRefuses (img : Bytes) : List Refuse :=
  refuseIf (progReserved img) 2 ++
  refuseIf (imgNseg img = 0 || imgFrames img = 0 || imgPlacement img = 0 || (imgLanes img).isEmpty) 3 ++
  ((imgRows img).flatMap (fun k => refuseIf (rowMismatch img k) 4 (segRow img k).2.2)) ++
  ((imgEntries img).flatMap (fun e =>
    match segFind img e.2 with
    | none => refuseIf true 4 e.2
    | some g => refuseIf (segLane g ≠ e.1 || segTrap g) 4 e.2)) ++
  (match segFind img (imgTrapSeg img) with
   | none => refuseIf true 4 (imgTrapSeg img)
   | some g => refuseIf (!segTrap g) 4 (imgTrapSeg img))

/-! ### Descriptors (codes 2, 5, 11) -/

/-- A set of scratch words: the first word, how many, the distance to the next row, and the rows. -/
structure Span where
  first  : Nat := 0
  words  : Nat := 0
  stride : Nat := 0
  rows   : Nat := 0
  deriving DecidableEq, Repr

/-- One run of words. -/
def Span.run (first words : Nat) : Span := { first := first, words := words, stride := 0, rows := 1 }

/-- The first words of a span's rows. -/
def Span.starts (p : Span) : List Nat := if p.words = 0 then [] else (List.range p.rows).map (fun i => p.first + i * p.stride)

/-- A span passes a frame's end. -/
def Span.beyond (p : Span) (fw : Nat) : Bool := p.starts.any (fun a => decide (fw < a + p.words))

/-- Two spans have a word in common. -/
def Span.meets (p q : Span) : Bool :=
  p.starts.any (fun a => q.starts.any (fun b => decide (a < b + q.words) && decide (b < a + p.words)))

/-- Spans of two lists meet. -/
def spansMeet (l m : List Span) : Bool := l.any (fun p => m.any (fun q => p.meets q))

/-- What an operation does to scratch, and for how long it keeps its unit. -/
structure Work where
  reads  : List Span := []
  writes : List Span := []
  cycles : Nat := 0
  deriving DecidableEq, Repr

/-- Words of `n` elements of a format and block mode. -/
def elemWords (fmt blk n : Nat) : Nat := ceilDiv (rowBytes fmt blk n) 64

/-- The rate r of Table 3.5, by the wider operand. -/
def mmaRate (a b : Nat) : Nat :=
  let w := max (fmtOf a).w (fmtOf b).w
  if 16 ≤ w then 1 else if w = 8 then 2 else 4

/-- T of an MMA (R206). -/
def mmaCycles (strict cin : Bool) (d : Bytes) : Nat :=
  if dmM d = 0 || dmN d = 0 then 1
  else
    let drain := 64 * (1 + b2n cin)
    let p := max (if strict then 64 * dmK d else dmK d / mmaRate (dmFmtA d) (dmFmtB d)) drain
    ceilDiv (dmM d) 128 * ceilDiv (dmN d) 128 * p + 40

/-- A block mode on a format that may not carry one (R71). -/
def badBlock (fmt blk : Nat) : Bool := blk ≠ 0 && decide (fmt < 3)

/-- Reserved fields and encodings of a matrix descriptor (Table 7.8). -/
def matrixReserved (d : Bytes) : Bool :=
  fld d 156 100 ≠ 0 || decide (9 < dmFmtA d) || decide (9 < dmFmtB d) || dmBlkA d = 3 || dmBlkB d = 3

/-- A matrix descriptor: reserved fields; addresses beyond the frame; R71, R74, R75, R205; what it does. -/
def matrixUse (d : Bytes) (strict cin : Bool) (fw : Nat) : Bool × Bool × Bool × Work :=
  let res := matrixReserved d
  let far := decide (fw ≤ dmA d) || decide (fw ≤ dmB d) || decide (fw ≤ dmC d)
  let aw := elemWords (dmFmtA d) (dmBlkA d) (dmK d)
  let bw := elemWords (dmFmtB d) (dmBlkB d) (dmK d)
  let cw := ceilDiv (4 * dmN d) 64
  let some_ := dmM d ≠ 0 && dmN d ≠ 0
  let a : Span := { first := dmA d, words := aw, stride := dmStrA d, rows := if some_ then dmM d else 0 }
  let b : Span := { first := dmB d, words := bw, stride := dmStrB d, rows := if some_ then dmN d else 0 }
  let c : Span := { first := dmC d, words := cw, stride := dmStrC d, rows := if some_ then dmM d else 0 }
  let bad := dmK d % 32 ≠ 0 || badBlock (dmFmtA d) (dmBlkA d) || badBlock (dmFmtB d) (dmBlkB d) ||
    (!strict && (dmFmtA d = 0 || dmFmtB d = 0)) || decide (dmStrA d < aw) || decide (dmStrB d < bw) ||
    decide (dmStrC d < cw) || a.beyond fw || b.beyond fw || c.beyond fw
  (res, far, bad, { reads := [a, b] ++ (if cin then [c] else []), writes := [c], cycles := mmaCycles strict cin d })

/-- T of a stream operation (R210). -/
def streamCycles (op n : Nat) : Nat :=
  match op with
  | 0x20 => ceilDiv n 64 + 16
  | 0x21 => 2 * ceilDiv n 64 + 24
  | 0x22 => ceilDiv n 64 + 16
  | 0x23 => 8
  | _ => 4

/-- Reserved fields and encodings of a stream descriptor (Table 7.10), read by its operation or not (R8). -/
def streamReserved (d : Bytes) : Bool :=
  fld d 106 150 ≠ 0 || decide (9 < dsSrc d) || decide (9 < dsDst d) || dsBlk d = 3 || decide (4 < dsHslot d) ||
  dsRnd d = 3 || dsTsel d = 3 || decide (4096 < dsGuard d)

/-- A stream descriptor under its operation, in the same form. -/
def streamUse (d : Bytes) (op fw : Nat) : Bool × Bool × Bool × Work :=
  let n := dsCount d
  let blk := dsBlk d
  let o : CvtOpt := { src := dsSrc d, dst := dsDst d, blk := blk, tsel := dsTsel d }
  -- no side of the conversion may be block-scaled (R71)
  let none_ := blk ≠ 0 && decide (dsSrc d < 3) && decide (dsDst d < 3)
  let (bad, ins, outs) : Bool × List Span × List Span :=
    match op with
    | 0x20 =>
      let db := o.dstBlk
      (none_ || (db ≠ 0 && n % db ≠ 0) || (dsHslot d ≠ 0 && decide (2 < dsDst d) && db = 0),
       [.run (dsSrcWord d) (elemWords (dsSrc d) o.srcBlk n)],
       [.run (dsDstWord d) (elemWords (dsDst d) (if db = 0 then 0 else blk) n)])
    | 0x21 =>
      (decide (4096 < n) || dsHslot d ≠ 0 || badBlock (dsSrc d) blk,
       [.run (dsSrcWord d) (elemWords (dsSrc d) o.tileBlk n)], [.run (dsDstWord d) (ceilDiv (16 + 2 * n) 64)])
    | 0x22 =>
      (decide (4096 < n) || decide (1 < dsDst d) || dsSrc d ≠ 8 || blk ≠ 0,
       [.run (dsSrcWord d) (ceilDiv (16 + 2 * n) 64)], [.run (dsDstWord d) (elemWords (dsDst d) 0 n)])
    | 0x23 => (dsHslot d = 0 || none_, [], [.run (dsDstWord d) 16])
    | _ => (dsHslot d = 0 || none_, [], [])
  (streamReserved d, (ins ++ outs).any (fun p => decide (fw ≤ p.first) || p.beyond fw), bad,
   { reads := ins, writes := outs, cycles := streamCycles op n })

/-! ### Bundles (codes 2, 5, 7 to 11, 13) -/

/-- Reserved bits and encodings of a bundle (R7, R8, R203). -/
def bundleReserved (b : Bytes) : Bool :=
  let vop := slotOp b 1
  let op := xOp b
  let n := xLen b
  let imm := cImm b
  fld b 248 7 ≠ 0 ||
  -- MXU
  decide (1 < slotOp b 0) || decide (4 < mHslot b) || fld b 0 48 ≠ 0 ||
  -- VXU
  !(decide (vop ≤ 0x13) || (decide (0x20 ≤ vop) && decide (vop ≤ 0x24))) || fld b 64 22 ≠ 0 ||
  -- SLS
  decide (2 < slotOp b 2) || decide (4 < lHslot b) || fld b 144 4 ≠ 0 || (slotOp b 2 ≠ 0 && decide (49136 < lWord b)) ||
  -- XFU
  decide (0x17 < op) || fld b 160 2 ≠ 0 ||
  ((op = 1 || op = 2) && decide (1024 < n)) || ((op = 3 || op = 4) && n ≠ 1 && n ≠ 2 && n ≠ 4 && n ≠ 8) ||
  ((op = 5 || op = 6) && n ≠ 16) || ((op = 7 || op = 8) && n ≠ 8) ||
  (decide (9 ≤ op) && decide (op ≤ 0x12) && n ≠ 4 && n ≠ 8) || ((op = 0x13 || op = 0x14) && n ≠ 64) ||
  (decide (0x15 ≤ op) && n ≠ 0) || ((op = 5 || op = 6 || op = 8 || op = 0x12) && xDr b % 2 = 1) ||
  -- CTL
  decide (0x13 < cOp b) || (cOp b = 0xF && decide (127 < imm)) || (cOp b = 0x11 && decide (511 < imm)) ||
  (cOp b = 0x13 && decide (5 < imm))

/-- The vector registers a bundle reads. -/
def bundleVreads (b : Bytes) : List Nat :=
  let op := slotOp b 1
  (if op = 4 || op = 0xA then [vA b, vB b, vC b]
   else if 1 ≤ op && op ≤ 9 then [vA b, vB b]
   else if op = 0xB || (0xD ≤ op && op ≤ 0x13) then [vA b] else []) ++
  (if slotOp b 2 = 2 then [lVr b] else []) ++ (if cOp b = 0xF then [cA b] else [])

/-- The vector registers a bundle writes, with the cycles until each is usable (R207, R213). -/
def bundleVwrites (b : Bytes) : List (Nat × Nat) :=
  let op := slotOp b 1
  (if 1 ≤ op && op ≤ 0xC then [(vD b, 4)] else if 0xD ≤ op && op ≤ 0x13 then [(vD b, 12)] else []) ++
  (if slotOp b 2 = 1 then [(lVr b, 6)] else [])

/-- The words of a transfer in its segment's frame; its first word is an address of the frame though no byte moves (Table 8.5). -/
def xferSpan (b : Bytes) : Span :=
  if xOp b = 1 || xOp b = 2 then .run (xWord b) (ceilDiv (xLen b) 64)
  else if xOp b = 0x13 || xOp b = 0x14 then .run (xWord b) 1
  else .run 0 0

/-- The words that one SLS operation uses. -/
def slsSpan (b : Bytes) : Span := if slotOp b 2 = 0 then .run 0 0 else .run (lWord b) 16

/-- The transfer buffers a segment declares. -/
def segXfers (g : Bytes) : List (Nat × Nat) :=
  (List.range (segNbuf g)).filterMap (fun k =>
    let r := segBuf g k
    if r.2.2 = 1 then some (r.1, r.2.1) else none)

/-- Every word of a run lies in some transfer buffer. -/
def inXfers (bufs : List (Nat × Nat)) (p : Span) : Bool :=
  (List.range p.words).all (fun i => bufs.any (fun r => decide (r.1 ≤ p.first + i) && decide (p.first + i < r.1 + r.2)))

/-- What the walk over a segment's bundles carries: when the MXU and the converter are free, when each VR is usable, accesses
that are not complete, buffers that await a load's group, tags by group, and when all is complete. -/
structure Walked where
  mxuFree : Nat := 0
  cvtFree : Nat := 0
  vr      : SMap Nat := []
  reads   : List (Span × Nat) := []
  writes  : List (Span × Nat) := []
  awaits  : List (Nat × Span) := []
  tags    : SMap Nat := []
  doneBy  : Nat := 0
  out     : List Refuse := []
  deriving DecidableEq, Repr

/-- Tags held. -/
def Walked.held (w : Walked) : Nat := (w.tags.map (fun p => p.2)).foldl (· + ·) 0

/-- The operations of a bundle that use scratch through port A, with their completion (R505); and what their descriptors break. -/
def bundleWork (g b : Bytes) (id i fw : Nat) : List Refuse × Option Work × Option Work × Option Work :=
  let desc (k : Nat) (f : Bytes → Bool × Bool × Bool × Work) : List Refuse × Option Work :=
    if segNdesc g ≤ k then (refuseIf true 11 id i, none)
    else
      let (res, far, bad, w) := f (segDesc g k)
      (refuseIf res 2 id i ++ refuseIf (!res && far) 5 id i ++ refuseIf (!res && bad) 11 id i, if res then none else some w)
  let m := if slotOp b 0 = 1 then desc (mDesc b) (fun d => matrixUse d (segStrict g) (mCin b) fw) else ([], none)
  let v := if 0x20 ≤ slotOp b 1 then desc (vDesc b) (fun d => streamUse d (slotOp b 1) fw) else ([], none)
  let l : Option Work := match slotOp b 2 with
    | 1 => some { reads := [slsSpan b], cycles := 6 }
    | 2 => some { writes := [slsSpan b], cycles := 6 }
    | _ => none
  (m.1 ++ v.1, m.2, v.2, l)

/-- One bundle of the walk. -/
def walkBundle (g : Bytes) (id fw : Nat) (bufs : List (Nat × Nat)) (w : Walked) (i : Nat) : Walked :=
  let b := segBundle g i
  let (bad, m, v, l) := bundleWork g b id i fw
  let ws := [m, v, l].filterMap (fun x => x)
  let reads := ws.flatMap (fun x => x.reads)
  let writes := ws.flatMap (fun x => x.writes)
  let live (p : Span × Nat) : Bool := decide (i < p.2)
  let early := (bundleVreads b).any (fun r => decide (i < sget 0 w.vr r))
  let late := (w.writes.filter live).map (fun p => p.1)
  let busy := (w.reads.filter live).map (fun p => p.1) ++ late
  -- the declared buffers that a load of this bundle fills (R214)
  let p := xferSpan b
  let into := if xOp b = 1 then (bufs.filter (fun r => (Span.run r.1 r.2).meets p)).map (fun r => Span.run r.1 r.2) else []
  let hazard := early || spansMeet reads late || spansMeet writes busy ||
    spansMeet (reads ++ writes) (w.awaits.map (fun p => p.2)) || spansMeet into (busy ++ reads ++ writes)
  let isWait := cOp b = 0x10
  let isEnd := cOp b = 0x11
  let last := i + 1 = segBundles g
  let order := ((isWait || isEnd) && (slotOp b 0 ≠ 0 || slotOp b 1 ≠ 0 || slotOp b 2 ≠ 0 || decide (i < w.doneBy))) ||
    (isEnd && xOp b ≠ 0)
  -- a WAIT consumes its groups before the bundle's own transfer issues (R225)
  let named (k : Nat) : Bool := isWait && (cImm b).testBit k
  let tags := w.tags.filter (fun p => !named p.1)
  let awaits := w.awaits.filter (fun p => !named p.1)
  let tags := if xOp b = 0 then tags else sput tags (xGrp b) (sget 0 tags (xGrp b) + 1)
  let awaits := awaits ++ into.map (fun q => (xGrp b, q))
  let next : Walked :=
    { mxuFree := match m with
        | some x => i + x.cycles
        | none => w.mxuFree,
      cvtFree := match v with
        | some x => i + x.cycles
        | none => w.cvtFree,
      vr := (bundleVwrites b).foldl (fun r x => sput r x.1 (max (sget 0 r x.1) (i + x.2))) w.vr,
      reads := w.reads.filter live ++ ws.flatMap (fun x => x.reads.map (fun q => (q, i + x.cycles))),
      writes := w.writes.filter live ++ ws.flatMap (fun x => x.writes.map (fun q => (q, i + x.cycles))),
      awaits := awaits, tags := tags,
      doneBy := (ws.map (fun x => i + x.cycles) ++ (bundleVwrites b).map (fun x => i + x.2)).foldl max w.doneBy,
      out := [] }
  { next with out := w.out ++ bad ++
      refuseIf (bundleReserved b) 2 id i ++
      refuseIf ((slsSpan b).beyond fw) 5 id i ++
      refuseIf (decide (fw ≤ p.first) || p.beyond fw || !inXfers bufs p) 5 id i ++
      refuseIf ((m.isSome && decide (i < w.mxuFree)) || (v.isSome && decide (i < w.cvtFree))) 7 id i ++
      refuseIf hazard 8 id i ++
      refuseIf (xOp b ≠ 0 && decide (segAllot g < next.held)) 9 id i ++
      refuseIf (order || (isEnd && (!last || next.held ≠ 0)) || (last && !isEnd)) 10 id i ++
      refuseIf (cOp b = 0x12 && !bundleV b) 13 id i }

/-! ### Banks (code 6) -/

/-- The first phase-3 cycle after an issue cycle (R212). -/
def slsCycle (c : Nat) : Nat := c + 1 + (6 - c % 4) % 4

/-- Two SLS operations use a common bank: runs of 16 words are disjoint only half a turn apart. -/
def banksMeet (a b : Nat) : Bool := (a + 32 - b % 32) % 32 ≠ 16

/-- BANK: an SLS operation meets an earlier one of its run between WAITs in one phase-3 cycle. A WAIT may resume at any phase, so
every phase of a run's start is proved. `run` are the earlier operations (bundle, word) since the last WAIT at `a`. -/
def bankRefuses (g : Bytes) (id : Nat) : Nat → Nat → Nat → List (Nat × Nat) → List Refuse
  | 0, _, _, _ => []
  | fuel + 1, i, a, run =>
    let b := segBundle g i
    let w := lWord b
    let here := slotOp b 2 ≠ 0
    let hit := here && (List.range 4).any (fun ph =>
      run.any (fun r => slsCycle (ph + r.1 - a) = slsCycle (ph + i - a) && banksMeet w r.2))
    let run := (run.filter (fun r => decide (i < r.1 + 4))) ++ (if here then [(i, w)] else [])
    let isWait := cOp b = 0x10
    refuseIf hit 6 id i ++ bankRefuses g id fuel (i + 1) (if isWait then i + 1 else a) (if isWait then [] else run)

/-! ### The figures (code 12) -/

/-- LONGEST_RUN: from each pick point to the next WAIT with NS = 0 or END, both counted (R241). `run` counts since the last. -/
def longestRun (g : Bytes) : Nat → Nat → Nat → Nat → Nat
  | 0, _, _, best => best
  | fuel + 1, i, run, best =>
    let b := segBundle g i
    let run := run + 1
    if (cOp b = 0x10 && !(cImm b).testBit 16) || cOp b = 0x11 then longestRun g fuel (i + 1) 0 (max best run)
    else longestRun g fuel (i + 1) run best

/-- Bundles of a segment by a predicate. -/
def countBundles (g : Bytes) (p : Bytes → Bool) : Nat := ((List.range (segBundles g)).filter (fun i => p (segBundle g i))).length

/-- V-bit census of a segment. -/
def segCensus (g : Bytes) : Nat := countBundles g bundleV

/-- A header's figures differ from those of its bundles. -/
def countsDiffer (g : Bytes) : Bool :=
  segExact g ≠ segBundles g || segLongest g ≠ longestRun g (segBundles g) 0 0 0 ||
  fld g 296 24 ≠ countBundles g (fun b => cOp b = 0x10) || segVcount g ≠ segCensus g

/-! ### A segment -/

/-- Reserved bits and ranges of a segment's header and declarations. -/
def segReserved (g : Bytes) : Bool :=
  fld g 448 32 ≠ 0 || fld g 288 8 ≠ 0 || fld g 240 15 ≠ 0 || fld g 219 9 ≠ 0 || fld g 210 6 ≠ 0 || fld g 64 112 ≠ 0 ||
  fld g 32 16 ≠ 0 || decide (64 < segNbuf g) || decide (256 < segNdesc g) || decide (65536 < segBundles g) ||
  (List.range (segNbuf g)).any (fun k =>
    let r := segBuf g k
    fld (bytesAt g (64 + 8 * k) 8) 0 28 ≠ 0 || decide (3 < r.2.2) || r.2.1 = 0 || decide (49152 < r.2.1))

/-- A descriptor has reserved fields or encodings in both layouts: such a one is refused though no bundle says which it has (R7, R8;
DEDUCED, log 80). -/
def descReserved (g : Bytes) : Bool :=
  (List.range (segNdesc g)).any (fun k => matrixReserved (segDesc g k) && streamReserved (segDesc g k))

/-- What the checker refuses in segment k. -/
def segRefuses (img : Bytes) (k : Nat) : List Refuse :=
  let g := segBytes img k
  let id := segId g
  let fw := imgFrameWords img
  let n := segBundles g
  refuseIf (segReserved g) 2 id ++ refuseIf (n = 0 || segMaxRuns g = 0) 3 id ++
  refuseIf ((List.range (segNbuf g)).any (fun j => decide (fw < (segBuf g j).1 + (segBuf g j).2.1))) 5 id ++
  ((List.range n).foldl (walkBundle g id fw (segXfers g)) {}).out ++
  refuseIf (descReserved g) 2 id ++ bankRefuses g id n 0 0 [] ++ refuseIf (countsDiffer g) 12 id

/-! ### Size (code 14) -/

/-- Entries of bundle memory that lane n of an image takes (R237). -/
def laneEntries (img : Bytes) (n : Nat) : Nat :=
  ((imgRows img).map (fun k =>
    let g := segBytes img k
    if segLane g = n then segBundles g + segNdesc g else 0)).foldl (· + ·) 0

/-- The largest tag allotment of a lane. -/
def laneAllot (img : Bytes) (n : Nat) : Nat :=
  ((imgRows img).map (fun k =>
    let g := segBytes img k
    if segLane g = n then segAllot g else 0)).foldl max 0

/-- What the checker refuses in an image by itself. -/
def imageRefuses (img : Bytes) : List Refuse :=
  let h := headRefuses img
  if !h.isEmpty then h
  else
    progRefuses img ++ (imgRows img).flatMap (segRefuses img) ++
    refuseIf (fld img 448 32 ≠ ((imgRows img).map (fun k => segCensus (segBytes img k))).foldl (· + ·) 0) 12

end Sys2Proof.Machine
end

