-- ==== Sys2Proof/Machine/Sched.lean ====
section
/-! DEFINITION. Programs, frames, the cabinet scheduler, traps, locked runs and spare-tile swaps (chapter 8, R228 to R233, R495,
R496). An event that is not due leaves the state as it is (log 10). -/
namespace Sys2Proof.Machine

/-! ### Loading a program (R236 to R244, R259) -/

/-- Response statuses that a command's failure carries (Table 2.4). -/
def failAccess : Nat := 2
def failState : Nat := 5
def failRefused : Nat := 8

/-- Loaded programs on a cabinet: slot and image. -/
def State.loadedOn (s : State) (k : Nat) : List (Nat × Bytes) :=
  (s.sched.progs.filter (fun p => p.2.state = 2 && (imgPlacement p.2.image).testBit k)).map (fun p => (p.1, p.2.image))

/-- The cabinets of an image's PLACEMENT. -/
def imgCabs (img : Bytes) : List Nat := (List.range 12).filter (fun k => (imgPlacement img).testBit k)

/-- Lane n of an image does not fit in a bundle memory beside the programs loaded (R237). -/
def State.laneFull (s : State) (img : Bytes) (n : Nat) : Bool :=
  (imgCabs img).any (fun k =>
    decide (65536 < laneEntries img n + ((s.loadedOn k).map (fun p => laneEntries p.2 n)).foldl (· + ·) 0))

/-- FRAME_WORDS of a frame's program. -/
def State.frameWords (s : State) (slot : Nat) : Nat := imgFrameWords (s.prog slot).image

/-- The lowest multiple of 32 at which `fw` words fit on a tile position beside the frames placed there: word 0, or the end of
a frame. -/
def lowestFit (used : List (Nat × Nat)) (fw : Nat) : Option Nat :=
  let fits (b : Nat) : Bool := decide (b + fw ≤ scrWords) && used.all (fun u => decide (b + fw ≤ u.1) || decide (u.1 + u.2 ≤ b))
  ((0 :: used.map (fun u => u.1 + u.2)).filter fits).foldl (fun best b =>
    match best with
    | some x => some (min x b)
    | none => some b) none

/-- Place one frame of a program on a cabinet (R244): the lowest free context number, the lowest fit on each used position. -/
def State.placeFrame (s : State) (slot : Nat) (img : Bytes) (idx : Nat) (cab : Cabinet) : Option Cabinet :=
  let fw := imgFrameWords img
  let words (f : FrameSt) : Nat := if f.prog = slot then fw else s.frameWords f.prog
  let allot (f : FrameSt) (n : Nat) : Nat := laneAllot (if f.prog = slot then img else (s.prog f.prog).image) n
  match sfree cab.frames 16 with
  | none => none
  | some cn =>
    let on (n : Nat) : List FrameSt := (cab.frames.filter (fun f => f.2.mask.testBit n)).map (fun f => f.2)
    let bases := (List.range 8).map (fun n =>
      if imgEntry img n = 0xFFFF then some 0xFFFF
      else if 256 < laneAllot img n + ((on n).map (fun f => allot f n)).foldl (· + ·) 0 then none
      else lowestFit ((on n).map (fun f => (f.bases.getD n 0, words f))) fw)
    if bases.any (fun b => b.isNone) then none
    else
      let mask := (imgLanes img).foldl (fun m n => m + 2 ^ n) 0
      some { cab with frames := sput cab.frames cn { prog := slot, idx := idx, mask := mask,
                                                     bases := bases.map (fun b => b.getD 0) } }

/-- Place every frame of a program on a cabinet. -/
def State.placeFrames (s : State) (slot : Nat) (img : Bytes) (cab : Cabinet) : Option Cabinet :=
  (List.range (imgFrames img)).foldl (fun c i => c.bind (s.placeFrame slot img i)) (some cab)

/-- PROG_STORE_CFG (R259). -/
def State.storeBase (s : State) : Nat := s.rdN 0x5000 2 0 8
def State.storeAcid (s : State) : Nat := s.rdN 0x5000 2 8 2 % 4096
def State.storeBytes (s : State) : Nat := 1024 * s.rdN 0x5000 2 12 4

/-- The lowest place for an image in the program store, beside the images stored there: its start, or the end of one (log 16). -/
def State.storeFit (s : State) (n : Nat) : Option Nat :=
  let used := (s.sched.progs.filter (fun p => p.2.state = 2)).map (fun p => (p.2.store, p.2.image.length))
  let fits (b : Nat) : Bool := decide (b + n ≤ s.storeBytes) && used.all (fun u => decide (b + n ≤ u.1) || decide (u.1 + u.2 ≤ b))
  ((0 :: used.map (fun u => u.1 + u.2)).filter fits).foldl (fun best b =>
    match best with
    | some x => some (min x b)
    | none => some b) none

/-- SIZE (code 14): a bundle memory, the frames, contexts or tags of a cabinet, or the program store. -/
def State.sizeRefuses (s : State) (slot : Nat) (img : Bytes) : List Refuse :=
  let full := (List.range 8).filter (fun n => s.laneFull img n)
  (match (imgRows img).find? (fun k => full.contains (segLane (segBytes img k))) with
   | some k => refuseIf true 14 (segId (segBytes img k))
   | none => []) ++
  refuseIf ((imgCabs img).any (fun k => (s.placeFrames slot img (s.cab k)).isNone) || s.storeBytes = 0 ||
    (s.storeFit img.length).isNone) 14

/-- PROG_LOAD starts (R259): the slot is loading. -/
def State.progLoad (s : State) (slot acid addr len : Nat) : State :=
  s.setProg slot { state := 1, acid := acid, addr := addr, len := len }

/-- A load ends without a program: the slot is empty again. -/
def State.loadFails (s : State) (slot code : Nat) : State :=
  ({ s with sched := { s.sched with progs := sdel s.sched.progs slot } }).cmdFail 0x5000 0 code

/-- LOAD_RESULT. -/
def loadResult (slot now : Nat) (r : Refuse) : Bytes :=
  natLe r.code 1 ++ natLe slot 1 ++ natLe r.seg 2 ++ natLe r.bundle 4 ++ natLe now 8 ++ zeros 16

/-- What reading an image came to: its bytes, the offsets of its poisoned lines, and the first error. -/
structure ImageRead where
  bytes  : Bytes := []
  poison : List (Nat × Nat) := []
  err    : VErr := .none
  deriving DecidableEq, Repr

/-- Read an image line by line. -/
def State.readImage (s : State) (acid addr len : Nat) : State × ImageRead :=
  let r := (pieces addr len 64).foldl (fun (acc : State × List Bytes × ImageRead) oc =>
    let (s, bs, im) := acc
    match im.err with
    | .none =>
      let (s, b, p, e) := s.vread .loader .ctl acid (addr + oc.1) oc.2
      (s, b :: bs, { im with poison := if p then im.poison ++ [oc] else im.poison, err := e })
    | _ => acc) (s, [], {})
  (r.1, { r.2.2 with bytes := (r.2.1.reverse).flatten })

/-- POISON (code 15): the segment and the first bundle that a poisoned line holds, where it holds any. -/
def poisonRefuse (img : Bytes) (line : Nat × Nat) : Refuse :=
  let lo := line.1
  let hi := line.1 + line.2
  match (imgRows img).find? (fun k => decide (lo < (segRow img k).1 + (segRow img k).2.1) && decide ((segRow img k).1 < hi)) with
  | none => { code := 15 }
  | some k =>
    let o := (segRow img k).1
    let g := segBytes img k
    let b0 := o + 64 + 8 * segNbuf g + 32 * segNdesc g
    let i := (lo - b0) / 32
    if b0 < hi && i < segBundles g then { code := 15, seg := (segRow img k).2.2, bundle := i }
    else { code := 15, seg := (segRow img k).2.2 }

/-- Copy an image to the program store, which must lie on shelf 1 (R259). -/
def State.storeImage (s : State) (off : Nat) (img : Bytes) : State × VErr :=
  (pieces (s.storeBase + off) img.length 4096).foldl (fun (s, e) oc =>
    match e with
    | .none =>
      let va := s.storeBase + off + oc.1
      match s.xlateNow .ctl s.storeAcid va true with
      | (s, .go (.dev a) _) =>
        if inShelf2 a then (s, .fault 0 0 va)
        else
          let (s, e) := s.writeAt .loader s.storeAcid (.dev a) (bytesAt img oc.1 oc.2)
          (s, vErrOf e va)
      | (s, .fault t l) => (s, .fault t l va)
      | (s, .go _ _) => (s, .fault 0 0 va)
      | (s, _) => (s, .none)
    | _ => (s, e)) (s, VErr.none)

/-- A load ends with status ACCESS; a translation fault is recorded, and a store outside shelf 1 is none (Table 13.6). -/
def State.loadFault (s : State) (slot acid : Nat) (access : Access) (e : VErr) : State :=
  let s := match e with
    | .fault t l va => if t = 0 then s else s.engineFault acid t l va access 6 0
    | _ => s
  s.loadFails slot failAccess

/-- Place each lane of an image in the bundle memories of its cabinets' tiles (R237). -/
def State.fillBundles (s : State) (slot : Nat) (img : Bytes) : State :=
  (imgCabs img).foldl (fun s k =>
    (List.range 8).foldl (fun s n => s.putBundles (s.physOf (8 * k + n)) slot (laneSegs img n)) s) s

/-- PROG_LOAD_DONE (R242): the image is read and proved, copied to the store, and its frames are placed. -/
def State.loadDone (s : State) (slot : Nat) : State :=
  let p := s.prog slot
  let (s, im) := s.readImage p.acid p.addr p.len
  match im.err with
  | .none =>
    let img := im.bytes
    let bad := match im.poison with
      | l :: _ => some (poisonRefuse img l)
      | [] => match firstRefuse (imageRefuses img) with
        | some r => some r
        | none => (s.sizeRefuses slot img).head?
    match bad with
    | some r =>
      let s := s.loadFails slot failRefused
      { s with sched := { s.sched with result := loadResult slot s.now r } }
    | none =>
      let off := (s.storeFit img.length).getD 0
      match s.storeImage off img with
      | (s, .none) =>
        let s := (imgCabs img).foldl (fun s k =>
          match s.placeFrames slot img (s.cab k) with
          | some c => s.setCab k c
          | none => s) s
        let s := (s.fillBundles slot img).setProg slot { p with state := 2, image := img, store := off }
        State.cmdDone { s with sched := { s.sched with result := loadResult slot s.now {} } } 0x5000 0
      | (s, e) => s.loadFault slot s.storeAcid .write e
  | e => s.loadFault slot p.acid .read e

def execProgLoadDone (s : State) : Answer :=
  .next (
    if s.frozen || !s.cmdRunning 0x5000 0 then s
    else match s.sched.progs.find? (fun p => p.2.state = 1) with
      | some p => s.direct (.load p.1) (fun s => s.loadDone p.1)
      | none => s)

/-- PROG_UNLOAD's effect: the slot and its frames are free. -/
def State.progUnload (s : State) (slot : Nat) : State :=
  let cabs := s.sched.cabs.map (fun k => (k.1, { k.2 with frames := k.2.frames.filter (fun f => f.2.prog ≠ slot) }))
  let s := (s.tiles.bundles.map (fun p => p.1)).foldl (fun s p => s.putBundles p slot []) s
  { s with sched := { s.sched with progs := sdel s.sched.progs slot, cabs := cabs.filter (fun k => k.2 ≠ ({} : Cabinet)) } }

/-! ### Cabinets -/

/-- Nothing is left on a cabinet: no request queued or bound, no context resident, no trap (R232). -/
def State.cabDrained (s : State) (k : Nat) : Bool :=
  (s.cab k).dispatch.isEmpty && (s.cab k).frames.all (fun f => f.2.req.isNone) &&
  s.tiles.tile.all (fun t => cabOf t.1 ≠ k || (t.2.trap.phase = 0 && t.2.ctxs.all (fun c => c.2.phase = 0)))

/-! ### Locked runs (R254 to R256) -/

/-- LOCK_RUN starts: the cabinet drains. -/
def State.lockRun (s : State) (slot cab acid input output : Nat) : State :=
  let s := s.setCab cab { s.cab cab with locked := true }
  { s with sched := { s.sched with lock := { phase := 1, state := 1, prog := slot, cab := cab, acid := acid, input := input,
                                             output := output } } }

/-- The locked run ends: LOCK_RESULT, and the cabinet resumes. -/
def State.lockOver (s : State) (ok : Bool) (status sig cycles choices : Nat) : State :=
  let l := s.sched.lock
  let s := s.setCab l.cab { s.cab l.cab with locked := false }
  let s := { s with sched := { s.sched with
    lock := { l with phase := 0, state := if ok then 2 else 3, status := status, sig := sig, cycles := cycles,
                     choices := choices, endAt := s.now } } }
  if ok then s.cmdDone 0x5A00 0 else s.cmdFail 0x5A00 0 failState

/-- Read a frame's staged input; none where it does not lie on shelves 1 and 2. -/
def State.readInput (s : State) (acid va n : Nat) : State × Option Bytes :=
  (pieces va n 4096).foldl (fun (s, b) oc =>
    match b with
    | none => (s, none)
    | some b =>
      match s.xlateNow .ctl acid (va + oc.1) false with
      | (s, .go (.dev a) _) =>
        let (s, d, p, e) := s.readAt .loader acid (.dev a) oc.2
        (s, if p || e ≠ .none then none else some (b ++ d))
      | (s, .go _ _) => (s, none)
      | (s, .fault t l) => (s.engineFault acid t l (va + oc.1) .read 6 0, none)
      | (s, _) => (s, some b)) (s, some [])

/-- Frame 0 of each used lane takes its input; whether every input could be read. -/
def State.lockInputs (s : State) (f : FrameSt) : State × Bool :=
  let l := s.sched.lock
  let fw := imgFrameWords (s.prog l.prog).image
  f.lanes.foldl (fun (s, ok) n =>
    if !ok then (s, false)
    else
      match s.readInput l.acid (l.input + n * fw * 64) (fw * 64) with
      | (s, some b) =>
        let t := 8 * l.cab + n
        (s.setTile t ((s.tile t).scrWrite (64 * f.bases.getD n 0) b), true)
      | (s, none) => (s, false)) (s, true)

/-- The one request of a locked run, admitted and bound. -/
def State.lockAdmit (s : State) (r cn : Nat) (f : FrameSt) : State :=
  let l := s.sched.lock
  let img := (s.prog l.prog).image
  let g := s.epm.gen
  let s := { s with epm := { s.epm with readers := sset 0 s.epm.readers (g % 16) (sget 0 s.epm.readers (g % 16) + 1) } }
  let s := s.setReq r { q := 0xFF, prog := l.prog, cab := l.cab, acid := l.acid, admitAt := s.now, order := r,
                        snapshot := g, phase := 1, counted := true, locked := true }
  let s := (s.bindTo r cn f).cabCount l.cab 0
  let runs := f.lanes.foldl (fun m n => sput m (imgEntry img n) (sget 0 m (imgEntry img n) + 1)) ([] : SMap Nat)
  s.setReq r { s.req r with phase := 3, recVa := 0, runs := runs }

/-- The drained cabinet starts the one request of a locked run: frame 0 of each used lane takes its input. -/
def State.lockBegin (s : State) : State :=
  let l := s.sched.lock
  match s.freeFrame l.cab l.prog with
  | none => s
  | some (cn, f) =>
    match s.lockInputs f with
    | (s, false) => s.lockOver false (Config.lockStatus 2).toNat 0 0 0
    | (s, true) =>
      let (r, s) := s.newReq
      let s := s.lockAdmit r cn f
      let s := (f.lanes.foldl (fun s n => s.gateCtx (8 * l.cab + n) cn) s).bindStuck r
      { s with sched := { s.sched with lock := { s.sched.lock with phase := 2, req := r, choices := 0 } } }

/-- REQUEST_BIND (R246): on a cabinet that a locked run holds, its one request, once the cabinet has drained. -/
def execRequestBind (cab : Fin 12) (prog : Fin 64) (s : State) : Answer :=
  .next (
    let l := s.sched.lock
    if s.frozen || sget 0 s.pcs.cabLevel cab ≠ 0 then s
    else if l.phase = 1 && l.cab = cab.val && l.prog = prog.val && s.cabDrained cab then s.direct .lock State.lockBegin
    else s.direct (.bind cab) (fun s => s.bindNext cab prog))

/-- The OUTPUT bytes of a locked run: each lane's final segment's OUTPUT buffers, in lane and declaration order. -/
def State.lockOutput (s : State) : Bytes :=
  let l := s.sched.lock
  let img := (s.prog l.prog).image
  match (s.cab l.cab).frames.find? (fun f => f.2.prog = l.prog && f.2.idx = 0) with
  | none => []
  | some (_, f) =>
    f.lanes.flatMap (fun n =>
      match segFind img (sget 0 l.finalSeg n) with
      | none => []
      | some g =>
        (List.range (segNbuf g)).flatMap (fun j =>
          let b := segBuf g j
          if b.2.2 = 3 then (s.tile (8 * l.cab + n)).scrRead (f.bases.getD n 0 + b.1) (64 * b.2.1) else []))

/-- LOCK_RUN_END (R255, R256): the run's request has ended. A run without a cause writes its output; timing-exact, its cycles
are the longest lane's sum, else those that the GTC count gives. -/
def State.lockEnd (s : State) : State :=
  let l := s.sched.lock
  let choices := l.choices
  let lanes := (l.laneCyc.map (fun p => p.2)).foldl max 0
  let cycles := if choices = 0 then lanes else (l.ended - l.begun.getD l.ended) / 1000000000
  let st := (s.req l.req).status
  let s' := s.endReq l.req
  if l.failed || st ≠ stOk then s'.lockOver false st 0 cycles choices
  else
    let b := s.lockOutput
    match s'.vwrite .loader .ctl l.acid l.output b with
    | (s, .none) => s.lockOver true st (crc32c b) cycles choices
    | (s, .fault t lv va) => (s.engineFault l.acid t lv va .write 6 0).lockOver false st 0 cycles choices
    | (s, _) => s.lockOver false st 0 cycles choices

def execLockRunEnd (s : State) : Answer :=
  .next (
    let l := s.sched.lock
    if !s.frozen && l.phase = 2 && (s.req l.req).phase = 5 then s.direct .lock State.lockEnd else s)

/-! ### Picks (R250) -/

/-- The first of two ready contexts in the order of R250: class priority, admission, context number. -/
def State.before (s : State) (a b : Nat × Ctx) : Bool :=
  let p := s.req a.2.req
  let q := s.req b.2.req
  if p.prio ≠ q.prio then decide (q.prio < p.prio)
  else if p.order ≠ q.order then decide (p.order < q.order)
  else decide (a.1 < b.1)

/-- The ready contexts of a tile. -/
def Tile.ready (y : Tile) : List (Nat × Ctx) := y.ctxs.filter (fun c => decide (c.1 < 16) && c.2.phase = 2)

/-- The context that the scheduler picks. -/
def State.pickOf (s : State) (t : Nat) : Option (Nat × Ctx) :=
  (s.tile t).ready.foldl (fun best c =>
    match best with
    | none => some c
    | some b => if s.before c b then some c else some b) none

/-- A segment starts (R247): SEG_STARTS, a wait for its GATE is a timing choice, and a locked run adds its exact cycles. -/
def State.segStart (s : State) (t c : Nat) (g : Bytes) : State :=
  let y := s.tile t
  let x := y.ctx c
  let s := s.setTile t (y.setCtx c { x with started := true, gated := false })
  let s := s.cabCount (cabOf t) 1
  let s := if x.gated then s.choice t else s
  let l := s.sched.lock
  if l.phase = 2 && l.req = x.req then
    { s with sched := { s.sched with lock := { l with
      laneCyc := sput l.laneCyc (t % 8) (sget 0 l.laneCyc (t % 8) + 24 + segExact g),
      begun := some (l.begun.getD s.arithTicks) } } }
  else s

/-- CONTEXT_PICK: the tile idles and a context is ready. -/
def State.pick (s : State) (t : Nat) : State :=
  let y := s.tile t
  if y.active.isSome || y.trap.phase ≠ 0 || y.resetting then s
  else
    match s.pickOf t with
    | none => s
    | some (c, x) =>
      match s.ctxSeg t x with
      | none => s
      | some g =>
        let many := decide (2 ≤ y.ready.length)
        let s := s.setTile t ((y.setCtx c { x with phase := 3 }).take (s.tileTicks t) c)
        let s := (s.cabCount (cabOf t) 2).tileCount t 1
        let s := if many then s.choice t else s
        let s := if x.started then s else s.segStart t c g
        s.skipNops t c g (segBundles g)

/-- CONTEXT_PICK (R250), with what the bundle memory showed: an uncorrectable error fires BUNDLE_UE (R501). -/
def execContextPick (tile : Fin 96) (found : Ecc) (s : State) : Answer :=
  .next (
    if s.frozen then s
    else match found with
      | .uncorrectable =>
        s.fireWith id (fun s => s.tileReset tile) id uTile tile 3 { mUnit := uTile, mNum := tile.val }
      | .corrected => (s.fire uTile tile 0 { mUnit := uTile, mNum := tile.val }).pick tile
      | .clean => s.pick tile)

/-! ### END (R247, R248) and the end of a trap (R496) -/

/-- A lane's next segment may follow: it exists in the lane, is no trap segment, and has a run left. -/
def State.nextOk (s : State) (r t id : Nat) : Bool :=
  let q := s.req r
  match segFind (s.prog q.prog).image id with
  | none => false
  | some g => segLane g = t % 8 && !segTrap g && decide (sget 0 q.runs id + 1 ≤ segMaxRuns g)

/-- RELEASE: bit n adds one to the release count of lane n, which saturates at 255. -/
def State.release (s : State) (r mask : Nat) : State :=
  let q := s.req r
  let m := (List.range 8).foldl (fun m n => if mask.testBit n then sset 0 m n (min 255 (sget 0 m n + 1)) else m) q.releases
  if (sfind s.sqe.reqs r).isSome then s.setReq r { q with releases := m } else s

/-- The lanes of a request that wait for a gate are looked at again. -/
def State.regate (s : State) (r : Nat) : State :=
  let q := s.req r
  ((List.range 8).filter (fun n => q.lanes.testBit n)).foldl (fun s n =>
    let t := 8 * q.cab + n
    let x := (s.tile t).ctx q.ctx
    if x.phase = 1 && x.req = r then s.gateCtx t q.ctx else s) s

/-- The END of a lane's segment. -/
def State.endLane (s : State) (a : Act) (imm : Nat) (pos : Option (Nat × Nat × Nat)) : State :=
  let t := a.t
  let r := a.x.req
  let s := (s.resvSwitch t a.c)
  let s := s.setTile t ((s.tile t).rest (s.tileTicks t))
  let s := s.release r (imm / 2 % 256)
  let y := s.tile t
  let x := y.ctx a.c
  let s :=
    if imm % 2 = 1 then
      let s := s.setTile t (y.setCtx a.c { x with phase := 5 })
      let q := s.req r
      let s := s.setReq r { q with finals := q.finals ||| 2 ^ (t % 8) }
      let l := s.sched.lock
      if l.phase = 2 && l.req = r then
        let l := { l with finalSeg := sset 0 l.finalSeg (t % 8) a.x.seg, ended := s.arithTicks }
        { s with sched := { s.sched with lock := l } }
      else s
    else
      let id := a.xa.toNat % 4096
      if s.nextOk r t id then
        let s := s.setTile t (y.setCtx a.c { x with seg := id, bundle := 0, started := false, gated := false, phase := 1 })
        let q := s.req r
        (s.setReq r { q with runs := sput q.runs id (sget 0 q.runs id + 1) }).gateCtx t a.c
      else s.badSegment r t pos
  let s := if (s.req r).ending then s else s.regate r
  if !(s.req r).ending && s.stuck r then s.badSegment r t pos else s

/-- The trap segment's END: with FINAL = 1 the stopped context's task ends with TRAPPED; otherwise the context is ready at its
stop position, which counts as a timing choice. A context whose task has a cause ends. -/
def State.endTrap (s : State) (t : Nat) (final : Bool) : State :=
  let y := s.tile t
  let k := y.ctx 16
  let held := y.trap.stopped
  let y := { (y.setCtx 16 { k with phase := 0, slots := 0, waits := [] }).rest (s.tileTicks t) with trap := {} }
  let s := s.setTile t y
  match held with
  | none => s
  | some c =>
    let x := y.ctx c
    if x.phase ≠ 3 then s
    else if final then s.endTask x.req stTrapped t (some (t, c, x.lastSeq))
    else (s.setTile t (y.setCtx c { x with phase := 2 })).choice t

/-- END (R247): not due while an operation of the context runs (R225). -/
def State.endSeg (s : State) (t : Nat) : State :=
  s.onSlot t 4 [0x11] (fun a =>
    let y := s.tile t
    if (y.mxu.any (fun o => o.ctx = a.c)) || (y.conv.any (fun o => o.ctx = a.c)) then s
    else
      let pos := s.posOf a
      let s := s.issued a 4 a.x
      if a.c = 16 then s.endTrap t (cImm a.b % 2 = 1)
      else if (s.req a.x.req).ending then s
      else s.endLane a (cImm a.b) pos)

def execEndSeg (tile : Fin 96) (s : State) : Answer := .next (s.endSeg tile)

/-! ### The release of a context (R229) -/

/-- CONTEXT_RELEASE: the context of a task that ends, once no transfer, store or operation of it is left and no trap holds it. -/
def State.ctxRelease (s : State) (t c : Nat) : State :=
  let s := s.prune t
  let y := s.tile t
  let x := y.ctx c
  if x.phase = 5 && decide (c < 16) && (s.req x.req).ending && y.xfers.all (fun p => p.2.ctx ≠ c) &&
      y.tracker.all (fun k => k.ctx ≠ c) && y.mxu.all (fun o => o.ctx ≠ c) && y.conv.all (fun o => o.ctx ≠ c) &&
      y.active ≠ some c && y.trap.stopped ≠ some c then
    s.setTile t { y with ctxs := sdel y.ctxs c }
  else s

def execContextRelease (tile : Fin 96) (ctx : Fin 17) (s : State) : Answer :=
  .next (if s.frozen then s else s.ctxRelease tile ctx)

/-! ### Traps (R230) -/

/-- The program and frame in which a trap runs: those of the stopped context, or of context 0. -/
def State.trapHome (s : State) (t : Nat) : Option (Nat × Nat × Nat) :=
  let y := s.tile t
  match y.active with
  | some c => some ((y.ctx c).prog, c, (y.ctx c).req)
  | none => (sfind (s.cab (cabOf t)).frames 0).map (fun f => (f.prog, 0, f.req.getD 0))

/-- TRAP_START: the tile has stopped at a bundle boundary and its MXU and converter are idle. -/
def State.trapStart (s : State) (t : Nat) : State :=
  let y := s.tile t
  let whole := match y.active with
    | some c => (y.ctx c).slots = 0
    | none => true
  if y.trap.phase ≠ 1 || y.resetting || !whole || y.mxu.isSome || y.conv.isSome then s
  else
    match s.trapHome t with
    | none => (s.setTile t { y with trap := {} }).goOn t
    | some (p, frame, r) =>
      let k := y.ctx 16
      let seg := imgTrapSeg (s.prog p).image
      let held := y.active
      let y := y.setCtx 16 { k with phase := 3, req := r, seg := seg, bundle := 0, slots := 0, waits := [], prog := p, frame := frame }
      let y := { y.take (s.tileTicks t) 16 with
                        trap := { y.trap with phase := 2, stopped := held, bundle := (y.ctx frame).bundle } }
      let s := (s.setTile t y).tileCount t 5
      match s.ctxSeg t (y.ctx 16) with
      | some g => s.skipNops t 16 g (segBundles g)
      | none => s

def execTrapStart (tile : Fin 96) (s : State) : Answer := .next (if s.frozen then s else s.trapStart tile)

/-! ### Spare tiles (R231 to R233) -/

/-- SPARE_STATE of spare k: low byte 0 FREE, 1 IN_USE, 2 FAILED; high byte its logical tile. -/
def State.spareOf (s : State) (k : Nat) : Nat := sget 0xFF00 s.tiles.spare k

def State.setSpare (s : State) (k v : Nat) : State :=
  { s with tiles := { s.tiles with spare := sset 0xFF00 s.tiles.spare k v } }

/-- TILE_SWAP starts: the cabinet drains, and the spare runs its check. -/
def State.swapStart (s : State) (t spare : Nat) : State :=
  let k := cabOf t
  let s := s.setCab k { s.cab k with draining := true }
  { s with tiles := { s.tiles with swap := { running := true, tile := t, spare := spare, old := s.physOf t } } }

/-- A swap ends without a remap. -/
def State.swapFails (s : State) (cause : Nat) : State :=
  let w := s.tiles.swap
  let k := cabOf w.tile
  let s := s.setCab k { s.cab k with draining := false }
  let s := { s with tiles := { s.tiles with swap := { w with running := false, state := 5, cause := cause, ended := s.now } } }
  s.cmdFail 0x5700 0 failState

/-- SPARE_CHECK_END (R233): a spare that fails its check ends the swap. -/
def execSpareCheckEnd (pass : Bool) (s : State) : Answer :=
  .next (
    let w := s.tiles.swap
    if s.frozen || !w.running || w.checked then s
    else if pass then { s with tiles := { s.tiles with swap := { w with checked := true } } }
    else (s.setSpare (w.spare - 96) 0xFF02).swapFails 1)

/-- A cabinet tile stands on a physical tile that failed its check. -/
def State.failedIn (s : State) (k : Nat) : Bool := (List.range 8).any (fun i => s.tiles.failed.contains (s.physOf (8 * k + i)))

/-- The stored image of a program, read from the program store; a line that cannot be read keeps the bytes that were proved at the load
(log 94). -/
def State.storeRead (s : State) (slot : Nat) : State × Bytes :=
  let p := s.prog slot
  let r := (pieces (s.storeBase + p.store) p.image.length 64).foldl (fun (acc : State × List Bytes) oc =>
    let old := bytesAt p.image oc.1 oc.2
    match acc.1.xlateNow .ctl acc.1.storeAcid (s.storeBase + p.store + oc.1) false with
    | (s, .go (.dev a) _) =>
      let (s, b, bad, e) := s.devRead .loader s.storeAcid a oc.2
      (s, (if bad || e ≠ .none then old else b) :: acc.2)
    | (s, _) => (s, old :: acc.2)) (s, [])
  (r.1, (r.2.reverse).flatten)

/-- Before the remap, the spare's bundle memory is filled from the program store; that of the old tile goes with its power (R237). -/
def State.swapFill (s : State) : State :=
  let w := s.tiles.swap
  let s := (s.loadedOn (cabOf w.tile)).foldl (fun s p =>
    let (s, img) := s.storeRead p.1
    s.putBundles w.spare p.1 (laneSegs img (w.tile % 8))) s
  { s with tiles := { s.tiles with bundles := sdel s.tiles.bundles w.old } }

/-- SWAP_REMAP (R232): drain and check have ended. The cabinet position switches to the spare, whose scratch is clear; histograms and
counters, which are kept by logical tile, go on. A cabinet that a FAILED tile kept out serves again when none is left. -/
def State.swapRemap (s : State) : State :=
  let w := s.tiles.swap
  let k := cabOf w.tile
  let y := s.tile w.tile
  let bad := s.failedIn k
  let s := s.setTile w.tile { y with scr := [], scrPoison := [] }
  let s := s.setSpare (w.spare - 96) (1 + 256 * w.tile)
  let s := if 96 ≤ w.old then (s.setSpare (w.old - 96) 0xFF02).railTell (w.old - 84) 1 else s
  let s := { s with tiles := { s.tiles with phys := sput s.tiles.phys w.tile w.spare,
                                            swap := { w with running := false, state := 4, ended := s.now } } }
  let c := s.cab k
  let s := s.setCab k { c with draining := false, out := c.out && !(bad && !s.failedIn k && sget 0 s.pcs.railReq k = 0) }
  s.cmdDone 0x5700 0

def execSwapRemap (s : State) : Answer :=
  .next (
    let w := s.tiles.swap
    if !s.frozen && w.running && w.checked && s.cabDrained (cabOf w.tile) then s.direct .swap (fun s => s.swapFill.swapRemap) else s)

end Sys2Proof.Machine
end

