-- ==== Sys2Proof/Machine/Fabric.lean ====
section
/-! DEFINITION. The Golo fabric's ports and router (chapter 15, R421 to R447, R454 to R456): flits and retry, lanes, routing and
failover, inbound windows, management broadcasts, hot-plug. -/
namespace Sys2Proof.Machine

/-! ### Ports -/

/-- The index of port p's object. -/
def fportIx (p : Nat) : Nat := 0x8100 + 0x100 * p

/-- PORT_COUNTS: 0 FLITS_SENT, 1 REPLAYS, 2 NAKS, 3 RETRAINS, 4 DOWNS, 5 LANE_SWAPS, 6 CORRECTED_SYMBOLS, 7 CREDIT_STALLS. -/
def State.fportCount (s : State) (p k : Nat) (n : Nat := 1) : State := s.bump (fportIx p) 2 k n

/-- A port's states (R458): DISABLED, POWERING, TRAINING, UP, RETRAIN, DOWN. -/
def fpDisabled : Nat := 0
def fpPowering : Nat := 1
def fpTraining : Nat := 2
def fpUp : Nat := 3
def fpRetrain : Nat := 4
def fpDown : Nat := 5

def State.fup (s : State) (p : Nat) : Bool := (s.fport p).state = fpUp

/-- PORT_CFG and GFR_CFG (R458). -/
def State.fcfg (s : State) (p off n : Nat) : Nat := s.rdN (fportIx p) 0 off n
def State.fenabled (s : State) (p : Nat) : Bool := (s.fcfg p 0 1).testBit 0
def State.fdateline (s : State) (p : Nat) : Bool := (s.fcfg p 0 1).testBit 1
def State.timeRole (s : State) (p : Nat) : Nat := s.fcfg p 0 1 / 4 % 4
def State.hopWc (s : State) : Nat := s.rdN 0x8000 1 0 4
def State.failHold (s : State) : Nat := 1000 * s.rdN 0x8000 1 4 2
def State.lqTimeout (s : State) : Nat := 1000 * s.rdN 0x8000 1 6 2
def State.retrainLimit (s : State) : Nat := 1000 * s.rdN 0x8000 1 8 4

/-- HP_CTL (R458). -/
def State.hpCtl (s : State) (p : Nat) : Nat := s.rdN (fportIx p) 4 0 1

/-- The first-error fields of a port. -/
def portHit (p : Nat) : Hit := { mUnit := uFab, mNum := p }

/-- A port changes its state. -/
def State.setFstate (s : State) (p st : Nat) : State := s.setFport p { s.fport p with state := st, changed := s.now }

/-! ### FPx (R433, R437, R456) -/

/-- A route entry (Table 15.5). -/
def rtPrefix (b : Bytes) : Nat := fld b 48 16
def rtLen (b : Bytes) : Nat := fld b 43 5
def rtPrimary (b : Bytes) : Nat := fld b 40 3
def rtAlternate (b : Bytes) : Nat := fld b 37 3
def rtAltValid (b : Bytes) : Bool := bit b 36
def rtClearDl (b : Bytes) : Bool := bit b 35
def rtValid (b : Bytes) : Bool := bit b 34

/-- The entries that have been written. An unwritten one is not VALID. -/
def State.routes (s : State) : List (Nat × Bytes) :=
  s.ods.store.filterMap (fun kv =>
    if 0x800100 ≤ kv.1 && kv.1 < 0x801100 && rtValid kv.2 then some (kv.1 - 0x800100, kv.2) else none)

/-- A port goes DOWN (event FPx): its FPx entries are default, its credits and lane map clear; where its link was up, its entries are
held and LINK_QUERY is sent to the neighbour. -/
def State.fpx (s : State) (p : Nat) : State :=
  let x := s.fport p
  let s := s.resetClass (fun r => r = .fp p)
  if x.state = fpDisabled || x.state = fpDown then s.setFport p { x with hopMax := 0 }
  else
    let was := x.state = fpUp || x.state = fpRetrain
    let y : FabPort := { x with state := fpDown, changed := s.now, spare := none, failed := false, laneErr := [], spent := [], owed := [],
                                hopMax := 0, rxSince := 0, replays := 0 }
    let y := if was then { y with holdTill := some (s.now + s.failHold), query := 1, queryAt := s.now } else y
    let s := ((s.setFport p y).fportCount p 4).fire uFab p 0 (portHit p)
    if was then
      let s := if s.routes.any (fun r => rtPrimary r.2 = p) then s.gfrCount 5 else s
      s.unicast (BitVec.ofNat 16 x.nbrNode) 3 (natLe x.nbrPort 1)
    else s

/-- PORT_DOWN. -/
def execPortDown (port : Fin 6) (s : State) : Answer := .next (s.fpx port)

/-! ### Credits and sending (R429 to R432) -/

/-- The port returns no request credits while a pushdown part that came on it waits for the full inbound queue (R443). -/
def State.withholds (s : State) (p : Nat) : Bool :=
  decide (256 ≤ s.fab.pdIn.length) && s.fab.msgs.any (fun w => w.2.src = some p && w.2.msg.op = 5 && w.2.msg.dst = s.node)

/-- The credits that the next flit returns: two classes, at most 511 units each. -/
def State.creditsOut (s : State) (p : Nat) : List (Nat × Nat) :=
  let held := s.withholds p
  (((s.fport p).owed.filter (fun c => !(held && (c.1 = 1 || c.1 = 2)))).take 2).map (fun c => (c.1, min 511 c.2))

/-- Those credits are returned. -/
def FabPort.returned (x : FabPort) (l : List (Nat × Nat)) : FabPort :=
  { x with owed := l.foldl (fun m c => sset 0 m c.1 (sget 0 m c.1 - c.2)) x.owed, rxSince := 0 }

/-- Flits in flight unacknowledged. -/
def FabPort.inFlight (x : FabPort) : Nat := (4096 + x.txSeq - x.txAck) % 4096

/-- The port has credits and replay room for a message. -/
def State.hasRoom (s : State) (p : Nat) (m : FabMsg) : Bool :=
  let x := s.fport p
  decide (sget 0 x.spent m.cls + m.units ≤ clsBuffer m.cls) && decide (x.inFlight + m.flits ≤ 512)

/-- Send a message on a port; `dl` is the class in which it came. -/
def State.portSend (s : State) (p : Nat) (m : FabMsg) (dl : Bool) : State :=
  let x := s.fport p
  let seq := (x.txSeq + m.flits) % 4096
  let cr := s.creditsOut p
  let y := { x with txSeq := seq, ackAt := if x.txSeq = x.txAck then s.now else x.ackAt,
                    replay := x.replay ++ [({ seq := seq, flits := m.flits, dl := dl, msg := m } : Sent)],
                    spent := sset 0 x.spent m.cls (sget 0 x.spent m.cls + m.units) }
  ((s.setFport p (y.returned cr)).fportCount p 0 m.flits).emit (.fabSend p seq x.rxSeq cr m)

/-- Send the unacknowledged messages again from a SEQ on (R432). -/
def State.resend (s : State) (p from_ : Nat) : State :=
  let x := s.fport p
  let l := x.replay.filter (fun r => decide ((4096 + r.seq - from_) % 4096 ≤ 2048) && r.seq ≠ from_)
  l.foldl (fun s r => (s.fportCount p 0 r.flits).emit (.fabSend p r.seq x.rxSeq [] r.msg)) s

/-! ### Lanes (R434) -/

/-- A lane's place is taken by the spare. -/
def State.laneSwap (s : State) (p lane : Nat) (failed : Bool) : State :=
  let x := s.fport p
  let s := s.setFport p { x with spare := some lane, failed := failed, laneErr := sdel x.laneErr lane }
  ((s.fportCount p 5).fire uFab p 1 (portHit p)).emit (.laneSwap p lane)

/-- Corrected symbols of a flit: a lane whose symbols within one second exceed LANE_CE_LIMIT is spared. -/
def State.laneErrors (s : State) (p : Nat) (lanes : List Nat) : State :=
  let s := if lanes.isEmpty then s else s.fportCount p 6 lanes.length
  lanes.foldl (fun s n =>
    let x := s.fport p
    if x.spare = some n then s
    else
      let times := ((sget [] x.laneErr n).filter (fun t => since s.now t < 1000000000)) ++ [s.now]
      let s := s.setFport p { x with laneErr := sset [] x.laneErr n times }
      if s.fcfg p 2 2 < times.length && x.spare.isNone then s.laneSwap p n true else s) s

/-- LANE_LOSS_OF_LOCK: the spare takes over, or the port goes DOWN. -/
def State.laneLost (s : State) (p lane : Nat) : State :=
  let x := s.fport p
  if x.state ≠ fpUp && x.state ≠ fpRetrain then s
  else if x.spare.isNone then s.laneSwap p lane true
  else s.fpx p

def execLaneLossOfLock (port : Fin 6) (lane : Fin 8) (s : State) : Answer := .next (s.laneLost port lane)

/-- LANE_RECAL_DUE: each active lane goes to the spare and back. -/
def State.laneRecal (s : State) (p : Nat) : State :=
  let x := s.fport p
  if x.state = fpUp && x.spare.isNone && decide (1000000000 * s.fcfg p 4 4 ≤ since s.now x.recalAt) then
    (s.setFport p { x with recalAt := s.now }).fportCount p 5 16
  else s

def execLaneRecalDue (port : Fin 6) (s : State) : Answer := .next (s.laneRecal port)

/-! ### Receiving (R432) -/

/-- A SEQ lies after `a` and not after `b`. -/
def seqIn (a b x : Nat) : Bool := decide ((4096 + x - a) % 4096 ≤ (4096 + b - a) % 4096) && x ≠ a

/-- An ACK frees the replay buffer. -/
def FabPort.acked (x : FabPort) (ack now : Nat) : FabPort :=
  if seqIn x.txAck x.txSeq ack then
    { x with replay := x.replay.filter (fun r => !seqIn x.txAck ack r.seq), txAck := ack, ackAt := now, replays := 0 }
  else x

/-- Credits come back. -/
def FabPort.credited (x : FabPort) (c n : Nat) : FabPort :=
  if c = 0 then x else { x with spent := sset 0 x.spent c (sget 0 x.spent c - n) }

end Sys2Proof.Machine
namespace Sys2Proof
open Sys2Proof.Machine
/-- The subtype of a management message. -/
def FabMsg.subtype (m : FabMsg) : Nat := m.addr.toNat / 2 ^ 40
end Sys2Proof
namespace Sys2Proof.Machine

/-- A message ends in a flit: it waits at the router. TIME messages, broadcasts and management messages for this device are the business
of their own commands: they are consumed here, and an unknown SUBTYPE is dropped. -/
def State.msgArrive (s : State) (p : Nat) (m : FabMsg) : State :=
  let op := m.op.toNat
  let mine := op = 0xE && m.dst = s.node
  if mine || op = 0xF || (decide (0xB ≤ op) && decide (op ≤ 0xD)) then
    let x := s.fport p
    let s := s.setFport p { x with owed := sset 0 x.owed m.cls (sget 0 x.owed m.cls + m.units) }
    if mine && !(decide (1 ≤ m.subtype) && decide (m.subtype ≤ 4)) then s.gfrCount 4 else s
  else s.toRouter m (some p)

/-- A flit is taken: its ACK and credits, its NAK, its messages. -/
def State.flitTake (s : State) (p : Nat) (f : Flit) : State :=
  let kind := f.kind.toNat
  let x := (s.fport p).acked f.ack.toNat s.now
  let x := (x.credited f.craVc.toNat f.cra).credited f.crbVc.toNat f.crb
  let x := if kind = 0 then
      { x with rxSeq := f.seq.toNat, rxEnd := if f.msgs.isEmpty then x.rxEnd else f.seq.toNat, rxSince := x.rxSince + 1,
               rxAt := if x.rxSince = 0 then s.now else x.rxAt }
    else x
  let s := s.setFport p x
  if kind = 2 then
    ((s.setFport p { x with replays := x.replays + 1 }).fportCount p 1).resend p f.ack.toNat
  else if kind = 0 then f.msgs.foldl (fun s m => s.msgArrive p m) s
  else s

/-- FLIT_RECEIVE: a flit that fails is discarded with every later one, and a NAK names the last good SEQ. -/
def State.flitReceive (s : State) (p : Nat) (f : Flit) (found : Ecc) : State :=
  let x := s.fport p
  if x.state ≠ fpUp then s
  else if found = .uncorrectable then s.fireWith id (fun s => s.fpx p) id uFab p 5 (portHit p)
  else if !f.ok then (s.fportCount p 2).emit (.flitNak p x.rxSeq)
  else
    let kind := f.kind.toNat
    let inOrder := if kind = 0 then f.seq.toNat = (x.rxSeq + 1) % 4096 else kind = 2 || kind = 3 || f.seq.toNat = x.rxSeq
    if inOrder then (s.laneErrors p (f.corrected.map (fun n => n.val))).flitTake p f else s

def execFlitReceive (port : Fin 6) (flit : Flit) (found : Ecc) (s : State) : Answer := .next (s.flitReceive port flit found)

/-- FLIT_ACK_DUE: 32 flits or 100 ns after a flit was accepted; credits go with it, or alone. -/
def State.ackDue (s : State) (p : Nat) : State :=
  let x := s.fport p
  let due := x.rxSince ≠ 0 && (decide (32 ≤ x.rxSince) || decide (100 ≤ since s.now x.rxAt))
  let cr := s.creditsOut p
  if x.state = fpUp && (due || !cr.isEmpty) then (s.setFport p (x.returned cr)).emit (.flitAck p x.rxSeq cr) else s

def execFlitAckDue (port : Fin 6) (s : State) : Answer := .next (s.ackDue port)

/-- LINK_RETRAIN (R433). -/
def State.linkRetrain (s : State) (p : Nat) : State :=
  let x := s.fport p
  if x.state = fpUp && (decide (16 ≤ x.replays) || (x.inFlight ≠ 0 && decide (10000 ≤ since s.now x.ackAt))) then
    ((s.setFport p { x with retrainAt := s.now }).setFstate p fpRetrain).fportCount p 3
  else s

def execLinkRetrain (port : Fin 6) (s : State) : Answer := .next (s.linkRetrain port)

/-- RETRAIN_LIMIT_EXPIRY (R433). -/
def execRetrainLimitExpiry (port : Fin 6) (s : State) : Answer :=
  .next (
    let x := s.fport port
    if x.state = fpRetrain && decide (s.retrainLimit ≤ since s.now x.retrainAt) then s.fpx port else s)

/-- PWR_LED of a port (R454, R455): as PWR_IND says, and blinking from PWR_CTL until the port is UP. -/
def State.ledOn (s : State) (p : Nat) : State :=
  let v := s.hpCtl p
  s.emit (.pin "PWR_LED" (4 * p + (if v.testBit 0 && !s.fup p then 2 else v / 2 % 4)))

/-- PORT_TRAINED: a retrained link replays from the acknowledged SEQ; a link that comes up afresh starts with full credits, and its
entries return after the hold. -/
def State.portTrained (s : State) (p node nport delay : Nat) : State :=
  let x := s.fport p
  if x.state = fpRetrain then
    let s := (s.setFport p { x with replays := 0, ackAt := s.now }).setFstate p fpUp
    s.resend p x.txAck
  else if (x.state = fpTraining || x.state = fpDown) && s.fenabled p && x.pwren && x.holdTill.isNone then
    State.ledOn (s.setFport p { x with
      state := fpUp, changed := s.now, nbrNode := node, nbrPort := nport, delay := delay, spare := none, failed := false, txSeq := 0xFFF,
      txAck := 0xFFF, ackAt := s.now, rxSeq := 0xFFF, rxEnd := 0xFFF, rxSince := 0, replays := 0, replay := [], spent := [],
      owed := [], mgtWait := 0, turn := false, laneErr := [], recalAt := s.now, query := 0, holdTill := some (s.now + s.failHold) }) p
  else s

def execPortTrained (port : Fin 6) (node : BitVec 16) (nport : Fin 6) (delay : BitVec 16) (s : State) : Answer :=
  .next (s.portTrained port node.toNat nport delay.toNat)

/-! ### Routing (R431, R435 to R439) -/

/-- The entry of the longest prefix that matches a node; ties go to the lowest index. -/
def State.routeOf (s : State) (dst : Nat) : Option (Nat × Bytes) :=
  s.routes.foldl (fun best r =>
    let sh := 16 - rtLen r.2
    if dst >>> sh = rtPrefix r.2 >>> sh then
      match best with
      | some b => if rtLen b.2 < rtLen r.2 then some r else some b
      | none => some r
    else best) none

/-- Where a message goes next. -/
inductive Hop where
  | nowhere
  | held
  | port (p : Nat) (clear : Bool)
  deriving DecidableEq, Repr

/-- The use of a route entry (R435): its primary port while that is UP, else the alternate while that is. A port that retrains keeps its
messages waiting (R433, log 101). -/
def State.hopBy (s : State) (e : Bytes) : Hop :=
  let p := rtPrimary e
  let a := rtAlternate e
  let st := (s.fport p).state
  if st = fpUp then .port p (rtClearDl e)
  else if st = fpRetrain then .held
  else if rtAltValid e && s.fup a then .port a (rtClearDl e)
  else if rtAltValid e && (s.fport a).state = fpRetrain then .held
  else .nowhere

/-- Route a message by its destination. `query` marks a LINK_QUERY of this device, which no hold stops (R437). -/
def State.hopTo (s : State) (dst : Nat) (query : Bool) : Hop :=
  match s.routeOf dst with
  | none => .nowhere
  | some (i, e) =>
    if !query && ((s.fport (rtPrimary e)).holdTill.isSome || decide (s.now < sget 0 s.fab.entHold i)) then .held
    else s.hopBy e

def State.hopOf (s : State) (w : Waiting) : Hop :=
  s.hopTo w.msg.dst.toNat (w.msg.op = 0xE && w.msg.subtype = 3 && w.src.isNone)

end Sys2Proof.Machine
namespace Sys2Proof
open Sys2Proof.Machine
/-- The channel of a message: 0 REQ, 1 RSP, 2 MGT. -/
def FabMsg.vc (m : FabMsg) : Nat := if m.isReq then 0 else if m.isRsp then 1 else 2
end Sys2Proof
namespace Sys2Proof.Machine

/-- The message as it leaves through a port (R431). -/
def State.leaving (s : State) (p : Nat) (clear : Bool) (m : FabMsg) : FabMsg :=
  if 2 ≤ m.vc then m else if s.fdateline p then { m with dl := true } else if clear then { m with dl := false } else m

/-- The ports that a broadcast still goes to (R444): those of its mask that carry traffic. -/
def State.bcastTo (s : State) (w : Waiting) : List Nat :=
  (List.range 6).filter (fun q => (s.rdN 0x8011 w.via 0 1).testBit q && (s.fup q || (s.fport q).state = fpRetrain) && !w.sent.contains q)

/-- The ports on which a message may leave now, each with whether it leaves in class 0 (R431). -/
def State.exits (s : State) (w : Waiting) : List (Nat × Bool) :=
  if w.msg.op = 0xF then ((s.bcastTo w).filter (fun q => s.fup q)).map (fun q => (q, false))
  else if w.msg.dst = s.node then []
  else match s.hopOf w with
    | .port p c => [(p, c)]
    | _ => []

/-- The input of a message: a port, or this device. -/
def Waiting.input (w : Waiting) : Option Nat := if w.msg.op = 0xF && decide (w.via < 6) then some w.via else w.src

/-- A message may leave through a port: it is next of its input and channel there (R438), and the port has room. In the grave state this
device's own requests stay (R498). -/
def State.mayExit (s : State) (k : Nat) (w : Waiting) (q : Nat × Bool) : Bool :=
  !(s.faults.grave && w.src.isNone && w.msg.isReq) &&
  !s.fab.msgs.any (fun v => decide (v.1 < k) && v.2.msg.vc = w.msg.vc && (v.2.input = w.input || v.2.first) &&
    (s.exits v.2).any (fun r => r.1 = q.1)) &&
  s.hasRoom q.1 (s.leaving q.1 q.2 w.msg)

/-- The channel that a port serves next (R429); TIME messages take none of the turns. -/
def State.nextVc (s : State) (p : Nat) : Nat :=
  let here (v : Nat) : Bool := s.fab.msgs.any (fun w => w.2.msg.vc = v && (s.exits w.2).any (fun q => q.1 = p && s.mayExit w.1 w.2 q))
  let x := s.fport p
  if here 2 && decide (64 ≤ x.mgtWait) then 2
  else if here 0 && here 1 then (if x.turn then 1 else 0)
  else if here 0 then 0
  else if here 1 then 1
  else 2

/-- A message other than `k` of the management channel waits for a port. -/
def State.mgtWaits (s : State) (p k : Nat) : Bool :=
  s.fab.msgs.any (fun w => w.1 ≠ k && w.2.msg.vc = 2 && (s.exits w.2).any (fun q => q.1 = p))

/-- A port's turns after it sent a message of channel `v` (3 is TIME): an MGT message has waited behind one more. -/
def State.turned (s : State) (p k v : Nat) : State :=
  let x := s.fport p
  s.setFport p { x with turn := if v = 0 then true else if v = 1 then false else x.turn,
                        mgtWait := if v = 2 then 0 else if s.mgtWaits p k then x.mgtWait + 1 else x.mgtWait }

/-- A store of this device is accepted when its port sends it (R345). -/
def State.fabAccepted (s : State) (m : FabMsg) (src : Option Nat) : State :=
  if src.isSome || m.op ≠ 1 then s
  else match sfind s.fab.tags m.tag.toNat with
    | some (.mem id _) => if (sfind s.rsps id).isSome then s else s.accept id
    | _ => s

/-- A hop's time is recorded (R447): the wait here and half the link delay. -/
def State.hopSeen (s : State) (p : Nat) (w : Waiting) : State :=
  if 2 ≤ w.msg.vc then s
  else
    let x := s.fport p
    let t := since s.now w.since + x.delay / 2
    let s := s.setFport p { x with hopMax := max x.hopMax (min (2 ^ 32 - 1) t) }
    if s.hopWc < t then s.gfrCount 7 else s

/-- The broadcast `k` has gone out on a port. -/
def State.bcastSent (s : State) (k p : Nat) : State :=
  match sfind s.fab.msgs k with
  | none => s
  | some w => { s with fab := { s.fab with msgs := sput s.fab.msgs k { w with sent := w.sent ++ [p] } } }

/-- Send a broadcast on each port that serves it now; it is gone once every port of its mask has sent it (R444). -/
def State.bcastOn (s : State) (k : Nat) : State :=
  let s := (List.range 6).foldl (fun s p =>
    match sfind s.fab.msgs k with
    | none => s
    | some w =>
      if (s.exits w).any (fun q => q.1 = p && s.mayExit k w q) && s.nextVc p = 2 then
        ((s.turned p k 2).portSend p w.msg w.msg.dl).bcastSent k p
      else s) s
  match sfind s.fab.msgs k with
  | some w => if (s.bcastTo w).isEmpty then s.dropMsg k else s
  | none => s

/-- Send the message `k` through its port, if it is that port's turn. -/
def State.forwardOn (s : State) (k : Nat) (w : Waiting) (p : Nat) (c : Bool) : State :=
  let m := s.leaving p c w.msg
  if !s.hasRoom p m then s.fportCount p 7
  else if !s.mayExit k w (p, c) || s.nextVc p ≠ w.msg.vc then s
  else ((((s.turned p k w.msg.vc).hopSeen p w).fabAccepted w.msg w.src).portSend p m w.msg.dl).dropMsg k

/-- GFR_FORWARD. -/
def State.gfrForward (s : State) (k : Nat) (found : Ecc) : State :=
  match sfind s.fab.msgs k with
  | none => s
  | some w =>
    let m := w.msg
    if found = .uncorrectable then
      s.fireBlk uFab 6 6 { mUnit := uFab, mNum := m.src.toNat, aspace := 4, addr := 2 ^ 48 * m.dst.toNat + m.addr.toNat }
    else if m.op = 0xF then s.bcastOn k
    else if m.dst = s.node then s
    else if m.isReq && s.staleSent m.sent then (s.dropMsg k).countStale m
    else match s.hopOf w with
      | .held => s
      | .nowhere =>
        if m.isReq then (s.dropMsg k).fabAnswer m 0xA 2 false 0 [] else (s.dropMsg k).gfrCount 1
      | .port p c => s.forwardOn k w p c

def execGfrForward (msg : Nat) (found : Ecc) (s : State) : Answer := .next (s.gfrForward msg found)

/-- GFR_STALE_DISCARD: a request has waited 50 µs here. -/
def execGfrStaleDiscard (msg : Nat) (s : State) : Answer :=
  .next (
    match sfind s.fab.msgs msg with
    | none => s
    | some w =>
      if w.msg.isReq && decide (50000 ≤ since s.now w.since) then (s.dropMsg msg).countStale w.msg else s)

/-! ### Failover (R437) -/

/-- LINK_QUERY_RECEIVE: the SEQ of the flit that ended the last message kept from that link. -/
def execLinkQueryReceive (src : BitVec 16) (atPort : Fin 6) (s : State) : Answer :=
  .next (
    let x := s.fport atPort
    let ok := x.nbrNode = src.toNat
    s.unicast src 4 (natLe x.nbrPort 1 ++ natLe (b2n ok) 1 ++ natLe (if ok then x.rxEnd else 0) 2))

/-- LINK_REPLY_RECEIVE: a reply that is not valid names nothing. -/
def execLinkReplyReceive (port : Fin 6) (valid : Bool) (seq : BitVec 12) (s : State) : Answer :=
  .next (
    let x := s.fport port
    if x.query = 1 && valid then s.setFport port { x with query := 2, reply := seq.toNat } else s)

/-- LQ_TIMEOUT. -/
def State.lqExpire (s : State) (p : Nat) : State :=
  let x := s.fport p
  if x.query = 1 && decide (s.lqTimeout ≤ since s.now x.queryAt) then
    let n := x.replay.length
    let s := s.setFport p { x with query := 3, replay := [] }
    if n = 0 then s else (s.gfrCount 2 n).fire uFab p 3 (portHit p)
  else s

def execLqTimeout (port : Fin 6) (s : State) : Answer := .next (s.lqExpire port)

/-- A message waits under a fresh number, behind every other. -/
def State.putMsg (s : State) (w : Waiting) : State :=
  let (k, s) := s.fresh
  { s with fab := { s.fab with msgs := sput s.fab.msgs k w } }

/-- Put the messages to be sent again before every message that waits: those take new numbers behind them. -/
def State.again (s : State) (l : List FabMsg) : State :=
  let old := s.fab.msgs
  let s := { s with fab := { s.fab with msgs := [] } }
  let s := l.foldl (fun s m => s.putMsg { msg := m, first := true, since := s.now }) s
  old.foldl (fun s w => s.putMsg w.2) s

/-- FAILOVER_HOLD_EXPIRY: after the hold, and where a query is out after its answer, the messages that the neighbour does not hold go
again, and the held ones are released. A TIME message travels one hop only and is not sent through another port. -/
def State.holdExpire (s : State) (p : Nat) : State :=
  let x := s.fport p
  match x.holdTill with
  | none => s
  | some t =>
    if s.now < t || x.query = 1 then s
    else
      let l := if x.query = 2 then
          x.replay.filter (fun r => decide ((4096 + r.seq - x.reply) % 4096 ≤ 2048) && r.seq ≠ x.reply && r.msg.cls ≠ 5) else []
      let keep := if x.state = fpDown then [] else x.replay
      let s := s.setFport p { x with holdTill := none, query := 0, replay := keep }
      if l.isEmpty then s else s.again (l.map (fun r => { r.msg with dl := r.dl }))

def execFailoverHoldExpiry (port : Fin 6) (s : State) : Answer := .next (s.holdExpire port)

/-- A commit changed a route entry's PRIMARY, ALTERNATE or ALT_VALID: its messages are held. -/
def State.routeChanged (s : State) (i : Nat) (old new : Bytes) : State :=
  if rtPrimary old = rtPrimary new && rtAlternate old = rtAlternate new && rtAltValid old = rtAltValid new then s
  else { s with fab := { s.fab with entHold := sput s.fab.entHold i (s.now + s.failHold) } }

/-! ### Requests at their home (R421 to R424, R440, R441) -/

/-! The fields of WINDOW (Table 15.1). -/

def wnBase (b : Bytes) : Nat := fld b 86 42
def wnLog (b : Bytes) : Nat := fld b 80 6
def wnAcid (b : Bytes) : Nat := fld b 68 12
def wnPrefix (b : Bytes) : Nat := fld b 52 16
def wnLen (b : Bytes) : Nat := fld b 47 5
def wnW (b : Bytes) : Bool := bit b 46
def wnA (b : Bytes) : Bool := bit b 45

end Sys2Proof.Machine
namespace Sys2Proof
open Sys2Proof.Machine
/-- The bytes that a request reaches. -/
def FabMsg.reach (m : FabMsg) : Nat :=
  match m.op.toNat with
  | 0 => m.len
  | 1 => m.len
  | 2 => le m.payload 1 1
  | _ => 8

/-- A request's form is that of Table 15.4. -/
def FabMsg.formed (m : FabMsg) : Bool :=
  let a := m.addr.toNat
  !m.rsv && match m.op.toNat with
  | 0 => decide (1 ≤ m.len) && decide (m.len ≤ 1024) && m.payload.isEmpty
  | 1 => decide (1 ≤ m.len) && decide (m.len ≤ 1024) && m.payload.length = m.len
  | 2 => m.len = 24 && m.payload.length = 24 && opAtomics (le m.payload 0 1) && (m.reach = 4 || m.reach = 8) && a % m.reach = 0 &&
      le m.payload 2 6 = 0
  | 3 => m.len = 8 && m.payload.isEmpty && a % 8 = 0
  | 4 => m.len = 8 && m.payload.length = 8 && a % 8 = 0
  | _ => false

/-- Checks 1 to 4 of R423. -/
def FabMsg.admitted (m : FabMsg) (w : Bytes) : Bool :=
  let off := m.addr.toNat % 2 ^ 36
  let sh := 16 - wnLen w
  wnLog w ≠ 0 && m.src.toNat >>> sh = wnPrefix w >>> sh && decide (off + m.reach ≤ 2 ^ wnLog w) &&
  (m.op ≠ 1 || wnW w) && (decide (m.op.toNat ≤ 1) || wnA w)

/-- The request's operation at the home slice. -/
def FabMsg.memOp (m : FabMsg) : MemOp :=
  match m.op.toNat with
  | 0 => .read
  | 1 => .write
  | 2 => .atomic (le m.payload 0 1)
  | 3 => .ldr
  | _ => .stc

/-- The bytes that a line of the request carries, and the compare value of an ACAS. -/
def FabMsg.lineData (m : FabMsg) (off n : Nat) : Bytes × Bytes :=
  match m.op.toNat with
  | 1 => (bytesAt m.payload off n, [])
  | 2 => (bytesAt m.payload 8 n, if le m.payload 0 1 = 0x12 then bytesAt m.payload 16 n else [])
  | 4 => (m.payload, [])
  | _ => ([], [])
end Sys2Proof
namespace Sys2Proof.Machine

/-- Send the lines of an inbound request to their home slices. A remote reservation is known by its node and its granule (R356). The header
names no context (Table 15.3), so whether a node's write is of the context that holds the node's reservation, which R354 then leaves
alone, is free (log 99). -/
def State.inboundLines (s : State) (m : FabMsg) (dpa acid : Nat) : State × List Nat :=
  let g := 2 * (dpa / 2 ^ s.resGranule)
  let (own, s) := if m.op = 1 || m.op = 2 then s.draw else (0, s)
  (pieces dpa m.reach 64).foldl (fun (s, ids) oc =>
    let (id, s) := s.fresh
    let d := m.lineData oc.1 oc.2
    let r : MemReq := { id := id, src := .fabric m.src.toNat (g + own % 2), acid := acid, op := m.memOp, tgt := .dev (dpa + oc.1), len := oc.2,
                        data := d.1, cmp := d.2, poison := m.op = 1 && m.poison, issued := s.now, sent := some m.sent, gran := s.resGranule }
    (s.toSlice r, ids ++ [id])) (s, [])

/-- An admitted request goes to the slices, and waits for its lines. -/
def State.inboundServe (s : State) (m : FabMsg) (dpa acid : Nat) : State :=
  let (s, ids) := s.inboundLines m dpa acid
  let (k, s) := s.fresh
  { s with fab := { s.fab with inbound := sput s.fab.inbound k { msg := m, lines := ids } } }

/-- The window that a waiting request met on its arrival. -/
def State.windowMet (s : State) (k : Nat) : Bytes :=
  match sfind s.fab.msgs k with
  | some w => w.win
  | none => []

/-- FABRIC_REQUEST_RECEIVE. -/
def State.fabRequestIn (s : State) (k : Nat) : State :=
  match s.localMsg k with
  | none => s
  | some m =>
    if 5 ≤ m.op.toNat then s
    else
      let w := s.windowMet k
      let s := s.dropMsg k
      if s.faults.grave then s.fabAnswer m 0xA 1 false 0 []
      else if s.staleSent m.sent then s.countStale m
      else if !m.formed then s.fabAnswer m 0xA 3 false 0 []
      else
        if !m.admitted w then (s.bump 0x4000 1 6).fabAnswer m 0xA 1 false 0 []
        else s.wakeUp.inboundServe m (wnBase w + m.addr.toNat % 2 ^ 36) (wnAcid w)

def execFabricRequestReceive (msg : Nat) (s : State) : Answer := .next (s.fabRequestIn msg)

/-- A NAK to a part (R442): the task ends with REMOTE_LOST. -/
def State.pdNak (s : State) (g slot : Nat) : State :=
  match sfind (s.gpe g).slots slot with
  | none => s
  | some x =>
    let s := s.setGpe g { s.gpe g with slots := sdel (s.gpe g).slots slot }
    match sfind (s.gpe g).cmds x.cmd with
    | none => s
    | some c => (s.endTask c.req stRemoteLost c.tile (s.postPos c.tile c.xtag)).gReap g

/-- What a response says to the request that its tag answers. -/
def State.fabReply (s : State) (m : FabMsg) (what : TagFor) : State :=
  let nak := m.op = 0xA
  match what with
  | .pd g slot => if nak then s.pdNak g slot else s
  | .mem id op =>
    if nak then s.failReq id .owner
    else match op with
      | .write => s.perform id
      | .stc => s.perform id [if m.status = 0 then 0 else 1]
      | _ => s.perform id m.payload m.poison

/-- FABRIC_RESPONSE_RECEIVE: a response without its tag is late. -/
def State.fabResponseIn (s : State) (k : Nat) : State :=
  match s.localMsg k with
  | none => s
  | some m =>
    if !m.isRsp || m.op = 9 then s
    else
      let s := s.dropMsg k
      match sfind s.fab.tags m.tag.toNat with
      | none => s.gfrCount 3
      | some what =>
        let s := State.fabReply { s with fab := { s.fab with tags := sdel s.fab.tags m.tag.toNat } } m what
        match what with
        | .mem id .write => s.storeAnswered id
        | _ => s

def execFabricResponseReceive (msg : Nat) (s : State) : Answer := .next (s.fabResponseIn msg)

/-! ### Management broadcasts (R444, R445) -/

/-- REACH_NODES: the nodes heard within the last 3 s, and this one. -/
def State.reachNodes (s : State) : Nat :=
  (s.fab.heard.filter (fun h => since s.now h.2 ≤ 3000000000)).length + 1

/-- Forced counter mode follows REACH_NODES (R390). -/
def State.reachForced (s : State) : State := { s with mtu := { s.mtu with forced := decide (256 < s.reachNodes) } }

/-- MGT_BROADCAST_RECEIVE: ANNOUNCE is noted here, EPOCH_REFUSED by its own command; either is forwarded on the ports of its mask. -/
def State.bcastReceive (s : State) (p : Nat) (src : BitVec 16) (subtype : Nat) (payload : Bytes) : State :=
  if !s.fup p then s
  else if subtype ≠ 0x10 && subtype ≠ 0x11 then s.gfrCount 4
  else
    let m : FabMsg := { dst := 0, src := src, op := 0xF, len := ceilDiv payload.length 4, addr := mgtAddr subtype, payload := payload }
    let (k, s) := s.fresh
    let s := { s with fab := { s.fab with msgs := sput s.fab.msgs k { msg := m, via := p, since := s.now } } }
    if subtype = 0x11 && src ≠ s.node then
      State.reachForced { s with fab := { s.fab with heard := sput s.fab.heard src.toNat s.now } }
    else s

def execMgtBroadcastReceive (port : Fin 6) (src : BitVec 16) (subtype : BitVec 8) (payload : Bytes) (s : State) : Answer :=
  .next (s.bcastReceive port src subtype.toNat payload)

/-- A second has passed since the last announcements. -/
def State.annDue (s : State) : Bool := decide (1000000000 ≤ since s.now s.fab.annAt)

/-- ANNOUNCE: each second. -/
def execAnnounce (s : State) : Answer :=
  .next (if s.annDue then
      State.broadcast { s with fab := { s.fab with annAt := s.now } } 0x11 []
    else s)

/-- REACH_NODE_EXPIRY (R445). -/
def execReachNodeExpiry (node : BitVec 16) (s : State) : Answer :=
  .next (
    match sfind s.fab.heard node.toNat with
    | none => s
    | some t =>
      if 3000000000 < since s.now t then State.reachForced { s with fab := { s.fab with heard := sdel s.fab.heard node.toNat } } else s)

/-! ### Hot-plug (R454, R455, R472) -/

/-- The codes of link events that leave on a host port: PME and PME_TO_Ack. -/
def linkPme : Nat := 0
def linkPmeToAck : Nat := 1

/-- WAKE_N of a host port. -/
def wakePin (p : Nat) : String := if p = 0 then "WAKE_N_H0" else "WAKE_N_H1"

/-- WAKE_EN of a host port. -/
def State.wakeEn (s : State) (p : Nat) : Nat := s.rdN 0x9003 p 0 1

/-- A wake source of R472 (0 button, 1 presence): in D3cold it asserts WAKE_N, in D3hot it sends a PME where PME_En is set (R470). -/
def State.wakeHosts (s : State) (k : Nat) : State :=
  [0, 1].foldl (fun s p =>
    let h := s.port p
    if !(s.wakeEn p).testBit k then s
    else if s.pcs.cold then
      if sget false s.pcs.wakeN p then s
      else State.emit { s with pcs := { s.pcs with wakeN := sput s.pcs.wakeN p true } } (.pin (wakePin p) 0)
    else if h.dstate = 3 && h.pmeEn then s.emit (.link p linkPme)
    else s) s

/-- A latched hot-plug event: bit 5 (button) or 6 (presence) of HP_CTL raises the interrupt. -/
def State.hotplug (s : State) (p k : Nat) : State :=
  let s := if (s.hpCtl p).testBit (5 + k) && !s.pcs.cold then s.fire uFab p 2 (portHit p) else s
  s.wakeHosts k

/-- ATTN_BUTTON_PRESS. -/
def execAttnButtonPress (port : Fin 6) (s : State) : Answer :=
  .next ((if s.pcs.cold then s else s.setFport port { s.fport port with button := true }).hotplug port 0)

/-- PRESENCE_CHANGE: a loss takes the port DOWN at once. -/
def State.presence (s : State) (p : Nat) (v : Bool) : State :=
  let x := s.fport p
  if x.present = v then s
  else if s.pcs.cold then (s.setFport p { x with present := v }).hotplug p 1
  else
    let s := (s.setFport p { x with present := v, presChg := true }).hotplug p 1
    if v then s else s.fpx p

def execPresenceChange (port : Fin 6) (present : Bool) (s : State) : Answer := .next (s.presence port present)

/-- The pins of HP_CTL: PWREN, and the indicators. -/
def State.hpPins (s : State) (p : Nat) : State :=
  let v := s.hpCtl p
  ((s.emit (.pin "PWREN" (2 * p + v % 2))).ledOn p).emit (.pin "ATTN_LED" (4 * p + v / 8 % 4))

/-- HP_CTL took effect (R455). -/
def State.hpApplied (s : State) (p : Nat) : State :=
  let on := (s.hpCtl p).testBit 0
  let x := s.fport p
  let s := if on && !x.pwren then
      let s := s.setFport p { x with pwren := true, pwrenAt := s.now }
      if s.fenabled p then s.setFstate p fpPowering else s
    else if !on && x.pwren then
      let s := s.setFport p { x with pwren := false }
      s.fpx p
    else s
  s.hpPins p

/-- PORT_CFG took effect (R455): clearing ENABLE takes the port DOWN, and it is then DISABLED. -/
def State.fcfgApplied (s : State) (p : Nat) : State :=
  let x := s.fport p
  if s.fenabled p then
    if x.state = fpDisabled then s.setFstate p (if x.pwren then fpPowering else fpDown) else s
  else if x.state = fpDisabled then s
  else (s.fpx p).setFstate p fpDisabled

/-- PWREN_TRAINING_START (R455): 100 ms after PWREN. -/
def execPwrenTrainingStart (port : Fin 6) (s : State) : Answer :=
  .next (
    let x := s.fport port
    if x.state = fpPowering && x.pwren && decide (100000000 ≤ since s.now x.pwrenAt) then s.setFstate port fpTraining else s)

/-! ### Clears (R458) -/

def State.hpClear (s : State) (p : Nat) : State := s.setFport p { s.fport p with button := false, presChg := false }
def State.gfrClear (s : State) : State :=
  (List.range 6).foldl (fun s p => s.clearCtr (fportIx p) 2 2) (s.clearCtr 0x8000 3 3)

/-- NODE_ID is quiescent while no port is UP. -/
def State.noPortUp (s : State) : Bool := (List.range 6).all (fun p => !s.fup p)

end Sys2Proof.Machine
end

