-- ==== Sys2Proof/Machine/Time.lean ====
section
/-! DEFINITION. Global time (R448 to R451): the two-way exchange with the upstream neighbour, the servo's states, steps and the
time pulses. -/
namespace Sys2Proof.Machine

/-- GTC_CFG (R458). -/
def State.gtcCfg (s : State) (off n : Nat) : Nat := s.rdN 0x9800 1 off n
def State.isGm (s : State) : Bool := (s.gtcCfg 0 1).testBit 0
def State.gmPps (s : State) : Bool := (s.gtcCfg 0 1).testBit 1
/-- SYNC_INTERVAL and STEP_LIMIT in ns. -/
def State.syncInterval (s : State) : Nat := 1000 * s.gtcCfg 4 4
def State.stepLimit (s : State) : Nat := s.gtcCfg 8 4

/-- GTC_COUNTS: 0 EXCHANGES, 1 STEPS, 2 HOLDOVERS, 3 LOCK_LOSSES. -/
def State.gtcCount (s : State) (k : Nat) : State := s.bump 0x9800 3 k

/-- The states of R449. -/
def gtcFree : Nat := 0
def gtcAcquiring : Nat := 1
def gtcLocked : Nat := 2
def gtcHoldover : Nat := 3
def gtcSlewing : Nat := 4

/-- The first-error fields of the GTC. -/
def gtcHit : Hit := { mUnit := uGtc }

/-- TX_FIXED and RX_FIXED in whole ns. -/
def State.txFixed (s : State) (p : Nat) : Nat := (s.fcfg p 8 2 + 500) / 1000
def State.rxFixed (s : State) (p : Nat) : Nat := (s.fcfg p 10 2 + 500) / 1000

/-- The grandmaster's node and the hops to it, as this device tells them. -/
def State.gmNode (s : State) : Nat := if s.isGm then s.node.toNat else s.gtc.gm
def State.gmHops (s : State) : Nat := if s.isGm then 0 else s.gtc.hops

/-- A TIME message for the neighbour (R448): SYNC, DELAY_REQ or DELAY_RSP (kind 0, 1, 2) with 16 bytes: the stamp, and the grandmaster's
node and hops, in a layout that is the model's own (log 102). -/
def State.timeMsg (s : State) (p kind t : Nat) : FabMsg :=
  { dst := BitVec.ofNat 16 (s.fport p).nbrNode, src := s.node, op := BitVec.ofNat 4 (0xB + kind), len := 4,
    payload := natLe t 8 ++ natLe s.gmHops 1 ++ natLe s.gmNode 2 ++ zeros 5 }

/-- The port has credits of class TIME for the message (R430). -/
def State.timeRoom (s : State) (p kind t : Nat) : Bool := s.hasRoom p (s.timeMsg p kind t)

/-- Send a TIME message, which goes before every other message (R429). -/
def State.timeSend (s : State) (p kind t : Nat) : State := (s.turned p 0 3).portSend p (s.timeMsg p kind t) false

/-- SYNC: each SYNC_INTERVAL, on a port whose neighbour this device serves. -/
def State.syncOut (s : State) (p : Nat) : State :=
  let x := s.fport p
  let t1 := s.now + s.txFixed p
  if s.timeRole p = 2 && x.state = fpUp && (x.t1 = 0 || decide (s.syncInterval ≤ since s.now x.t1)) && s.timeRoom p 0 t1 then
    State.timeSend (s.setFport p { x with t1 := t1 }) p 0 t1
  else s

def execSyncSend (port : Fin 6) (s : State) : Answer := .next (s.syncOut port)

/-- SYNC_RECEIVE: the receiver keeps t1 and t2 and sends DELAY_REQ at t3. -/
def State.syncIn (s : State) (p t1 t2 : Nat) : State :=
  let x := s.fport p
  let t3 := s.now + s.txFixed p
  if s.timeRole p = 1 && x.state = fpUp && s.timeRoom p 1 t3 then
    State.timeSend (s.setFport p { x with t1 := t1, t2 := t2 - s.rxFixed p, t3 := t3, exch := true }) p 1 t3
  else s

def execSyncReceive (port : Fin 6) (t1 t2 : BitVec 64) (s : State) : Answer := .next (s.syncIn port t1.toNat t2.toNat)

/-- DELAY_REQ_RECEIVE: its arrival goes back. -/
def State.delayReqIn (s : State) (p t4 : Nat) : State :=
  if s.timeRole p = 2 && s.fup p && s.timeRoom p 2 (t4 - s.rxFixed p) then s.timeSend p 2 (t4 - s.rxFixed p) else s

def execDelayReqReceive (port : Fin 6) (t4 : BitVec 64) (s : State) : Answer := .next (s.delayReqIn port t4.toNat)

/-- The servo sets its rate (log 26). -/
def State.servo (s : State) : State :=
  let (r, s) := s.draw
  { s with gtc := { s.gtc with rate := (BitVec.ofNat 32 r).toInt } }

/-- A step forward by n counts (R450). -/
def State.stepTime (s : State) (n : Nat) : State :=
  (State.gtcCount { s with gtc := { s.gtc with count := s.gtc.count + BitVec.ofNat 64 n } } 1).fire uGtc 0 2 gtcHit

/-- The GTC changes its state; leaving LOCKED is counted and fired. -/
def State.setGtc (s : State) (st : Nat) : State :=
  let was := s.gtc.state
  let s := { s with gtc := { s.gtc with state := st } }
  if was = gtcLocked && st ≠ gtcLocked then (s.gtcCount 3).fire uGtc 0 1 gtcHit else s

/-- Offset and delay of an exchange (R448). -/
def timeOffset (t1 t2 t3 t4 : Nat) : Int := (((t2 : Int) - t1) - ((t4 : Int) - t3)) / 2
def timeDelay (t1 t2 t3 t4 : Nat) : Nat := ((((t2 : Int) - t1) + ((t4 : Int) - t3)) / 2).toNat

/-- The state after an exchange with this offset (R449; log 27). -/
def gtcAfter (st good : Nat) (off : Int) : Nat :=
  if 16 ≤ good then gtcLocked
  else if st = gtcLocked && decide (off.natAbs ≤ 50) then gtcLocked
  else if 5 ≤ off then gtcSlewing
  else gtcAcquiring

/-- Whether the count steps forward (R450). -/
def gtcSteps (st limit : Nat) (off : Int) : Bool :=
  decide (off < 0) && (st = gtcFree || st = gtcAcquiring || (st = gtcHoldover && decide (limit < off.natAbs)))

/-- DELAY_RSP_RECEIVE: the exchange completes. -/
def State.delayRspIn (s : State) (p t4 hops gm : Nat) : State :=
  let x := s.fport p
  if s.timeRole p = 1 && x.state = fpUp && x.exch && !s.isGm then
    let off := timeOffset x.t1 x.t2 x.t3 t4
    let good := if off.natAbs < 5 then s.gtc.good + 1 else 0
    let st := s.gtc.state
    let s := s.setFport p { x with exch := false }
    let s := { s with gtc := { s.gtc with offset := off, delay := timeDelay x.t1 x.t2 x.t3 t4, hops := hops + 1, gm := gm, good := good } }
    let s := (s.gtcCount 0).servo
    let s := if gtcSteps st s.stepLimit off then s.stepTime off.natAbs else s
    let s := s.setGtc (gtcAfter st good off)
    { s with gtc := { s.gtc with lastAt := s.now } }
  else s

def execDelayRspReceive (port : Fin 6) (t4 : BitVec 64) (hops : Nat) (gm : BitVec 16) (s : State) : Answer :=
  .next (s.delayRspIn port t4.toNat hops gm.toNat)

/-- HOLDOVER: no exchange has completed for 4 intervals; the rate stays. -/
def State.holdover (s : State) : State :=
  let g := s.gtc
  if !s.isGm && g.state ≠ gtcFree && g.state ≠ gtcHoldover && decide (4 * s.syncInterval ≤ since s.now g.lastAt) then
    ((State.setGtc { s with gtc := { g with good := 0 } } gtcHoldover).gtcCount 2).fire uGtc 0 0 gtcHit
  else s

def execHoldover (s : State) : Answer := .next s.holdover

/-- TIMEPULSE_IN_EDGE: a grandmaster with GM_PPS aligns the count to the nearest multiple of 10^9. The count only steps forward: a
backward alignment is left to the servo (log 28). -/
def State.pulseIn (s : State) : State :=
  if s.isGm && s.gmPps then
    let c := s.now
    let m := 1000000000 * ((500000000 + c) / 1000000000)
    let s := { s with gtc := { s.gtc with offset := (c : Int) - m } }
    if c < m then s.stepTime (m - c)
    else if m < c then s.servo
    else s
  else s

def execTimepulseInEdge (s : State) : Answer := .next s.pulseIn

/-- TIMEPULSE_OUT: high for 1 µs from each multiple of 10^9. -/
def State.pulseOut (s : State) : State :=
  let on := decide (s.now % 1000000000 < 1000)
  if on = s.gtc.pulse then s
  else State.emit { s with gtc := { s.gtc with pulse := on } } (.pin "TIMEPULSE_OUT" (b2n on))

def execTimepulseOut (s : State) : Answer := .next s.pulseOut

end Sys2Proof.Machine
end

