-- ==== Sys2Proof/Machine/Pcs.lean ====
section
/-! DEFINITION. Power, clocks and reset (chapter 16): operating points and caps, idle levels, D3cold, start-up, block reset, what
survives each event, boundary pins, and the unit resets of Table 17.2. -/
namespace Sys2Proof.Machine

/-- PCS_COUNTS: 0 to 3 LEVEL1 to LEVEL4, 4 WAKES, 5 POINT_CHANGES, 6 LIMIT_DROPS, 7 BLK_RESETS. -/
def State.pcsCount (s : State) (k : Nat) (n : Nat := 1) : State := s.bump 0x9006 0 k n

/-- The first-error fields of the PCS. -/
def pcsHit : Hit := { mUnit := uPcs }

/-- A source of the PCS fires. -/
def State.firePcs (s : State) (c : Nat) : State := s.fire uPcs 0 c pcsHit

/-! ### Clocks -/

/-- The number of a generated clock (Table 16.10). -/
def clockNum : Clock → Nat
  | .arith => 0
  | .mesh => 1
  | .mgt => 2
  | .time => 3
  | .hmc n => 4 + n.val
  | .cmc n => 12 + n.val

/-- Request clocks, each with a frequency code; an acknowledgement within 100 µs means stable. -/
def State.clkAsk (s : State) (l : List Clock) (code : Nat) : State :=
  l.foldl (fun s c => s.emit (.pin "CLK_REQ" (4 * clockNum c + code)))
    { s with pcs := { s.pcs with clkReq := s.pcs.clkReq.filter (fun c => !l.contains c) ++ l, clkAt := s.now } }

/-! ### Operating points (R462 to R465) -/

/-- CAP_POINT. -/
def State.capPoint (s : State) : Nat := s.rdN 0x9001 0 0 1

/-- The largest of the three codes. -/
def State.pointWanted (s : State) : Nat := max s.capPoint (max s.pcs.vfLimit s.pcs.thermal)

/-- Set VF_REQ. -/
def State.vfAsk (s : State) (v : Nat) : State :=
  State.emit { s with pcs := { s.pcs with vfReq := v, vfAt := s.now, vfWait := true } } (.pin "VF_REQ" v)

/-- The ARITH cycles are counted up to now, before the clock stops, runs again or changes. -/
def State.arithMark (s : State) : State := { s with pcs := { s.pcs with arithSum := s.arithTicks, arithAt := s.now } }

/-- The point follows the codes (R463): lowering retunes CLK_ARITH first, raising waits for VF_ACK first. -/
def State.pointFollow (s : State) : State :=
  let t := s.pointWanted
  let s := s.arithMark
  let c := s.pcs
  if c.point < t then State.clkAsk { s with pcs := { c with point := t, retune := some t, raising := false } } [.arith] t
  else if t < c.point then
    if c.raising && c.vfReq = t then s else State.vfAsk { s with pcs := { c with raising := true, retune := none } } t
  else if c.raising then State.vfAsk { s with pcs := { c with raising := false, retune := none } } t
  else s

/-- VF_ACK: the rail has reached the requested point. -/
def State.vfAcked (s : State) : State :=
  let c := s.pcs
  if !c.vfWait then s
  else
    let s := State.arithMark { s with pcs := { c with vfWait := false } }
    if c.raising then State.clkAsk { s with pcs := { s.pcs with retune := some c.vfReq } } [.arith] c.vfReq else s

def execVfAck (s : State) : Answer := .next s.vfAcked

/-- VF_ACK_TIMEOUT: no ACK within 500 µs; the point stays where it is (log 60). -/
def execVfAckTimeout (s : State) : Answer :=
  .next (
    let c := s.pcs
    if c.vfWait && decide (500000 ≤ since s.now c.vfAt) then
      State.firePcs { s with pcs := { c with vfWait := false, raising := false } } 5
    else s)

/-- A retuned ARITH clock is stable: the change takes effect. -/
def State.retuned (s : State) : State :=
  let c := s.pcs
  match c.retune with
  | none => s
  | some t =>
    let s := State.pcsCount { s with pcs := { s.arithMark.pcs with retune := none, raising := false, point := t, fPoint := t } } 5
    if c.raising then s else s.vfAsk t

/-- A rise of a limit is obeyed at once, and the test at the new f is due (R464); `cause` is that of CAP_REPORT. -/
def State.limitMoved (s : State) (cause : Nat) : State :=
  let s := if s.pcs.point < s.pointWanted then { s with pcs := { s.pcs with testDue := some cause } } else s
  s.pointFollow

/-- VF_LIMIT_CHANGE: 0b11 reads as 0b10. -/
def execVfLimitChange (code : BitVec 2) (s : State) : Answer :=
  .next (State.limitMoved { s with pcs := { s.pcs with vfLimit := min 2 code.toNat } } 2)

/-- A sensor's reading in units of 1/8 °C (R483). -/
def State.sensor (s : State) (i : Nat) : BitVec 16 := sget 0 s.pcs.temps i
def State.sense (s : State) (i : Nat) (v : BitVec 16) : State := { s with pcs := { s.pcs with temps := sset 0 s.pcs.temps i v } }

/-- A sensor reads at least so many °C. -/
def State.hotter (s : State) (deg : Int) : Bool := (List.range 17).any (fun i => decide (8 * deg ≤ (s.sensor i).toInt))

/-- THERMAL_LIMIT_CHANGE (R462): code 2 from 105 °C on, 0 once every sensor is below 95 °C. -/
def State.thermalMove (s : State) : State :=
  if s.hotter 105 && s.pcs.thermal = 0 then
    State.limitMoved (State.firePcs { s with pcs := { s.pcs with thermal := 2 } } 1) 3
  else if !s.hotter 95 && s.pcs.thermal ≠ 0 then State.limitMoved { s with pcs := { s.pcs with thermal := 0 } } 3
  else s

def execThermalLimitChange (sensor : Fin 17) (value : BitVec 16) (s : State) : Answer := .next (s.sense sensor value).thermalMove

/-- THERMAL_WARN: a sensor at 95 °C or more (R481). The thermal limit follows any reading (R462). -/
def execThermalWarn (sensor : Fin 17) (value : BitVec 16) (s : State) : Answer :=
  .next (
    let s := (s.sense sensor value).thermalMove
    if decide (760 ≤ value.toInt) then s.firePcs 0 else s)

/-- Classes are dropped (R284, R465): CAP_REPORT, the counts, the interrupt. -/
def State.dropClasses (s : State) (cause : Nat) (out : List Nat) : State :=
  if out.isEmpty then s
  else
    let s := out.foldl (fun s c => s.setCls c { s.cls c with dropped := true }) s
    let s := { s with pcs := { s.pcs with repCause := cause, repMask := s.pcs.repMask ||| out.foldl (fun m c => m ||| 2 ^ c) 0, repAt := s.now } }
    let s := if cause = 1 then s else s.pcsCount 6 out.length
    s.firePcs 2

/-- FORCED_ADMISSION_TEST (R464): after a rise of a limit, at the new f, once the change is complete. -/
def State.forcedTest (s : State) : State :=
  match s.pcs.testDue with
  | none => s
  | some cause =>
    if s.frozen || s.pcs.retune.isSome then s
    else
      let (out, v) := s.admForced s.pcs.point [] s.dropOrder
      let s := { s with pcs := { s.pcs with testDue := none } }
      let s := s.dropClasses cause out
      match v with
      | .pass b pd => s.setBounds b pd
      | .refuse _ _ => s

def execForcedAdmissionTest (s : State) : Answer := .next s.forcedTest

/-! ### Idle levels (R466 to R469) -/

/-- IDLE_CFG. -/
def State.idleHold (s : State) : Nat := 1000 * s.rdN 0x9000 4 0 4
def State.levelAllowed (s : State) (n : Nat) : Bool := (s.rdN 0x9000 4 4 1).testBit (n - 1)

/-- The tolerable latency in force, in µs (R467). -/
def State.tolerable (s : State) : Nat :=
  [0, 1].foldl (fun m p => if s.portFitted p && s.linkUp p then min m (s.rdN 0x9000 (1 + p) 0 4) else m) (s.rdN 0x9000 3 0 4)

/-- Exit latencies in µs (Table 16.5). -/
def exitLatency (n : Nat) : Nat := if n = 1 then 1 else if n = 2 then 50 else if n = 3 then 300 else 5000

def State.levelOk (s : State) (n : Nat) : Bool := s.levelAllowed n && decide (exitLatency n ≤ s.tolerable)

/-- A class that ADM counts. -/
def State.counted (s : State) (c : Nat) : Bool := s.clsOn c && s.clsRate c ≠ 0

/-- Level 1 of a cabinet: nothing on it for IDLE_HOLD. -/
def State.cabIdle (s : State) (k : Nat) : Bool :=
  !(s.cab k).busy && decide (s.idleHold ≤ since s.now (sget 0 s.pcs.idleSince k))

/-- Level 2: no counted class placed there, nothing queued at its GPEs or its HSE. -/
def State.cabEmpty (s : State) (k : Nat) : Bool :=
  (List.range 64).all (fun c => !(s.counted c && (s.clsPlacement c).testBit k)) &&
  [0, 1, 2, 3].all (fun i => (s.gpe (4 * k + i)).cmds.isEmpty && (s.gpe (4 * k + i)).posted.isEmpty) &&
  (s.hse k).queue.isEmpty && (s.hse k).posted.isEmpty

/-- No EPOCH, SESSION, SWEEP or COPY work is pending (R311). -/
def State.shelvesQuiet (s : State) : Bool := (List.range 20).all (fun c => [2, 3, 4, 5].all (fun k => !s.bgPending c k))

/-- Level 3. -/
def State.shelvesIdle (s : State) : Bool :=
  (List.range 12).all (fun k => sget 0 s.pcs.cabLevel k = 2) && (List.range 64).all (fun c => !s.counted c) &&
  s.rdN 0x7800 0 4 4 = 0 && (List.range 4096).all (fun n => wnLog (s.fabWindow n) = 0) &&
  s.shelvesQuiet

/-- Level 4. -/
def State.meshIdle (s : State) : Bool :=
  [0, 1].all (fun p => !s.linkUp p || (s.port p).l1 = 2 || (s.port p).dstate = 3) &&
  s.sqe.queues.all (fun q => !q.2.enabled) &&
  s.ods.trestle.all (fun t => t.2.state ≠ 1 || decide (10000000 + s.now < t.2.due.toNat))

/-- IDLE_ENTRY: the deepest allowed level whose conditions hold is entered, block-wide or on the cabinet. -/
def State.idleEnter (s : State) (k : Nat) : State :=
  let c := s.pcs
  let cur := sget 0 c.cabLevel k
  if s.frozen || sget 0 c.railReq k = 3 then s
  else if s.levelOk 4 && c.level = 3 && c.entryBlock = 0 && s.meshIdle then { s with pcs := { c with entryBlock := 4 } }
  else if s.levelOk 3 && c.level = 0 && c.entryBlock = 0 && s.shelvesIdle then { s with pcs := { c with entryBlock := 3 } }
  else if s.levelOk 2 && cur = 1 && sget 0 c.entering k = 0 && s.cabIdle k && s.cabEmpty k then
    State.railTell { s with pcs := { c with entering := sput c.entering k 2 } } k 1
  else if s.levelOk 1 && cur = 0 && sget 0 c.entering k = 0 && s.cabIdle k then
    { s with pcs := { c with entering := sput c.entering k 1 } }
  else s

def execIdleEntry (cab : Fin 12) (s : State) : Answer := .next (s.idleEnter cab)

/-- The cabinet's stores have drained (Table 12.6). -/
def State.cabQuiet (s : State) (k : Nat) : Bool :=
  s.tiles.tile.all (fun t => cabOf t.1 ≠ k || (t.2.xfers.isEmpty && t.2.tracker.isEmpty))

/-- Nothing is under way at the slices and controllers. -/
def State.meshQuiet (s : State) : Bool :=
  (List.range 16).all (fun i => (s.slice i).inq.isEmpty && (s.slice i).misses.isEmpty && (s.slice i).victims.isEmpty) &&
  s.coh.hostReqs.isEmpty && s.shelves.slots.isEmpty

/-- IDLE_ENTRY_COMPLETE: the handshake has ended (R468). -/
def State.idleDone (s : State) (k : Nat) : State :=
  let c := s.pcs
  let n := sget 0 c.entering k
  if n ≠ 0 then
    if s.cabQuiet k && (n = 1 || sget 0 c.railReq k = 2) then
      State.pcsCount (State.gateClock { s with pcs := { c with entering := sdel c.entering k, cabLevel := sput c.cabLevel k n,
                                                               levelAt := s.now } } k) (n - 1)
    else s
  else if c.entryBlock ≠ 0 && s.meshQuiet && s.shelvesQuiet then
    State.pcsCount { s with pcs := { c with entryBlock := 0, level := c.entryBlock, levelAt := s.now } } (c.entryBlock - 1)
  else s

def execIdleEntryComplete (cab : Fin 12) (s : State) : Answer := .next (s.idleDone cab)

/-- Every level that a change of the latencies or of the configuration may forbid is left. -/
def State.wakeAll (s : State) : State := (List.range 12).foldl (fun s k => s.wakeCab k) s.wakeUp

/-- WAKE: a cabinet's wake is SQE's (R469); a change of CAP_POINT, TOL_LAT or IDLE_CFG wakes the cabinets too. -/
def execWake (source : WakeSource) (s : State) : Answer :=
  .next (
    match source with
    | .cabinet c => s.wakeCab c
    | .capPoint => s.wakeAll
    | .tolLat => s.wakeAll
    | .idleCfg => s.wakeAll
    | .doorbell => s.wakeUp
    | .mailbox => s.wakeUp
    | .cxlMem => s.wakeUp
    | .cxlCache => s.wakeUp
    | .fabric => s.wakeUp
    | .dictO => s.wakeUp
    | .dictF => s.wakeUp
    | .ringTail => s.wakeUp
    | .armedSet => s.wakeUp)

/-! ### Rail switches (R480) and cabinets out of service -/

/-- A cabinet leaves service (Table 17.2): tasks with work on it end. With no cabinet left the block is grave (R475). -/
def State.cabOut (s : State) (k : Nat) : State :=
  let rs := (s.sqe.reqs.filter (fun r => r.2.cab = k && decide (1 ≤ r.2.phase) && decide (r.2.phase ≤ 3))).map (fun r => r.1)
  let s := s.setCab k { s.cab k with out := true }
  let s := rs.foldl (fun s r => s.endTask r stTrapped (8 * k)) s
  if (List.range 12).all (fun c => (s.cab c).out) then s.firePcs 8 else s

/-- A spare leaves service: a swap to it fails. -/
def State.spareOut (s : State) (k : Nat) : State :=
  let s := s.setSpare k 0xFF02
  let w := s.tiles.swap
  if w.running && w.spare = 96 + k then s.swapFails 1 else s

/-- CAB_PSW_ACK: the switch of a cabinet (0 to 11) or a spare (12 to 15) has done what it was told. -/
def State.railAck (s : State) (sw : Nat) : State :=
  let c := s.pcs
  match sget 0 c.railReq sw with
  | 1 => { s with pcs := { c with railReq := sput c.railReq sw 2 } }
  | 3 => State.runClock { s with pcs := { c with railReq := sdel c.railReq sw, cabLevel := sdel c.cabLevel sw } } sw
  | _ => s

def execCabPswAck (sw : Fin 16) (s : State) : Answer := .next (s.railAck sw)

/-- CAB_PSW_TIMEOUT: no ACK in 100 µs. -/
def State.railLate (s : State) (sw : Nat) : State :=
  let c := s.pcs
  let r := sget 0 c.railReq sw
  if (r = 1 || r = 3) && decide (100000 ≤ since s.now (sget 0 c.railAt sw)) then
    let s := { s with pcs := { c with railReq := sput c.railReq sw 4 } }
    if sw < 12 then s.fireWith id (fun s => s.cabOut sw) id uPcs 0 3 pcsHit
    else s.fireWith id (fun s => s.spareOut (sw - 12)) id uPcs 0 4 pcsHit
  else s

def execCabPswTimeout (sw : Fin 16) (s : State) : Answer := .next (s.railLate sw)

/-! ### D3cold (R471, R472) -/

/-- Work ends for D3cold: SQE admits nothing more, tiles and engines stop, tasks end without an entry, and the stores that are left
drain. -/
def State.quiesce (s : State) : State :=
  let tile (t : Nat) (y : Tile) : Tile :=
    { y.rest (s.tileTicks t) with
      ctxs := [], mxu := none, conv := none, trap := {}, xfers := y.xfers.filter (fun x => opBuffered x.2.op) }
  let cab (c : Cabinet) : Cabinet := { c with dispatch := [], frames := c.frames.map (fun f => (f.1, { f.2 with req := none })) }
  let gone (j : EngJob) : Bool := match j with
    | .hdm _ => false
    | .walk _ => false
    | .ods => false
    | .move _ => false
    | .stage _ => false
    | _ => true
  State.endJobs { s with
    pcs := { s.pcs with quiesced := true },
    tiles := { s.tiles with tile := s.tiles.tile.map (fun t => (t.1, tile t.1 t.2)) },
    sched := { s.sched with cabs := s.sched.cabs.map (fun c => (c.1, cab c.2)), lock := { s.sched.lock with phase := 0 } },
    sqe := { s.sqe with reqs := s.sqe.reqs.map (fun r => (r.1, { r.2 with discard := true })) },
    gpes := [], hses := [],
    epm := { s.epm with rings := s.epm.rings.map (fun r => (r.1, { r.2 with batch := none, ready := none })) },
    ssu := { s.ssu with rings := s.ssu.rings.map (fun r => (r.1, { r.2 with batch := none, ready := none })) } } gone

/-- PME_TURN_OFF: the last live port's quiesces the block. -/
def State.pmeTurnOff (s : State) (p : Nat) : State :=
  if !s.linkUp p || (s.port p).dstate ≠ 3 then s
  else
    let s := s.setPort p { s.port p with pmeOff := true }
    if !s.pcs.quiesced && [0, 1].all (fun q => !s.linkUp q || (s.port q).pmeOff) then s.quiesce else s

def execPmeTurnOff (port : Fin 2) (s : State) : Answer := .next (s.pmeTurnOff port)

/-- No store is buffered: none in a tile, none at a slice, none on its way. -/
def State.drained (s : State) : Bool :=
  s.tiles.tile.all (fun t => t.2.xfers.isEmpty && t.2.tracker.isEmpty) &&
  (List.range 16).all (fun i => (s.slice i).inq.all (fun r => !r.op.stores) &&
    (s.slice i).misses.all (fun m => m.2.waiters.all (fun r => !r.op.stores)))

/-- D3COLD_QUIESCE_DONE: the MH lines of the live ports are written back, each acknowledges, and MAIN_OFF_OK asserts. -/
def State.quiesceDone (s : State) : State :=
  if !s.pcs.quiesced || s.pcs.mainOffOk || !s.drained then s
  else
    let mine (t : Target) : Bool := [0, 1].any (fun p => s.linkUp p && t.onHost p)
    let s := s.flushOn mine
    if !s.flushed mine then s
    else
    let s := [0, 1].foldl (fun s p => if s.linkUp p then s.emit (.link p linkPmeToAck) else s) s
    State.emit { s with sqe := { s.sqe with reqs := [] }, pcs := { s.pcs with mainOffOk := true } } (.pin "MAIN_OFF_OK" 1)

def execD3coldQuiesceDone (s : State) : Answer := .next s.quiesceDone

/-! ### D3C and POR (Table 16.9) -/

/-- The state after the loss of the main rails: what the AON part keeps (stored entries that pass `keep`, straps, the responder's keys and
certificate with `key`), the levels of input pins, and what is not the block's own state. -/
def State.rebuilt (s : State) (keep : EntRow → Bool) (straps : BitVec 64) (key cold : Bool) : State :=
  let h (x : Hlc) : Hlc := { perst := x.perst, keyGen := if key then x.keyGen else x.keyGen + 1, cert := if key then x.cert else [] }
  let f (x : FabPort) : FabPort := { present := x.present }
  { pending := s.pending, out := s.out, nextId := s.nextId, free := s.free,
    ods := { store := s.ods.store.filter (fun kv => (entAt (kv.1 / 256) (kv.1 % 256)).any keep) },
    hlc := [0, 1].foldl (fun m p => sset {} m p (h (s.port p))) [],
    fab := { ports := (List.range 6).foldl (fun m p => sset {} m p (f (s.fport p))) [] },
    pcs := { straps := straps, cold := cold, vfLimit := s.pcs.vfLimit } }

/-- The output pins as the rails of the state `was` go: ALIVE is low, MAIN_OFF_OK and CHIP_RST_REQ are released, and so is ERR_N, since no
status bit stands any more (Table 16.10, R499, log 104). -/
def State.pinsOff (s was : State) : State :=
  let s := if was.pcs.alive then s.emit (.pin "ALIVE" 0) else s
  let s := if was.pcs.mainOffOk then s.emit (.pin "MAIN_OFF_OK" 0) else s
  let s := if was.pcs.chipRst then s.emit (.pin "CHIP_RST_REQ" 0) else s
  s.errPin was.errN

/-- D3C: the main rails are gone, with the handshake of R471 or without; the shelves and every store not performed are lost. -/
def execD3c (s : State) : Answer :=
  .next ((s.rebuilt (fun r => r.rst = .por || r.rst = .porRet) s.pcs.straps true true).pinsOff s)

/-- POR: every entry is at its default, the straps are sampled, ERR_N is released. -/
def execPor (straps : BitVec 64) (s : State) : Answer :=
  .next (((s.rebuilt (fun _ => false) straps false false).pinsOff s).emit (.pin "ERR_N" 1))

/-! ### Start-up (R473 to R476) -/

/-- The clocks that start-up requests at t0. -/
def startClocks : List Clock :=
  [.mgt, .mesh, .time] ++ (List.finRange 8).map Clock.hmc ++ (List.finRange 12).map Clock.cmc

/-- Start-up halts in its phase. -/
def State.startHalts (s : State) : State := { s with pcs := { s.pcs with halted := true } }

/-- MAIN_PWRGD_RISE: phase CLOCKS. Back from D3cold, WAKE_N is released; retained entries that fail their check take their defaults. -/
def State.mainRise (s : State) (retained : Bool) : State :=
  let c := s.pcs
  if c.phase ≠ 0 || c.halted then s
  else
    let s := { s with pcs := { c with phase := 1, startAt := s.now, cold := false, wakeN := [], mainOffOk := false, chipRst := false } }
    let s := [0, 1].foldl (fun s p => if sget false c.wakeN p then s.emit (.pin (wakePin p) 1) else s) s
    let s := s.clkAsk startClocks 0
    if c.cold && !retained then
      (State.resetEnts s (fun r => r = .porRet)).fire uOds 0 3 { mUnit := uOds }
    else s

def execMainPwrgdRise (retained : Bool) (s : State) : Answer := .next (s.mainRise retained)

/-- CLK_ACK: a requested clock is stable. With the last clock of phase CLOCKS the ROM is read. With ARITH a retune ends, and the point follows
what the codes say by then. -/
def State.clkAcked (s : State) (c : Clock) : State :=
  if !s.pcs.clkReq.contains c || s.pcs.halted then s
  else
    let left := s.pcs.clkReq.filter (fun d => d ≠ c)
    let s := { s with pcs := { s.pcs with clkReq := left, phase := if s.pcs.phase = 1 && left.isEmpty then 2 else s.pcs.phase } }
    if c = .arith then s.retuned.pointFollow else s

def execClkAck (clk : Clock) (s : State) : Answer := .next (s.clkAcked clk)

/-- CLK_ACK_TIMEOUT: an acknowledgement misses 100 µs. -/
def execClkAckTimeout (clk : Clock) (s : State) : Answer :=
  .next (
    if s.pcs.clkReq.contains clk && !s.pcs.halted && decide (100000 ≤ since s.now s.pcs.clkAt) then s.startHalts.firePcs 7 else s)

/-- The identity registers as the mask configuration ROM and the straps fill them (Table 14.2). -/
def State.identity (s : State) : Identity :=
  { revision := Config.romRevision, subVendor := (s.pcs.straps.extractLsb' 0 16).toNat, subId := (s.pcs.straps.extractLsb' 16 16).toNat }

/-- STARTUP_ROM_CHECK: the check fills the identity entries. -/
def execStartupRomCheck (ok : Bool) (s : State) : Answer :=
  .next (
    if s.pcs.phase ≠ 2 || s.pcs.halted then s
    else if ok then { s with pcs := { s.pcs with romOk := true, phase := 3, ident := s.identity } }
    else s.startHalts.fire uOds 0 0 { mUnit := uOds })

/-- TRIM_RECALIBRATION_DONE: the ODS serves O, ALIVE starts, and the rails, point 0 and ARITH are requested. -/
def State.trimDone (s : State) : State :=
  if s.pcs.phase ≠ 3 || s.pcs.halted then s
  else
    let s := { s with pcs := { s.pcs with phase := 4, odsUp := true, aliveOn := !s.faults.grave } }
    let s := (List.range 16).foldl (fun s w => s.railTell w 3) s
    (s.vfAsk 0).clkAsk [.arith] 0

def execTrimRecalibrationDone (s : State) : Answer := .next s.trimDone

/-- One group of R475: its spare replaces the lowest failing tile; further ones leave their cabinets out. -/
def State.checkGroup (s : State) (failed : List Nat) (g : Nat) : State :=
  let bad := (List.range 24).map (fun i => 24 * g + i) |>.filter (fun t => failed.contains t)
  let dead := failed.contains (96 + g) || s.spareOf g = 0xFF02
  let s := if dead then s.setSpare g 0xFF02 else s
  match bad with
  | [] => s
  | t :: rest =>
    let (s, rest) :=
      if dead then (s, bad)
      else
        let s := s.setSpare g (1 + 256 * t)
        let s : State := { s with tiles := { s.tiles with phys := sput s.tiles.phys t (96 + g) },
                                  pcs := { s.pcs with sparesUsed := s.pcs.sparesUsed + 1 } }
        (s, rest)
    rest.foldl (fun s t => s.setCab (cabOf t) { s.cab (cabOf t) with out := true }) s

/-- TILE_SELFCHECK_DONE: the rails are closed, ARITH runs, and every physical tile has ended the check image. -/
def State.selfChecked (s : State) (failed : List Nat) : State :=
  let c := s.pcs
  if c.phase ≠ 4 || c.halted || c.vfWait || c.clkReq.contains .arith || c.railReq.any (fun r => r.2 = 3) then s
  else
    let s := { s with tiles := { s.tiles with failed := failed }, pcs := { c with tilesBad := failed.length } }
    let s := [0, 1, 2, 3].foldl (fun s g => s.checkGroup failed g) s
    let out := ((List.range 12).filter (fun k => (s.cab k).out)).length
    let s := { s with pcs := { s.pcs with outCabs := out, phase := 5 } }
    let s := failed.foldl (fun s t => s.fire uPcs 0 6 { mUnit := uPcs, mNum := t }) s
    if out = 12 then s.startHalts.firePcs 8 else s

def execTileSelfcheckDone (failed : List (Fin 100)) (s : State) : Answer :=
  .next (s.selfChecked (sortNat (failed.map (fun t => t.val))))

/-- C of R292 in GiB. -/
def chanC (caps : List Nat) : Nat := 2 ^ min 8 (Nat.log2 (caps.foldl min 256))

/-- Training marks the parts that it finds failed (R305, R312). -/
def State.partsFailed (s : State) (l : List (Nat × Nat)) : State :=
  l.foldl (fun s p => if p.2 < (if p.1 < 8 then 64 else s.shelves.ranks) then s.partFailed p.1 p.2 else s) s

/-- SHELF_TRAINING_DONE: a stack that fails is grave; a channel that fails leaves shelf 2 OFFLINE. Shelf 1 is zero-filled. -/
def State.shelvesTrained (s : State) (lost : Option Nat) (caps : List Nat) (ranks : Nat) (failed : List (Nat × Nat)) : State :=
  if s.pcs.phase ≠ 5 || s.pcs.halted then s
  else
    match lost with
    | some n => s.startHalts.fire uHbm n 4 { mUnit := uHbm, mNum := n }
    | none =>
      let fitted := s.pcs.straps.getLsbD 46
      let bad := (List.range 12).filter (fun c => decide (caps.getD c 0 < 16))
      let ok := fitted && bad.isEmpty && (ranks = 1 || ranks = 2 || ranks = 4)
      let h : Shelves := { s.shelves with mem := [], poison := [], hbmUp := 1, capState := if ok then 1 else 2,
                                          chanGib := if ok then chanC (caps.take 12) else 0, ranks := if ok then ranks else 0,
                                          caps := if ok then caps.take 12 else [] }
      let s := { s with shelves := h, pcs := { s.pcs with phase := 6, fillPtr := shelf2Base } }
      let s := [0, 1].foldl (fun s p => s.setPort p { s.port p with memActive := true }) s
      (if fitted then bad.foldl (fun s c => s.fire uCap c 4 { mUnit := uCap, mNum := c }) s else s).partsFailed failed

def execShelfTrainingDone (lostStack : Option (Fin 8)) (capGiB : List Nat) (ranks : Nat) (failed : List (Fin 20 × Nat)) (s : State) :
    Answer :=
  .next (s.shelvesTrained (lostStack.map (fun n => n.val)) capGiB ranks (failed.map (fun p => (p.1.val, p.2))))

/-- SHELF2_FILL_DONE: READY. -/
def execShelf2FillDone (s : State) : Answer :=
  .next (
    if s.pcs.phase ≠ 6 || s.pcs.halted then s
    else
      { s with pcs := { s.pcs with phase := 7, readyMs := since s.now s.pcs.startAt / 1000000,
                                   fillPtr := shelf2Base + 12 * s.shelves.chanBytes } })

/-! ### Block reset (R478) -/

/-- What BLK leaves of a slice: INV_DONE. -/
def Slice.blkKeeps (x : Slice) : Slice := { invDone := x.invDone }

/-- Every unit except TIME, AON and the ODS starts afresh (Table 16.9, column BLK). -/
def State.unitsAfresh (s : State) : State :=
  let out (c : Cabinet) : Cabinet := { out := c.out }
  let h := s.shelves
  { s with
    tiles := { s.tiles with tile := [], swap := {}, bundles := [] },
    sched := { cabs := (List.range 12).foldl (fun m k => sset {} m k (out (s.cab k))) [] },
    sqe := { nextReq := s.sqe.nextReq },
    gpes := [], hses := [], epm := {}, ssu := {}, mtu := {}, rsps := [],
    coh := { slices := (List.range 16).foldl (fun m i => sset {} m i (s.slice i).blkKeeps) [], deadAt := s.coh.deadAt },
    shelves := { mem := h.mem, poison := h.poison, hbmUp := 0, capState := if h.capState = 1 then 0 else h.capState, chanGib := h.chanGib,
                 ranks := h.ranks, caps := h.caps, parts := h.parts, copies := h.copies },
    fab := { ports := s.fab.ports.map (fun p => (p.1, { p.2 with button := false, presChg := false })) },
    faults := { s.faults with resets := [] } }

/-- What the dictionary server holds beside its entries goes: the stage, claims, armed sets, commands and counts. -/
def State.odsAfresh (s : State) : State :=
  let o := s.ods.noStage
  { s with ods := { o with claims := [], trestle := [], armCount := 0, cmds := [], discards := 0, lastRefusal := [], refusalCount := 0 } }

/-- The rail of a cabinet that sleeps is closed again; it is at level 2 until the switch has answered. -/
def State.railsOn (s : State) : State :=
  (List.range 12).foldl (fun s k => if sget 0 s.pcs.railReq k = 1 || sget 0 s.pcs.railReq k = 2 then s.railTell k 3 else s) s

/-- Every unit except TIME, AON and the ODS is reset (Table 16.9, column BLK). -/
def State.unitsReset (s : State) : State :=
  let s := s.unitsAfresh
  let s := [0, 1].foldl (fun s p => s.setPort p { s.port p with memActive := false, move := { (s.port p).move with phase := 0, moved := none } }) s
  let s := s.odsAfresh
  let s := s.resetClass (fun r => r ≠ .none_ && r ≠ .d3c && r ≠ .por && r ≠ .porRet)
  let s := ((List.range 6).foldl (fun s p => (s.fcfgApplied p).hpApplied p) s).railsOn
  let c := s.pcs
  let s := { s with pcs := { c with level := 0, entryBlock := 0, cabLevel := c.cabLevel.filter (fun k => sget 0 c.railReq k.1 = 3),
                                    entering := [], idleSince := (List.range 12).foldl (fun m k => sput m k s.now) [], testDue := none,
                                    arithSum := 0, arithAt := s.now, gatedSum := [], gateAt := [],
                                    quiesced := false, repCause := 0, repMask := 0, repAt := 0 } }
  s.pointFollow

/-- A store that a home slice has accepted waits for its line's fill (R362). -/
def State.storesHeld (s : State) : Bool :=
  (List.range 16).any (fun i => (s.slice i).misses.any (fun m => m.2.waiters.any (fun r => r.op.owns)))

/-- BLK_FLUSH_DONE: the flush of R326 goes on over the host links that are still up, and has ended when every line and every accepted
store has been written. -/
def execBlkFlushDone (s : State) : Answer :=
  .next (
    if s.pcs.blk ≠ 1 then s
    else
      let s := s.flushOn s.flushes
      if !s.flushed s.flushes || s.storesHeld then s
      else
        let s := [0, 1].foldl (fun s p => if s.linkUp p then s else s.logLost p ((s.lostLines p).map (fun a => a / 64))) s
        { s with pcs := { s.pcs with blk := 2 }, coh := { s.coh with flushing := false } })

/-- BLK_CARVE_WRITEBACK_DONE: every DIRTY way is written; the links go down, every fabric port is reset, and so is every unit. -/
def execBlkCarveWritebackDone (s : State) : Answer :=
  .next (
    if s.pcs.blk ≠ 2 then s
    else
      let s := s.carveEmpty
      let s := [0, 1].foldl (fun s p => if (s.port p).link = 0 then s else s.hlx p) s
      let s := [0, 1].foldl (fun s p =>
        match (s.port p).lostDue with
        | none => s
        | some l =>
          let s := s.logLost p l
          s.setPort p { s.port p with lostDue := none }) s
      let s := (List.range 6).foldl (fun s p => s.fpx p) s
      let err := s.errN
      let s := s.unitsReset.errPin err
      { s with pcs := { s.pcs with blk := 3 } })

/-- The shelves have retrained and BLK ends; an interrupted copy goes on at its pointer. Training runs the steps of Table 10.6 again, and
ends as at a start: a stack that fails is STACK_LOST, and BLK does not end; a channel that fails leaves shelf 2 OFFLINE (R292). -/
def State.retrained (s : State) (lost : Option Nat) (chans : List Nat) (failed : List (Nat × Nat)) : State :=
  if s.pcs.blk ≠ 3 then s
  else match lost with
    | some n => s.fire uHbm n 4 { mUnit := uHbm, mNum := n }
    | none =>
      let h := s.shelves
      let s := { s with pcs := { s.pcs with blk := 0 },
                        shelves := { h with hbmUp := 1, capState := if h.capState = 0 && chans.isEmpty then 1 else 2 } }
      let s := [0, 1].foldl (fun s p => s.setPort p { s.port p with memActive := true }) s
      let s := if h.capState = 0 then chans.foldl (fun s c => s.fire uCap c 4 { mUnit := uCap, mNum := c }) s else s
      (s.partsFailed failed).pcsCount 7

/-- BLK_SHELF_RETRAIN_DONE (R478, R312). -/
def execBlkShelfRetrainDone (lostStack : Option (Fin 8)) (lostChan : List (Fin 12)) (failed : List (Fin 20 × Nat)) (s : State) : Answer :=
  .next (s.retrained (lostStack.map (fun n => n.val)) (lostChan.map (fun c => c.val)) (failed.map (fun p => (p.1.val, p.2))))

/-! ### Unit resets (R497), ALIVE and PLDM -/

/-- UNIT_RESET_END: the unit takes work again; a tile's TILE_STATE is IDLE. -/
def State.unitResetEnd (s : State) (u i : Nat) : State :=
  let s := { s with faults := { s.faults with resets := s.faults.resets.filter (fun k => k ≠ u * 256 + i) } }
  if u = uTile then s.setTile i { s.tile i with resetting := false } else s

def execUnitResetEnd (unit : Fin 16) (inst : Nat) (s : State) : Answer :=
  .next (if s.faults.resets.contains (unit.val * 256 + inst) then s.unitResetEnd unit inst else s)

/-- ALIVE_TOGGLE: every 500 µs. -/
def execAliveToggle (s : State) : Answer :=
  .next (if s.pcs.aliveOn && !s.faults.grave && !s.pcs.cold then
      State.emit { s with pcs := { s.pcs with alive := !s.pcs.alive } } (.pin "ALIVE" (b2n !s.pcs.alive))
    else s)

/-- The core power estimate in W: the part's own reading (log 61). -/
def State.corePower (s : State) : BitVec 32 := Config.corePower s.now

/-- PLDM_REQUEST (R481): sensors 1 to 17 are temperatures, 18 is the power. -/
def execPldmRequest (sensor : Nat) (s : State) : Answer :=
  .next (
    if !s.pcs.odsUp || sensor = 0 || 18 < sensor then s
    else s.emit (.pldm sensor (if sensor = 18 then s.corePower else (s.sensor (sensor - 1)).signExtend 32)))

end Sys2Proof.Machine
end

