-- ==== Sys2Proof/Machine/View.lean ====
section
/-! DEFINITION. What a READ of an entry returns (R27 to R34, R63): stored entries, command states, counters, and the read-only entries
as views of the block's state, in the layouts of their chapters. -/
namespace Sys2Proof.Machine

/-! ### Identity and dictionary control (chapters 2, 14 and 18) -/

/-- The codes of the path instances (R35). -/
def Path.code : Path → Nat
  | .h0 => 1
  | .h1 => 2
  | .o => 3
  | .f => 4

/-- The armed trestle slots. -/
def Ods.armed (o : Ods) : Nat := (o.trestle.filter (fun t => t.2.state = 1)).length

/-- Data bytes in the stage (R50). -/
def Ods.stageBytes (o : Ods) : Nat := (o.stage.map (fun i => i.data.length)).foldl (· + ·) 0

/-- ODS_STATE (R64). A COMMIT is whole within one command, so bit 0 reads 0. -/
def Ods.stateBits (o : Ods) : Nat := 2 * b2n (!o.stage.isEmpty) + 4 * min 7 o.armed + 32 * b2n (o.armed = 8)

/-- CLAIM_SLOT (R64). -/
def claimBytes : Option Claim → Bytes
  | none => zeros 16
  | some c => natLe c.first 2 ++ natLe c.last 2 ++ natLe c.owner.path.code 1 ++ zeros 1 ++ natLe c.owner.node.toNat 2 ++ natLe c.seen 8

/-- TRESTLE_SLOT (Table 2.10). -/
def trestleBytes (t : TrestleSlot) : Bytes :=
  natLe t.state.toNat 1 ++ natLe (b2n t.holdover) 1 ++ natLe ((t.owner.map (fun w => w.path.code)).getD 0) 1 ++ zeros 1 ++
  natLe ((t.owner.map (fun w => w.node.toNat)).getD 0) 2 ++ natLe t.count 2 ++ zeros 8 ++ natLe t.due.toNat 8 ++ natLe t.firedAt 8

/-! ### Host ports (R417, R420) -/

/-- The D-state byte: 0, 3, or 0x83 for D3cold. -/
def State.dByte (s : State) (p : Nat) : Nat := if s.pcs.cold then 0x83 else (s.port p).dstate

/-- PORT_STATE of a host port. -/
def State.hostState (s : State) (p : Nat) : Bytes :=
  let h := s.port p
  natLe h.link 1 ++ natLe h.rate 1 ++ natLe h.width 1 ++ natLe h.flit 1 ++ natLe (s.dByte p) 1 ++
  natLe (b2n h.bme + 2 * b2n h.cacheEn + 4 * b2n h.memEn + 8 * b2n h.ide + 16 * b2n h.decoded) 1 ++ zeros 2 ++ natLe h.hlxAt 8

/-- HDM_STATE: DISABLED while the window is. -/
def State.hdmState (s : State) (p : Nat) : Bytes :=
  let h := s.port p
  let st := if s.winSize p = 0 then 0 else 1 + h.move.phase
  natLe st 1 ++ zeros 7 ++ natLe (if h.decoded then h.decBase else 0) 8 ++ natLe h.move.pointer 8 ++ natLe (s.winBase p) 8

/-- LOST_SUMMARY and LOST_LOG. -/
def Hlc.lostSummary (h : Hlc) : Bytes :=
  natLe h.lostLog.length 2 ++ natLe (b2n h.lostOver) 1 ++ zeros 1 ++ natLe h.lostHlx 4 ++ natLe h.lostLines 8 ++ natLe h.lostStores 8 ++
  natLe h.lostAt 8
def Hlc.lostBytes (h : Hlc) : Bytes := h.lostLog.flatMap (fun r => natLe r.1 8 ++ natLe r.2 4 ++ zeros 4)

/-! ### Queues and classes (R288) -/

/-- QUEUE_STATUS: a disabled queue reads zero; ACTIVE while a descriptor is eligible or a request of it is open. -/
def State.queueStatus (s : State) (q : Nat) : Bytes :=
  let x := s.queue q
  if !x.enabled then zeros 16
  else
    let n := s.sqSize q
    let head := x.pos + x.ready.length
    let busy := decide (x.pos < x.avail) || !x.order.isEmpty || !x.reads.isEmpty
    let st := if x.stalled then 3 else if busy then 2 else 1
    natLe (head % n) 2 ++ natLe x.tail 2 ++ natLe (x.cqPos % n) 2 ++ natLe (x.cqHead % n) 2 ++ natLe st 1 ++ natLe head 1 ++
    natLe (1 - head / n % 2) 1 ++ zeros 1 ++ natLe x.order.length 4

/-- CLASS_BOUND. -/
def Bound.bytes (b : Bound) : Bytes :=
  natLe b.r 4 ++ natLe b.cpu 4 ++ natLe b.mem 4 ++ natLe b.fab 4 ++ natLe b.bg 4 ++ natLe b.frames 2 ++ zeros 2 ++ natLe b.at_ 8

/-! ### Shelves, slices (R314, R340) -/

/-- A part of a range of controllers is FAILED. -/
def Shelves.anyFailed (h : Shelves) (lo hi : Nat) : Bool :=
  h.parts.any (fun p => decide (lo * 64 ≤ p.1) && decide (p.1 < hi * 64) && p.2 = 4)

/-- The copy that runs on a shelf: controller within the shelf, part and lines copied. -/
def Shelves.copyOf (h : Shelves) (low : Bool) : Nat × Nat × Nat :=
  match h.copies.find? (fun c => decide (c.ctl < 8) = low) with
  | some c => (if low then c.ctl else c.ctl - 8, c.part, c.pointer)
  | none => (0xFF, 0, 0)

/-- HBM_STATE: DEGRADED once a part has FAILED. -/
def State.hbmState (s : State) : Bytes :=
  let h := s.shelves
  let c := h.copyOf true
  if h.hbmUp = 0 then zeros 16 else
  natLe (if h.anyFailed 0 8 then 2 else 1) 1 ++ natLe c.1 1 ++ natLe c.2.1 1 ++ zeros 1 ++ natLe c.2.2 4 ++
  natLe (s.shelf1Top / 2 ^ 30) 4 ++ zeros 4

/-- CAP_STATE. -/
def State.capState (s : State) : Bytes :=
  let h := s.shelves
  let c := h.copyOf false
  if h.capState = 0 then zeros 16 else
  natLe (if h.capState = 1 && h.anyFailed 8 20 then 3 else h.capState) 1 ++ natLe h.ranks 1 ++ natLe h.chanGib 2 ++
  natLe (s.shelf2Bytes / 2 ^ 30) 4 ++ natLe c.1 1 ++ natLe c.2.1 1 ++ zeros 2 ++ natLe c.2.2 4

/-- STACK_STATUS and CHAN_STATUS. -/
def Shelves.stackStatus (h : Shelves) (n : Nat) : Bytes := (List.range 64).flatMap (fun p => natLe (h.part n p) 1)
def Shelves.chanStatus (h : Shelves) (n : Nat) : Bytes :=
  if h.capState = 0 && h.ranks = 0 then zeros 16 else
  (List.range 4).flatMap (fun r => natLe (if r < h.ranks then h.part (8 + n) r else 0xFF) 1) ++ zeros 12

/-- BG_DEBT: the largest debt on any bank of a controller, per kind. -/
def Shelves.debtBytes (h : Shelves) (ctl : Nat) : Bytes :=
  (List.range 6).flatMap (fun k =>
    natLe ((h.debt.filter (fun d => d.1 % 8 = k && d.1 / 8 % 32 = ctl)).foldl (fun m d => max m d.2) 0) 2) ++ zeros 4

/-- DCA_STATE. -/
def State.dcaState (s : State) : Bytes :=
  let c := s.coh
  let st := if c.flushing then 2 else if !c.invLeft.isEmpty then 3 else b2n s.dcaOn
  let inv := (List.range 16).foldl (fun m i => if (s.slice i).invDone then m + 2 ^ i else m) 0
  let dirty := (c.slices.map (fun x => (x.2.ways.filter (fun w => w.2.st = .ml || w.2.st = .mh)).length)).foldl (· + ·) 0
  natLe (b2n s.dcaOn) 1 ++ natLe st 1 ++ natLe inv 2 ++ natLe dirty 4 ++ zeros 8

/-- SNF_STATE. -/
def State.snfState (s : State) : Bytes :=
  let c := s.coh
  natLe (b2n (s.biDead 0)) 1 ++ natLe (b2n (s.biDead 1)) 1 ++ zeros 2 ++
  natLe ((c.slices.map (fun x => x.2.snf.length)).foldl (· + ·) 0) 4 ++ natLe c.deadAt 8

/-! ### Translation (R392) -/

def State.mtuState (s : State) : Bytes :=
  let m := s.mtu
  natLe (b2n m.forced) 1 ++ natLe m.walkers.length 1 ++ natLe m.waiting.length 2 ++
  natLe (m.owners.filter (fun o => o.2.mode ≠ 0)).length 4 ++ zeros 8

def CtxFault.bytes (c : CtxFault) : Bytes := natLe c.dropped 8 ++ natLe (b2n c.overflow) 1 ++ zeros 3 ++ natLe (min (2 ^ 32 - 1) c.faults) 4

def FaultQ.status (q : FaultQ) : Bytes := natLe q.tail 4 ++ natLe (b2n q.overflow) 1 ++ zeros 3 ++ natLe q.written 8

/-- INV_STATUS holds the counts of a completed invalidation; while one runs it reads zero. -/
def Inval.status (v : Inval) : Bytes :=
  if v.running then zeros 16 else natLe v.settled 4 ++ natLe v.cancelled 4 ++ natLe v.doneAt 8

/-! ### Programs, cabinets and tiles (R235, R259) -/

def State.progInfo (s : State) (n : Nat) : Bytes :=
  let g := s.prog n
  let i := g.image
  let runs := (s.sqe.reqs.filter (fun r => r.2.prog = n && decide (1 ≤ r.2.phase) && decide (r.2.phase ≤ 3))).length
  natLe g.state 1 ++ natLe (imgFrames i) 1 ++ natLe (imgNseg i) 2 ++ natLe (le i 60 4) 4 ++ natLe (le i 56 4) 4 ++
  natLe (imgPlacement i) 2 ++ natLe (imgFrameWords i) 2 ++ natLe runs 4 ++ zeros 12

/-- CAB_STATE: LOCKED once the locked run's request runs; while the cabinet drains for it, DRAINING (R255). -/
def Cabinet.bytes (c : Cabinet) (drains : Bool) : Bytes :=
  natLe (if c.out then 3 else if c.locked && !drains then 2 else b2n (c.draining || drains)) 1 ++
  natLe (c.frames.filter (fun f => f.2.req.isSome)).length 1 ++ natLe c.dispatch.length 2 ++ zeros 12

/-- FRAME_MAP: a free context reads 0xFF. -/
def Cabinet.frameMap (c : Cabinet) : Bytes :=
  (List.range 16).flatMap (fun n =>
    match sfind c.frames n with
    | none => List.replicate 32 0xFF
    | some f => natLe f.prog 1 ++ natLe f.idx 1 ++ natLe f.mask 1 ++ zeros 1 ++
        (List.range 8).flatMap (fun p => natLe (f.bases.getD p 0xFFFF) 2) ++ zeros 12)

def LockRun.bytes (l : LockRun) : Bytes :=
  if l.state ≤ 1 then natLe l.state 1 ++ zeros 31
  else natLe l.state 1 ++ natLe l.status 1 ++ zeros 2 ++ natLe l.sig 4 ++ natLe l.cycles 8 ++ natLe l.choices 8 ++ natLe l.endAt 8

/-- A cabinet drains for a locked run (R255 step 1). -/
def State.lockDrains (s : State) (k : Nat) : Bool := s.sched.lock.phase = 1 && decide (s.sched.lock.cab = k)

/-- TILE_STATE: the highest code that applies. -/
def State.tileState (s : State) (t : Nat) : Nat :=
  let y := s.tile t
  let c := s.cab (cabOf t)
  if y.resetting then 5
  else if s.tiles.failed.contains (s.physOf t) then 4
  else if y.trap.phase ≠ 0 then 3
  else if c.draining || s.lockDrains (cabOf t) then 2
  else b2n y.active.isSome

/-- CTX_STATE. -/
def State.ctxState (s : State) (t : Nat) : Bytes :=
  (List.range 16).flatMap (fun c =>
    let x := (s.tile t).ctx c
    if x.phase = 0 then zeros 4
    else
      let q := s.req x.req
      let st := if q.ending || x.phase = 5 then 4 else if x.phase = 2 then 1 else if x.phase = 3 then 2 else 3
      let allot := ((s.ctxSeg t x).map segAllot).getD 1
      natLe st 1 ++ natLe (allot - 1) 1 ++ natLe q.cls 1 ++ zeros 1)

/-- SWAP_STATUS: a swap that runs drains, then checks, then copies. -/
def State.swapStatus (s : State) : Bytes :=
  let w := s.tiles.swap
  let st := if !w.running then w.state else if !s.cabDrained (cabOf w.tile) then 1 else if !w.checked then 2 else 3
  natLe st 1 ++ natLe w.tile 1 ++ natLe w.old 1 ++ natLe w.spare 1 ++ natLe w.cause 1 ++ zeros 3 ++ natLe w.ended 8

/-- PHYS_MAP: a physical tile's logical tile, 0xFE for a spare, 0xFF for one mapped out. -/
def State.physMap (s : State) (p : Nat) : Nat :=
  match (List.range 96).find? (fun t => s.physOf t = p) with
  | some t => t
  | none => if 96 ≤ p && s.spareOf (p - 96) % 256 ≠ 2 then 0xFE else 0xFF

/-! ### Tables, rings and sessions (R172, R199) -/

/-- EPOCH_STATE: zero for a table that is in none of the states of Table 5.3. -/
def State.epochState (s : State) (n : Nat) : Bytes :=
  let t := s.table n
  if !t.live then zeros 48
  else
    natLe t.epoch 8 ++ natLe t.prev 8 ++ natLe t.genChanged 4 ++ natLe t.prevFrom 4 ++ natLe t.state 1 ++
    natLe (b2n t.remote + 2 * b2n (!t.failed.isEmpty)) 1 ++ zeros 2 ++ natLe t.applied 4 ++ natLe t.n 4 ++
    natLe (s.inboundParts n) 4 ++ natLe t.cursor 8

/-- RING_STATUS, and EV_RING_STATUS with its state HOLD. -/
def RingSt.bytes (r : RingSt) (ev : Bool) : Bytes :=
  let st := if r.ahead then 2 else if ev && r.batch.any (fun b => b.paused) then 3 else b2n r.batch.isSome
  natLe r.head 4 ++ natLe st 1 ++ zeros 3 ++ natLe r.done 8

/-- FLIP_RESULT: 0xFF for a table that the last flip did not name. -/
def State.flipBytes (s : State) : Bytes := (List.range 4096).flatMap (fun n => natLe (sget 0xFF s.epm.flip n) 1)

/-- CLASS_USE. -/
def State.classUse (s : State) (c : Nat) : Bytes :=
  let used := s.ringsUsed c
  natLe used 4 ++ natLe (rcRings (s.ringClass c) - used) 4

/-! ### Fabric, time (R458) -/

def State.gfrState (s : State) : Bytes :=
  natLe s.reachNodes 4 ++ natLe s.fab.tags.length 4 ++ natLe s.fab.pdIn.length 2 ++ natLe s.fabPortsUp 1 ++ zeros 5

/-- PORT_STATE of a fabric port: what training learnt is at its default from FPx to the next training (R456; log 87). -/
def FabPort.stateBytes (x : FabPort) : Bytes :=
  natLe x.state 1 ++
  (if x.state = fpUp || x.state = fpRetrain then
    natLe x.nbrNode 2 ++ natLe x.nbrPort 1 ++ natLe (x.spare.getD 0xFF) 1 ++ zeros 1 ++ natLe x.delay 2
  else zeros 7) ++ natLe x.changed 8

def FabPort.hpStatus (x : FabPort) : Bytes :=
  natLe (b2n x.present + 2 * b2n x.button + 4 * b2n x.presChg + 8 * b2n x.pwren) 4

/-- GTC_STATE: the upstream port is the enabled one whose TIME_ROLE says so. -/
def State.gtcState (s : State) : Bytes :=
  let g := s.gtc
  let up := ((List.range 6).find? (fun p => s.fenabled p && s.timeRole p = 1)).getD 0xFF
  natLe g.state 1 ++ natLe up 1 ++ natLe s.gmNode 2 ++ natLe (unsigned 32 g.offset) 4 ++ natLe g.delay 4 ++ natLe (unsigned 32 g.rate) 4 ++
  natLe s.gmHops 1 ++ zeros 15

/-! ### Power (R483) -/

def State.pcsState (s : State) : Bytes :=
  let c := s.pcs
  let at_ (n : Nat) : Nat := (List.range 12).foldl (fun m k => if sget 0 c.cabLevel k = n then m + 2 ^ k else m) 0
  let deepest := if c.level ≠ 0 then c.level else ((List.range 12).map (fun k => sget 0 c.cabLevel k)).foldl min 2
  natLe deepest 1 ++ natLe c.point 1 ++ natLe c.vfLimit 1 ++ natLe c.thermal 1 ++ natLe (s.dByte 0) 1 ++ natLe (s.dByte 1) 1 ++
  natLe (at_ 2) 2 ++ natLe s.tolerable 4 ++ natLe (at_ 1) 4 ++ natLe c.levelAt 8 ++ zeros 8

def State.capReport (s : State) : Bytes :=
  let c := s.pcs
  if c.repCause = 0 then zeros 32
  else natLe c.repCause 1 ++ natLe c.point 1 ++ natLe s.capPoint 1 ++ natLe c.vfLimit 1 ++ zeros 4 ++ natLe c.repMask 8 ++ natLe c.repAt 8 ++ zeros 8

def State.startState (s : State) : Bytes :=
  let c := s.pcs
  natLe c.phase 1 ++ natLe c.tilesBad 1 ++ natLe c.sparesUsed 1 ++ natLe c.outCabs 1 ++ natLe c.readyMs 4 ++ natLe c.fillPtr 8 ++ zeros 16

def State.sensorBytes (s : State) : Bytes :=
  (List.range 17).flatMap (fun i => natLe (s.sensor i).toNat 2) ++ zeros 2 ++ natLe s.corePower.toNat 4 ++ zeros 24

/-! ### Faults (R487 to R489) -/

def FirstError.bytes (f : FirstError) : Bytes :=
  natLe (b2n f.valid + 2 ^ 52 * (f.queue % 2 ^ 8) + 2 ^ 60 * (f.merged % 2 ^ 16) + 2 ^ 76 * (f.maxClass % 8) + 2 ^ 79 * (f.cls % 8) +
    2 ^ 82 * (f.source % 64) + 2 ^ 88 * (f.access % 16) + 2 ^ 92 * (f.mNum % 2 ^ 16) + 2 ^ 108 * (f.mUnit % 16) + 2 ^ 112 * (f.aspace % 16) +
    2 ^ 116 * (f.acid % 2 ^ 12)) 16 ++ natLe f.addr 8 ++ natLe f.gtc 8

def State.blockFault (s : State) : Bytes :=
  let f := s.faults
  natLe f.maxClass 1 ++ natLe (b2n s.errN + 2 * b2n f.grave + 4 * b2n f.grave) 1 ++ natLe f.cdUnit 1 ++ natLe f.cdSource 1 ++
  natLe f.cdInst 2 ++ zeros 2 ++ natLe f.cdGtc 8 ++ natLe f.dGtc 8 ++ zeros 8

/-! ### READ -/

/-- A command entry's state as a READ returns it (R63). -/
def CmdState.bytes (c : CmdState) : Bytes := natLe c.state.toNat 1 ++ natLe c.code.toNat 1 ++ zeros 2

/-- The value that a READ of index:sub returns. GFR_STATE, PCS_STATE and GTC_STATE, whose values follow from others of the machine, stand at
their defaults until the dictionary serves after a start (log 103). -/
def State.value (s : State) (r : EntRow) (ix sub : Nat) : Bytes :=
  let n := r.inst ix sub
  let ctr := s.ctrBytes ix sub (r.size / 8)
  let hp := (ix / 0x200) % 2
  let fu := ix / 0x100 % 16
  let o := s.ods
  match r.acc with
  | .cmd => (s.cmd ix sub).bytes
  | .rw => s.rd ix sub
  | .rwq => s.rd ix sub
  | .ro =>
    match r.ent with
    | .capRom => capRom
    | .variant => natLe Config.romVariant 8
    | .maskRev => natLe Config.romRevision 2
    | .romDigest => (List.range 48).map Config.romDigestByte
    | .stageOwner => natLe ((o.stageOwner.map (fun w => w.path.code)).getD 0) 1
    | .stageOwnerNode => natLe ((o.stageOwner.map (fun w => w.node.toNat)).getD 0) 2
    | .stageEntries => natLe o.stage.length 2
    | .stageBytes => natLe o.stageBytes 4
    | .stageDiscards => natLe o.discards 4
    | .lastRefusal => bytesAt o.lastRefusal 0 32
    | .refusalCount => natLe o.refusalCount 4
    | .odsState => natLe o.stateBits 4
    | .claimSlot => claimBytes (sfind o.claims sub)
    | .trestleSlot => trestleBytes (sget {} o.trestle sub)
    | .portState => s.hostState hp
    | .portCounts => ctr
    | .hdmState => s.hdmState hp
    | .lostSummary => (s.port hp).lostSummary
    | .lostLog => bytesAt (s.port hp).lostBytes 0 4096
    | .queueStatus => s.queueStatus sub
    | .queueCounts => ctr
    | .hbmState => s.hbmState
    | .carveCounts => ctr
    | .stackStatus => s.shelves.stackStatus sub
    | .stackCounts => ctr
    | .capState => s.capState
    | .chanStatus => s.shelves.chanStatus sub
    | .chanCounts => ctr
    | .dcaState => s.dcaState
    | .sliceCounts => ctr
    | .bgCounts => ctr
    | .bgDebt => s.shelves.debtBytes sub
    | .snfState => s.snfState
    | .snfCounts => ctr
    | .atomCounts => ctr
    | .mtuState => s.mtuState
    | .mtuCounts => ctr
    | .granuleResult => bytesAt s.mtu.result 0 16
    | .invStatus => (sget {} s.mtu.inv sub).status
    | .ctxFault => (s.ctxFault n).bytes
    | .fqStatus => (s.fq sub).status
    | .orderCounts => ctr
    | .loadResult => bytesAt s.sched.result 0 32
    | .progInfo => s.progInfo sub
    | .cabState => (s.cab sub).bytes (s.lockDrains sub)
    | .cabCounts => ctr
    | .frameMap => (s.cab sub).frameMap
    | .tileState => natLe (s.tileState n) 1
    | .tilePhys => natLe (s.physOf n) 1
    | .tileCounts => ctr.take 56 ++ natLe (min (2 ^ 64 - 1) (s.idleCycles n)) 8
    | .ctxState => s.ctxState n
    | .swapStatus => s.swapStatus
    | .spareState => natLe (s.spareOf sub) 2
    | .physMap => natLe (s.physMap sub) 1
    | .numCounts => ctr
    | .histSlot =>
      let k := (ix - 0x5802) * 256 + sub
      (List.range 256).flatMap (fun b => natLe (sget 0 (s.tile (k / 4)).hist (k % 4 * 256 + b)) 4)
    | .lockResult => s.sched.lock.bytes
    | .timingChoices => ctr
    | .gpeCounts => ctr
    | .tableCounts => ctr
    | .epmGen => natLe s.epm.gen 4
    | .epmCounts => ctr
    | .flipResult => s.flipBytes
    | .ringStatus => (s.ring sub).bytes false
    | .epochState => s.epochState n
    | .ssuCounts => ctr
    | .sessionResult => bytesAt s.ssu.result 0 64
    | .evRingStatus => (s.evRing sub).bytes true
    | .hseCounts => ctr
    | .classUse => s.classUse sub
    | .pdInBound => natLe s.sqe.inb.bound 4
    | .classCounts => ctr
    | .classBound => (s.cls sub).bound.bytes
    | .gfrState => if s.pcs.odsUp then s.gfrState else r.default
    | .gfrCounts => ctr
    | .fportState => (s.fport (ix / 0x100 - 0x81)).stateBytes
    | .fportCounts => ctr
    | .hpStatus => (s.fport (ix / 0x100 - 0x81)).hpStatus
    | .hopSeenMax => natLe (s.fport (ix / 0x100 - 0x81)).hopMax 4
    | .pcsState => if s.pcs.odsUp then s.pcsState else r.default
    | .capReport => s.capReport
    | .straps => natLe s.pcs.straps.toNat 8
    | .startState => s.startState
    | .sensors => s.sensorBytes
    | .pcsCounts => ctr
    | .gtcNow => natLe s.now 8
    | .gtcState => if s.pcs.odsUp then s.gtcState else r.default
    | .gtcCounts => ctr
    | .faultStatus => natLe (s.faultInst fu sub).status.toNat 8
    | .firstError => (s.faultInst fu sub).first.bytes
    | .faultCounts =>
      let f := s.faultInst fu sub
      natLe f.cntA 8 ++ natLe f.cntB 8 ++ natLe f.cntC 8 ++ natLe f.cntD 8
    | .blockFault => s.blockFault
    | _ => r.default

/-- Who holds an entry (Table 2.1, HELD): 1 the stage, 2 an armed set. -/
def Ods.held (o : Ods) (ix sub : Nat) : Nat :=
  if o.trestle.any (fun t => t.2.state = 1 && t.2.items.any (fun i => i.index = ix && i.sub = sub)) then 2
  else b2n (o.stage.any (fun i => i.index = ix && i.sub = sub))

/-- The claim slot that covers an index (Table 2.1); 0xFF for none. -/
def Ods.claimOver (o : Ods) (ix : Nat) : Nat :=
  ((o.claims.find? (fun c => decide (c.2.first ≤ ix) && decide (ix ≤ c.2.last))).map (fun c => c.1)).getD 0xFF

/-- Type and access codes (Tables 2.1 and 2.2). -/
def Ty.code : Ty → Nat
  | .u8 => 1
  | .u16 => 2
  | .u32 => 3
  | .u64 => 4
  | .bool => 7
  | .bits => 8
  | .blob => 0xA
  | .cmd => 0xB
def Acc.code : Acc → Nat
  | .ro => 1
  | .rw => 2
  | .rwq => 4
  | .cmd => 5

/-- RESET and PORT of the describe record. -/
def Rst.code : Rst → Nat × Nat
  | .none_ => (0, 0)
  | .flr x => (1, x)
  | .hl x => (2, x)
  | .fp x => (3, x)
  | .blk => (4, 0)
  | .d3c => (5, 0)
  | .por => (6, 0)
  | .porRet => (6, 0)

/-- The describe record of an entry (Table 2.1). -/
def State.describe (s : State) (r : EntRow) (ix sub : Nat) : Bytes :=
  let ret := b2n (r.rst = .porRet)
  natLe r.ty.code 1 ++ natLe r.acc.code 1 ++ natLe (r.rst.code.1 + 16 * r.rst.code.2 + 128 * ret) 1 ++ natLe r.paths 1 ++
  natLe r.size 4 ++ natLe (s.ods.held ix sub) 1 ++ natLe (s.ods.claimOver ix) 1 ++ zeros 6

end Sys2Proof.Machine
end

