-- ==== Sys2Proof/Machine/Check.lean ====
section
/-! DEFINITION. The checks of a dictionary change beyond form, access and size: value ranges (R7, R8, R29, R504 and the chapters), quiescence
(R33), the cross-entry checks (R53), and the configurations that the admission test sees (R58, R284). -/
namespace Sys2Proof.Machine

def inRange (v lo hi : Nat) : Bool := decide (lo ≤ v) && decide (v ≤ hi)

/-! ### Value ranges, by entry (step 7 of R39)

A value that leaves its entry disabled is held to its reserved bits and encodings and its enable field alone (R504). -/

/-- A format code with a block mode is no reserved encoding (Tables 3.1, 3.2; R71). -/
def blkOk (fmt blk : Nat) : Bool := decide (fmt ≤ 9) && blk ≠ 3 && (blk = 0 || decide (3 ≤ fmt))

/-- A row's elements are whole blocks. -/
def blkDivides (blk dim : Nat) : Bool := blk = 0 || dim % (if blk = 1 then 32 else 16) = 0

/-- A vector that the port's function has enabled (R402). -/
def State.vectorOk (s : State) (p v : Nat) : Bool := decide (v < (s.port p).vectors)

/-- TABLE_DESC (Table 4.1). -/
def tableDescOk (b : Bytes) : Bool :=
  fld b 505 7 = 0 && fld b 441 7 = 0 && fld b 148 1 = 0 && fld b 64 22 = 0 && tdKind b ≠ 3 && tdDefault b ≠ 3 && blkOk (tdFmt b) (tdBlk b) &&
  (!tdValid b ||
    (tdBase b % 64 = 0 && tdDirBase b % 64 = 0 && (tdKind b = 2 || tdDirBase b = 0) && decide (tdDefSlot b ≤ tdRowsM1 b) &&
     inRange (fld b 231 8) 1 254 && fld b 239 1 = 0 && !(fld b 199 8 = 255 && fld b 176 23 ≠ 0) &&
     inRange (tdStride b) (tdRowBytes b) 16384 && blkDivides (tdBlk b) (tdDim b) && decide (tdDirLog b ≤ 40)))

/-- EPOCH_CFG (Table 5.10). -/
def epochCfgOk (b : Bytes) : Bool :=
  fld b 448 7 = 0 && fld b 384 7 = 0 && fld b 0 208 = 0 && ecVer b % 64 = 0 && ecSb b % 64 = 0

/-- RING_CFG and EV_RING_CFG (R172, R199). -/
def ringCfgOk (b : Bytes) : Bool :=
  decide (le b 8 2 < 4096) && zeroIn b 12 4 && decide (le b 11 1 ≤ 1) && (le b 11 1 = 0 || inRange (le b 10 1) 4 16)

/-- SPILL_CFG (R199). -/
def spillCfgOk (b : Bytes) : Bool :=
  le b 0 8 % 256 = 0 && decide (le b 8 2 < 4096) && inRange (le b 10 1) 8 32 && decide (le b 11 1 ≤ 7) && zeroIn b 12 4 && zeroIn b 24 8

/-- RING_CLASS (Table 6.2, R180). -/
def ringClassOk (b : Bytes) : Bool :=
  fld b 192 320 = 0 && fld b 137 23 = 0 && fld b 106 6 = 0 && fld b 100 4 = 0 && fld b 88 8 = 0 && fld b 76 4 = 0 &&
  blkOk (rcFmt b) (rcBlk b) &&
  (!rcOn b ||
    (inRange (rcRings b) 1 1048576 && inRange (rcGuard b) 1 16 && inRange (rcNb b) 2 32784 && decide (rcGuard b < rcNb b) &&
     decide (rcNb b - rcGuard b ≤ 32768) && rcBase b % 4096 = 0 && blkDivides (rcBlk b) (rcDim b)))

/-- CLASS_CFG (Table 9.5, R274). -/
def classCfgOk (b : Bytes) : Bool :=
  fld b 0 320 = 0 &&
  (fld b 320 1 = 0 ||
    (fld b 448 64 % 64 = 0 && decide (fld b 416 32 ≤ 50000000) && (fld b 416 32 = 0 || fld b 400 16 ≠ 0) &&
     inRange (fld b 368 32) 1 1000000 && fld b 356 12 ≠ 0 && decide (fld b 325 7 ≤ 100) && inRange (fld b 322 3) 1 6))

/-- SQ_CFG (Table 9.1, R261). -/
def State.sqCfgOk (s : State) (q : Nat) (b : Bytes) : Bool :=
  fld b 192 7 = 0 && fld b 128 7 = 0 && fld b 96 9 = 0 && fld b 2 78 = 0 &&
  (fld b 0 1 = 0 ||
    (inRange (fld b 105 5) 4 16 && fld b 199 57 % 64 = 0 && fld b 135 57 % 16 = 0 && s.vectorOk (q / 128) (fld b 88 8) &&
     s.vectorOk (q / 128) (fld b 80 8)))

/-- ADM_CFG (R288). -/
def admCfgOk (b : Bytes) : Bool :=
  inRange (le b 0 4) 1 1000000 && decide (le b 4 4 ≤ 130000) && decide (le b 12 1 ≤ 100) && zeroIn b 13 19

/-- HBM_CFG and CAP_CFG (R314, R292). -/
def hbmCfgOk (b : Bytes) : Bool :=
  decide (le b 0 1 ≤ 1) && decide (le b 1 1 ≤ 1) && decide (le b 2 1 ≤ 64) && zeroIn b 3 1 && le b 4 2 ≠ 0 && le b 6 2 ≠ 0
def State.capCfgOk (s : State) (b : Bytes) : Bool :=
  decide (le b 0 1 ≤ 1) && decide (le b 1 1 ≤ 1) && le b 2 2 ≠ 0 && le b 4 2 ≠ 0 && zeroIn b 6 10 && !(le b 0 1 = 1 && s.shelves.ranks = 1)

/-- BG_WHEEL (R308). -/
def wheelOk (w : Bytes) : Bool := w.all (fun c => inRange c.toNat 1 5) && w.any (fun c => c.toNat = 1)

/-- MIG_CFG and CTX_CFG (R392). -/
def migCfgOk (b : Bytes) : Bool :=
  le b 0 8 % 4096 = 0 && decide (le b 0 8 < 768 * 2 ^ 30) && (le b 8 1 = 0 || inRange (le b 8 1) 10 24) && decide (le b 9 1 < 8) &&
  decide (16 ≤ le b 10 2) && inRange (le b 12 4) 1 10000 && zeroIn b 16 16
def ctxCfgOk (b : Bytes) : Bool :=
  fld b 84 11 = 0 && fld b 100 4 = 0 && zeroIn b 13 19 && (fld b 96 1 = 0 || (le b 0 8 % 4096 = 0 && decide (le b 0 8 < 2 ^ 42)))

/-- FQ_CFG and FQ_HEAD (R392). -/
def State.fqCfgOk (s : State) (p : Nat) (b : Bytes) : Bool :=
  decide (le b 9 1 < 4) && zeroIn b 16 16 &&
  (fld b 72 1 = 0 ||
    (le b 0 8 % 4096 = 0 && inRange (le b 8 1) 6 16 && s.vectorOk p (le b 10 1) && s.vectorOk p (le b 11 1) && inRange (le b 12 4) 1 1000))
def State.fqHeadOk (s : State) (p v : Nat) : Bool :=
  let n := s.fqSize p
  decide (v < n) && decide ((v + n - s.fqHead p % n) % n ≤ ((s.fq p).tail + n - s.fqHead p % n) % n)

/-- STAGE_CFG and HDM_WINDOW (R403, R408, R420). -/
def State.stageCfgOk (s : State) (b : Bytes) : Bool :=
  let a := le b 0 8
  decide (le b 8 2 < 4096) && decide (le b 10 1 ≤ 1) && zeroIn b 11 5 &&
  (le b 10 1 = 0 ||
    (a % 2 ^ 21 = 0 && (decide (2 ^ 32 + a ≤ s.shelf1Top) || (inShelf2 a && decide (2 ^ 32 + a ≤ shelf2Base + s.shelf2Bytes)))))
def State.hdmWindowOk (s : State) (b : Bytes) : Bool :=
  decide (le b 9 2 < 4096) && zeroIn b 11 5 &&
  (le b 8 1 = 0 || (inRange (le b 8 1) 30 38 && s.winFits (le b 0 8) (2 ^ le b 8 1)))

/-- WINDOW (Table 15.1, R422). -/
def State.windowOk (s : State) (b : Bytes) : Bool :=
  fld b 0 45 = 0 && (wnLog b = 0 || (inRange (wnLog b) 21 36 && decide (wnLen b ≤ 16) && s.winFits (wnBase b) (2 ^ wnLog b)))

/-- ROUTE (Table 15.5) and GFR_CFG (R458). -/
def routeOk (b : Bytes) : Bool :=
  decide (rtLen b ≤ 16) && decide (rtPrimary b ≤ 5) && decide (rtAlternate b ≤ 5) && fld b 0 34 = 0
def gfrCfgOk (b : Bytes) : Bool :=
  inRange (le b 0 4) 100 100000 && inRange (le b 4 2) 1 40 && inRange (le b 6 2) 5 1000 && inRange (le b 8 4) 100 100000 && zeroIn b 12 4

/-- No port but `p` is UPSTREAM, and the device is no grandmaster (R448, R458). -/
def State.onlyUpstream (s : State) (p : Nat) : Bool :=
  !s.isGm && (List.range 6).all (fun q => q = p || s.timeRole q ≠ 1)

/-- PORT_CFG of a fabric port (R458, R477). -/
def State.fportCfgOk (s : State) (p : Nat) (b : Bytes) : Bool :=
  let role := le b 0 1 / 4 % 4
  decide (le b 0 1 < 16) && role ≠ 3 && zeroIn b 1 1 && zeroIn b 12 4 &&
  (le b 0 1 % 2 = 0 ||
    (s.pcs.straps.getLsbD (40 + p) && le b 2 2 ≠ 0 && inRange (le b 4 4) 1 3600 && (role ≠ 1 || s.onlyUpstream p)))

/-- HP_CTL and GTC_CFG (R458). -/
def hpCtlOk (b : Bytes) : Bool := decide (le b 0 4 < 128) && le b 0 4 / 2 % 4 ≠ 3 && le b 0 4 / 8 % 4 ≠ 3
def State.gtcCfgOk (s : State) (b : Bytes) : Bool :=
  decide (le b 0 4 < 4) && inRange (le b 4 4) 16 10000 && zeroIn b 12 4 &&
  (le b 0 1 % 2 = 0 || (List.range 6).all (fun q => s.timeRole q ≠ 1))

/-- A reaction byte of a source (Table 17.6): what its class must include, and nothing beyond what it may. -/
def reactionOk (u c x : Nat) : Bool :=
  match sourceClass u c with
  | 1 => decide (x < 4)
  | 2 => decide (x < 8)
  | 3 => x &&& 0xD8 = (if hasUnitReset u c then 8 else 16)
  | 4 => x &&& 0xDE = 2
  | _ => x = 0
def reactionsOk (u : Nat) (b : Bytes) : Bool := (List.range 64).all (fun c => reactionOk u c (le b c 1))

/-- FAULT_IRQ_Hx: the vector is held to R402 where bit 8 enables it. -/
def State.faultIrqOk (s : State) (p v : Nat) : Bool := decide (v < 512) && (decide (v < 256) || s.vectorOk p (v % 256))

/-- A value lies in its entry's range, with every reserved bit zero (step 7). Every entry whose range its chapter leaves whole takes any
value of its size. -/
def State.valueOk (s : State) (r : EntRow) (ix sub : Nat) (b : Bytes) : Bool :=
  let v := leNat b
  let fp := ix / 0x100 - 0x81
  let u := ix / 0x100 % 16
  (r.ty ≠ .bool || decide (v ≤ 1)) &&
  match r.ent with
  | .stageLease => inRange v 100 3600000
  | .claimLease => inRange v 100 3600000
  | .eventEnable => decide (v < 16)
  | .hdmWindow => s.hdmWindowOk b
  | .moveRate => inRange v 1 200
  | .stageCfg => s.stageCfgOk b
  | .sqCfg => s.sqCfgOk sub b
  | .hbmCfg => hbmCfgOk b
  | .capCfg => s.capCfgOk b
  | .bgWheel => wheelOk (bytesAt b 0 16) && wheelOk (bytesAt b 16 16)
  | .scrubPeriod => inRange v 3600 604800
  | .biTimeout => inRange v 1 1000
  | .atomCfg => decide (le b 0 1 ≤ 2) && zeroIn b 1 7
  | .migCfg => migCfgOk b
  | .ctxCfg => ctxCfgOk b
  | .fqCfg => s.fqCfgOk sub b
  | .fqHead => s.fqHeadOk sub v
  | .regionAttr => decide (v < 4)
  | .resGranule => inRange v 6 12
  | .progStoreCfg => le b 0 8 % 4096 = 0 && decide (le b 8 4 < 4096)
  | .pdTimeout => inRange v 10 10000
  | .tableDesc => tableDescOk b
  | .drainGrace => inRange v 1 10000
  | .ringCfg => ringCfgOk b
  | .ringTail => decide (v < s.ringSize sub)
  | .epochCfg => epochCfgOk b
  | .spillCfg => spillCfgOk b
  | .sessionTtl => inRange v 60 2592000
  | .ringClass => ringClassOk b
  | .evRingCfg => ringCfgOk b
  | .evRingTail => decide (v < s.evSize sub)
  | .admCfg => admCfgOk b
  | .classCfg => classCfgOk b
  | .gfrCfg => gfrCfgOk b
  | .route => routeOk b
  | .bcastMask => decide (v < 64)
  | .fportCfg => s.fportCfgOk fp b
  | .hpCtl => hpCtlOk b
  | .window => s.windowOk b
  | .idleCfg => inRange (le b 0 4) 10 1000000 && decide (le b 4 4 < 16)
  | .capPoint => decide (v ≤ 2)
  | .wakeEn => decide (v < 4)
  | .gtcCfg => s.gtcCfgOk b
  | .reaction => reactionsOk u b
  | .faultIrq => s.faultIrqOk sub v
  | _ => true

/-! ### Quiescence and the other STATE checks (step 8) -/

/-- A granule of a DPA range is owned by an address context. -/
def State.ownedIn (s : State) (lo hi : Nat) : Bool :=
  s.mtu.owners.any (fun o => o.2.mode = 1 && decide (lo < 2 ^ 21 * (o.1 + 1)) && decide (2 ^ 21 * o.1 < hi))

/-- HBM_CFG (R298, R306): the new value comes with `v`, which holds it. -/
def State.hbmCfgFree (s v : State) : Bool :=
  s.shelves.carve.isEmpty && s.shelves.copies.isEmpty && (v.spareEn || !s.shelves.mapHolds 0 8) && !s.ownedIn v.shelf1Top s.shelf1Top

/-- CAP_CFG (R306, R314): a change of RANK_SPARE_EN affects the highest rank's share of shelf 2. -/
def State.capCfgFree (s v : State) : Bool :=
  let h := s.shelves
  let on (x : State) : Bool := x.rdN 0x3100 0 0 1 = 1
  let top := 12 * h.chanBytes
  h.copies.all (fun c => decide (c.ctl < 8)) && (on v || !h.mapHolds 8 20) &&
  (on v = on s || h.ranks = 0 || !s.ownedIn (shelf2Base + top / h.ranks * (h.ranks - 1)) (shelf2Base + top))

/-- CTX_CFG (R392): no TLB or walk-cache entry of the context and no transfer under it. -/
def State.ctxIdle (s : State) (acid : Nat) : Bool :=
  let m := s.mtu
  let tlb (l : List TlbEnt) : Bool := l.all (fun e => e.acid ≠ acid)
  let walk (w : Walk) : Bool := w.acid ≠ acid
  m.micro.all (fun t => tlb t.2) && m.cab.all (fun t => tlb t.2) && tlb m.ctl && m.walkC.all (fun w => w.acid ≠ acid) &&
  m.walkers.all (fun w => walk w.2) && m.waiting.all walk && m.atsWait.all walk && (s.matching (fun a _ => a = acid)).isEmpty &&
  s.tiles.tile.all (fun t => t.2.xfers.all (fun x => x.2.phase = 3 || (s.req x.2.req).acid ≠ acid))

/-- FQ_CFG (R392). -/
def State.fqIdle (s : State) (p : Nat) : Bool := !s.fqOn p || ((s.fq p).batch.isEmpty && (s.fq p).tail = s.fqHead p)

/-- TABLE_DESC (R101, R145): VALID may only be cleared, and of a versioned table only in SERVING without inbound parts. -/
def State.tableFree (s v : State) (n : Nat) : Bool :=
  !tdValid (s.tableDesc n) || (!tdValid (v.tableDesc n) && (!(s.table n).live || s.tableIdle n))

/-- The owning unit lets the entry change now; `v` is the state with the whole change in its entries. -/
def State.stateOk (s v : State) (r : EntRow) (ix sub : Nat) : Bool :=
  match r.ent with
  | .hdmWindow => !(s.port (ix / 0x200 % 2)).decoded
  | .sqCfg => s.sqQuiet sub
  | .hbmCfg => s.hbmCfgFree v
  | .capCfg => s.capCfgFree v
  | .dcaEnable => v.rdN ix sub 0 1 = 0 || (!s.coh.flushing && (List.range 16).all (fun i => (s.slice i).invDone))
  | .migCfg => (List.range 4096).all (fun a => !(s.ctxOn a && s.counterMode a))
  | .ctxCfg => s.ctxIdle (r.inst ix sub)
  | .fqCfg => s.fqIdle sub
  | .progStoreCfg => s.sched.progs.all (fun p => p.2.state ≠ 2)
  | .tableDesc => s.tableFree v (r.inst ix sub)
  | .ringCfg => s.ringQuiet sub
  | .ssuSeed => s.noSession && s.evAllOff
  | .spillCfg => s.noSession && s.evAllOff
  | .ringClass => s.ringsUsed sub = 0 && s.evAllOff
  | .evRingCfg => s.evQuiet sub
  | .nodeId => s.noPortUp
  | _ => true

/-! ### Cross-entry checks (R53, step 9) -/

/-- A refusal: its status (Table 2.4), the step of R39, the entry where it is not the request's own, and ADM's class and term. -/
structure Refused where
  status : Nat
  step   : Nat
  at_    : Option (Nat × Nat) := none
  cls    : Nat := 0xFFFF
  term   : Nat := 0
  deriving DecidableEq, Repr

def noEntry : Refused := ⟨1, 2, none, 0xFFFF, 0⟩
def badAccess : Refused := ⟨2, 3, none, 0xFFFF, 0⟩
def badType : Refused := ⟨3, 6, none, 0xFFFF, 0⟩
def badRange : Refused := ⟨4, 7, none, 0xFFFF, 0⟩
def badState : Refused := ⟨5, 8, none, 0xFFFF, 0⟩
def isBusy : Refused := ⟨6, 5, none, 0xFFFF, 0⟩
def isClaimed : Refused := ⟨7, 4, none, 0xFFFF, 0⟩
def refusedAt (ix sub : Nat) : Refused := ⟨8, 9, some (ix, sub), 0xFFFF, 0⟩

/-- R171's conditions on the EPOCH_CFG with which a descriptor becomes VALID. -/
def epochFits (d e : Bytes) : Bool :=
  (tdKind d ≠ 2 || ecVer e = 0) && (tdKind d = 2 || ecHome e = 0) &&
  (!tdImm d || (ecSb e = 0 && ecSlots e = 1 && ecVer e = 0))

/-- A class that is enabled has its program, and its cabinets lie within the program's (R274). -/
def State.classHasProg (v : State) (c : Nat) : Bool :=
  let g := v.prog (v.clsProg c)
  g.state = 2 && v.clsPlacement c &&& imgPlacement g.image = v.clsPlacement c

/-- The cross-entry checks that an entry's owning unit makes: `s` as it stands, `v` as it would stand. VALID refuses EPOCH_CFG and
SHARD_MAP while it is in force (R171, R101). -/
def State.crossCheck (s v : State) (r : EntRow) (ix sub : Nat) : Option Refused :=
  let n := r.inst ix sub
  match r.ent with
  | .epochCfg => if tdValid (s.tableDesc n) then some { badState with at_ := some (ix, sub) } else none
  | .shardMap =>
    if (List.range 4096).any (fun t => let d := s.tableDesc t; tdValid d && tdPush d && tdMap d = sub) then
      some { badState with at_ := some (ix, sub) }
    else none
  | .tableDesc =>
    let d := v.tableDesc n
    if tdValid d && !tdValid (s.tableDesc n) && !epochFits d (v.epochCfg n) then some (refusedAt ix sub) else none
  | .classCfg =>
    if v.clsOn sub then
      if v.classHasProg sub then none else some { refusedAt ix sub with cls := sub, term := 1 }
    else if s.clsOn sub && (List.range 256).any (fun q => v.sqN q 0 1 = 1 && v.sqClass q = sub) then
      some { refusedAt ix sub with cls := sub, term := 0xA }
    else none
  | .sqCfg => if v.sqN sub 0 1 = 1 && !v.clsOn (v.sqClass sub) then some (refusedAt ix sub) else none
  | .fportCfg =>
    let p := ix / 0x100 - 0x81
    if v.fenabled p && v.timeRole p = 1 && !v.onlyUpstream p then some (refusedAt ix sub) else none
  | .gtcCfg => if v.isGm && (List.range 6).any (fun q => v.timeRole q = 1) then some (refusedAt ix sub) else none
  | _ => none

/-! ### The configurations that a change is tested against (R53, R58, R284) -/

/-- The ranges of Table 2.8. -/
def admRange (ix : Nat) : Bool :=
  inRange ix 0x2800 0x28FF || inRange ix 0x3300 0x33FF || inRange ix 0x5000 0x57FF || inRange ix 0x7800 0x7FFF ||
  inRange ix 0x8000 0x87FF || inRange ix 0x9000 0x97FF

/-- A state's entries with a set's writes: a class whose CLASS_CFG the set holds is dropped no more (R465). -/
def State.overlay (s : State) (items : List StageItem) : State :=
  items.foldl (fun s i =>
    if i.cmd then s
    else
      let s := s.wr i.index i.sub i.data
      if i.index = 0x7801 then s.setCls i.sub { s.cls i.sub with dropped := false } else s) s

/-- Classes are dropped in a configuration. -/
def State.without (s : State) (out : List Nat) : State := out.foldl (fun s c => s.setCls c { s.cls c with dropped := true }) s

/-- An armed set joins a configuration. -/
def State.withSet (s : State) (t : TrestleSlot) : State := (s.overlay t.items).without t.drops

/-- Insert a slot in firing order (R59). -/
def bySlot (x : Nat × TrestleSlot) : List (Nat × TrestleSlot) → List (Nat × TrestleSlot)
  | [] => [x]
  | y :: r =>
    if decide (x.2.due.toNat < y.2.due.toNat) || (x.2.due = y.2.due && decide (x.2.order < y.2.order)) then x :: y :: r
    else y :: bySlot x r

/-- The armed sets in firing order. -/
def Ods.armedSets (o : Ods) : List (Nat × TrestleSlot) := (o.trestle.filter (fun t => t.2.state = 1)).foldl (fun l x => bySlot x l) []

/-- The configurations from a change's instant on: the change itself (under key 8) and each armed set that fires after it. `due` is T of
a set to be armed, which fires after the sets armed for the same T; none for a change now. -/
def State.configs (s : State) (due : Option Nat) (items : List StageItem) (out : List Nat) : List (Nat × State) :=
  let sets := s.ods.armedSets
  let before (t : TrestleSlot) : Bool := due.any (fun d => decide (t.due.toNat ≤ d))
  let base := (sets.filter (fun t => before t.2)).foldl (fun v t => v.withSet t.2) s
  let v0 := (base.overlay items).without out
  ((sets.filter (fun t => !before t.2)).foldl (fun (l, v) t =>
    let v := v.withSet t.2
    (l ++ [(t.1, v)], v)) ([(8, v0)], v0)).1

/-- The point whose f a configuration is tested at: the one in force, or where the configuration holds another CAP_POINT, the one that
it leads to (R464). -/
def State.pointIn (s v : State) : Nat := if v.capPoint = s.capPoint then s.pcs.fPoint else v.pointWanted

/-- The test of every configuration: each one's figures, or the first refusal. -/
def State.testAll (s : State) : List (Nat × State) → Except (Nat × Nat) (List (Nat × List (Nat × Bound) × Nat))
  | [] => .ok []
  | (k, v) :: r =>
    match v.admTest (s.pointIn v) none [] with
    | .refuse term cls => .error (term, cls)
    | .pass b p => (s.testAll r).map (fun l => (k, b, p) :: l)

/-- What a test that passes brings: the classes that FORCE dropped, and the figures by slot. -/
structure Passed where
  out     : List Nat := []
  figures : List (Nat × List (Nat × Bound) × Nat) := []
  deriving DecidableEq, Repr

/-- The test with classes dropped one by one until every configuration passes (R284). -/
def State.testForced (s : State) (due : Option Nat) (items : List StageItem) : List Nat → List Nat → Except (Nat × Nat) Passed
  | out, [] => (s.testAll (s.configs due items out)).map (fun f => ⟨out, f⟩)
  | out, c :: rest =>
    match s.testAll (s.configs due items out) with
    | .ok f => .ok ⟨out, f⟩
    | .error _ => s.testForced due items (out ++ [c]) rest

/-- The entry that LAST_REFUSAL names for a failed test: the failing class's CLASS_CFG where the change holds it, else the first entry of
Table 2.8. -/
def refusalEntry (items : List StageItem) (cls : Nat) : Option (Nat × Nat) :=
  match items.find? (fun i => i.index = 0x7801 && i.sub = cls) with
  | some i => some (i.index, i.sub)
  | none => (items.find? (fun i => admRange i.index)).map (fun i => (i.index, i.sub))

/-- The admission step of a change: none where it touches no range of Table 2.8. -/
def State.admission (s : State) (force : Bool) (due : Option Nat) (items : List StageItem) : Except Refused (Option Passed) :=
  if items.any (fun i => admRange i.index) then
    let order := if force then (((s.configs due items []).head?.map (fun c => c.2)).getD s).dropOrder else []
    match s.testForced due items [] order with
    | .ok p => .ok (some p)
    | .error (term, cls) => .error { status := 8, step := 9, at_ := refusalEntry items cls, cls := cls, term := term }
  else .ok none

/-- Steps 1 to 3 of R53 over a change. Quiescence is not asked of a set that is armed (R59). -/
def State.changeCheck (s : State) (force : Bool) (due : Option Nat) (items : List StageItem) : Except Refused (Option Passed) :=
  let v := s.overlay items
  let ws := items.filterMap (fun i => if i.cmd then none else (entAt i.index i.sub).map (fun r => (r, i)))
  let still := if due.isSome then ws.filter (fun w => w.1.acc ≠ .rwq) else ws
  match still.find? (fun w => !s.stateOk v w.1 w.2.index w.2.sub) with
  | some w => .error { badState with at_ := some (w.2.index, w.2.sub) }
  | none =>
    match ws.findSome? (fun w => s.crossCheck v w.1 w.2.index w.2.sub) with
    | some e => .error e
    | none => s.admission force due items

end Sys2Proof.Machine
end

