-- ==== Sys2Proof/Machine/Command.lean ====
section
/-! DEFINITION. The command entries (R63): the check of an argument, and what each command does. -/
namespace Sys2Proof.Machine

/-! ### Checks: RANGE of the argument, then what the owning chapter refuses -/

def okIf (c : Bool) (e : Refused) : Option Refused := if c then none else some e

/-- A one-byte argument below a bound, or 0xFF where the command has a form for all. -/
def small (arg : Bytes) (n : Nat) (all : Bool := true) : Option Refused :=
  okIf (decide (le arg 0 1 < n) || (all && le arg 0 1 = 0xFF)) badRange
/-- A two-byte argument below a bound, or 0xFFFF. -/
def wide (arg : Bytes) (n : Nat) (all : Bool := true) : Option Refused :=
  okIf (decide (le arg 0 2 < n) || (all && le arg 0 2 = 0xFFFF)) badRange

/-- The numbers that an argument names: one, or all. -/
def namedBy (v all n : Nat) : List Nat := if v = all then List.range n else [v]

/-- PROG_LOAD (R259). -/
def State.progLoadCheck (s : State) (a : Bytes) : Option Refused :=
  okIf (decide (le a 0 1 < 64) && zeroIn a 1 3 && decide (le a 4 2 < 4096) && zeroIn a 6 2 && zeroIn a 20 4) badRange <|>
  okIf ((s.prog (le a 0 1)).state = 0) badState

/-- PROG_UNLOAD (R259). -/
def State.progUnloadCheck (s : State) (a : Bytes) : Option Refused :=
  let n := le a 0 1
  small a 64 false <|>
  okIf ((s.prog n).state = 2 && (List.range 64).all (fun c => !(s.clsOn c && s.clsProg c = n)) &&
    s.sqe.reqs.all (fun r => !(r.2.prog = n && r.2.live))) badState

/-- LOCK_RUN (R255). -/
def State.lockRunCheck (s : State) (ix sub : Nat) (a : Bytes) : Option Refused :=
  let g := s.prog (le a 0 1)
  okIf (decide (le a 0 1 < 64) && decide (le a 1 1 < 12) && zeroIn a 2 2 && decide (le a 4 2 < 4096) && zeroIn a 6 2 && zeroIn a 24 8) badRange <|>
  okIf (!s.tiles.swap.running && s.sched.lock.phase = 0 && g.state = 2 && (imgPlacement g.image).testBit (le a 1 1)) badState <|>
  (match s.admTest s.pcs.fPoint (some (le a 1 1)) [] with
   | .pass _ _ => none
   | .refuse t c => some { refusedAt ix sub with cls := c, term := t })

/-- TILE_SWAP (R231): spare 96 + k reaches cabinets C3k to C3k + 2. -/
def State.tileSwapCheck (s : State) (ix sub : Nat) (a : Bytes) : Option Refused :=
  let t := le a 0 1
  let x := le a 1 1
  okIf (decide (t < 96) && inRange x 96 99 && cabOf t / 3 = x - 96) badRange <|>
  okIf (s.spareOf (x - 96) % 256 = 0) badState <|>
  (match s.admTest s.pcs.fPoint (some (cabOf t)) [] with
   | .pass _ _ => none
   | .refuse c k => some { refusedAt ix sub with cls := k, term := c })

/-- GRANULE_SET (R376, R476). -/
def State.granuleSetCheck (s : State) (a : Bytes) : Option Refused :=
  let lo := 2 ^ 21 * le a 0 4
  let hi := 2 ^ 21 * (le a 0 4 + le a 4 4)
  let here := decide (hi ≤ s.shelf1Top) || (decide (shelf2Base ≤ lo) && decide (hi ≤ shelf2Base + s.shelf2Bytes))
  okIf (decide (le a 8 2 < 4096) && decide (le a 10 1 < 3) && zeroIn a 11 5 && (le a 4 4 = 0 || here)) badRange <|>
  okIf (le a 4 4 = 0 || ((decide (lo < shelf2Base) || decide (hi ≤ s.pcs.fillPtr)) &&
    (le a 10 1 = 0 ||
      s.mtu.owners.all (fun o => o.2.mode = 0 || decide (o.1 < le a 0 4) || decide (le a 0 4 + le a 4 4 ≤ o.1))))) badState

/-- INV_SLOT (R383). -/
def invSlotCheck (a : Bytes) : Option Refused :=
  let f := le a 18 1
  okIf (decide (le a 16 2 < 4096) && decide (f < 4) && zeroIn a 19 13 && le a 0 8 % 4096 = 0 &&
    decide (le a 0 8 + 4096 * le a 8 8 ≤ 2 ^ 57) && (f = 0 || (le a 0 8 = 0 && le a 8 8 = 0)) && (f < 2 || le a 16 2 = 0)) badRange

/-- The instances that FAULT_CLEAR names (R491). -/
def faultNamed (u : Nat) (a : Bytes) : List Nat := namedBy (le a 0 2) 0xFFFF (unitInstances u)

/-- FAULT_CLEAR: no bit of a class D source that has fired. -/
def State.faultClearCheck (s : State) (u : Nat) (a : Bytes) : Option Refused :=
  wide a (unitInstances u) <|>
  okIf ((faultNamed u a).all (fun i =>
    (List.range 64).all (fun c => !((le a 2 8).testBit c && sourceClass u c = 4 && (s.faultInst u i).status.getLsbD c)))) badState

/-- What refuses a command with an argument of the right length: RANGE (step 7), STATE (step 8) or REFUSED (step 9). -/
def State.cmdCheck (s : State) (e : Ent) (ix sub : Nat) (a : Bytes) : Option Refused :=
  match e with
  | .queueResume => okIf ((s.queue (le a 0 1)).stalled) badState
  | .queueClear => wide a 256
  | .granuleQuery => okIf (decide (le a 0 4 < 2 ^ 21)) badRange
  | .classClear => small a 64
  | .numClear => small a 96
  | .histClear =>
    wide a 384 <|>
    okIf ((namedBy (le a 0 2) 0xFFFF 384).all (fun k => (s.tile (k / 4)).ctxs.all (fun c => c.2.phase = 0))) badState
  | .gpeClear => small a 48
  | .tableClear => wide a 4096
  | .epmDiscard => okIf (s.discardOk a) badState
  | .ringResume => small a 8 false <|> okIf ((s.ring (le a 0 1)).ahead) badState
  | .epmResumeTable => wide a 4096 false
  | .ssuResume => small a 8 false <|> okIf ((s.evRing (le a 0 1)).ahead) badState
  | .progLoad => s.progLoadCheck a
  | .progUnload => s.progUnloadCheck a
  | .cabClear => small a 12
  | .detClear => small a 12
  | .lockRun => s.lockRunCheck ix sub a
  | .tileSwap => s.tileSwapCheck ix sub a
  | .pcSpare => okIf (decide (le a 0 1 < 8) && decide (le a 1 1 < 64)) badRange <|> okIf (s.mayCopy (le a 0 1)) badState
  | .rankSpare =>
    okIf (decide (le a 0 1 < 12) && decide (le a 1 1 + 2 ≤ s.shelves.ranks)) badRange <|> okIf (s.mayCopy (8 + le a 0 1)) badState
  | .dcaInvalidate => okIf (!s.dcaOn && !s.coh.flushing) badState
  | .granuleSet => s.granuleSetCheck a
  | .invSlot => invSlotCheck a
  | .ctxFaultClear => wide a 4096
  | .hdmMove =>
    match s.moveCheck (ix / 0x200 % 2) a with
    | 0 => none
    | 4 => some badRange
    | _ => some badState
  | .laneSpare => small a 8 false <|> okIf ((s.fport (ix / 0x100 - 0x81)).spare.isNone) badState
  | .blkReset => okIf (s.pcs.blk = 0) badState
  | .faultClear => s.faultClearCheck (ix / 0x100 % 16) a
  | _ => none

/-! ### Effects -/

/-- Zero counters of the entries with subindices that an argument names. -/
def State.clearNamed (s : State) (l : List Nat) (at_ : Nat → Nat × Nat) : State :=
  l.foldl (fun s n => s.clearCtr (at_ n).1 (at_ n).2 (at_ n).2) s

/-- QUEUE_CLEAR (R288): one queue, or every queue of the requesting port. -/
def State.queueClear (s : State) (who : Sender) (v : Nat) : State :=
  if v = 0xFFFF then
    match who.path with
    | .h1 => s.clearCtr 0x2803 128 255
    | _ => s.clearCtr 0x2803 0 127
  else s.clearCtr 0x2803 v v

/-- HIST_CLEAR (R94). -/
def State.histClear (s : State) (v : Nat) : State :=
  (namedBy v 0xFFFF 384).foldl (fun s k =>
    let y := s.tile (k / 4)
    s.setTile (k / 4) { y with hist := y.hist.filter (fun h => h.1 / 256 ≠ k % 4) }) s

/-- GRANULE_SET (R376): the tags change at once. -/
def State.granuleSet (s : State) (a : Bytes) : State :=
  let lo := le a 0 4
  let n := le a 4 4
  let o : Owner := { mode := le a 10 1, acid := le a 8 2 }
  let m := s.mtu.owners
  let put := if o = {} then [] else (List.range n).map (fun k => (lo + k, o))
  if n = 0 then s.cmdDone 0x4000 4
  else
    State.cmdStart { s with mtu := { s.mtu with
      owners := m.filter (fun x => decide (x.1 < lo)) ++ put ++ m.filter (fun x => decide (lo + n ≤ x.1)) } } 0x4000 4

/-- GRANULE_QUERY (R392). -/
def State.granuleQuery (s : State) (g : Nat) : State :=
  let o : Owner := sget {} s.mtu.owners g
  { s with mtu := { s.mtu with result := natLe o.acid 2 ++ natLe o.mode 1 ++ zeros 13 } }

/-- An invalidation is over (R386). -/
def State.invDone (s : State) (slot : Nat) (v : Inval) : State :=
  let v := { v with running := false, doneAt := s.now }
  let s := State.cmdDone { s with mtu := { s.mtu with inv := sput s.mtu.inv slot v } } 0x4001 slot
  match v.fromPort with
  | some p => if (s.fqN p 9 1).testBit 1 then s.raise p (s.fqN p 11 1) else s
  | none => s

/-- INV_SLOT (R383, R384). -/
def State.invSlot (s : State) (who : Sender) (slot : Nat) (a : Bytes) : State :=
  let f := le a 18 1
  let port : Option Nat := match who.path with
    | .h0 => some 0
    | .h1 => some 1
    | _ => none
  let v : Inval := { acid := le a 16 2, lo := le a 0 8, hi := le a 0 8 + 4096 * le a 8 8, all := f.testBit 0, global := f.testBit 1,
                     fromPort := port }
  if f = 0 && le a 8 8 = 0 then s.invDone slot v
  else
    let (s, v) := s.invalidate v
    State.cmdStart { s with mtu := { s.mtu with inv := sput s.mtu.inv slot v } } 0x4001 slot

/-- CTX_FAULT_CLEAR (R392). -/
def State.ctxFaultClear (s : State) (v : Nat) : State :=
  if v = 0xFFFF then { s with mtu := { s.mtu with ctx := [] } } else s.setCtxFault v {}

/-- FAULT_CLEAR (R491). -/
def State.faultClear (s : State) (u : Nat) (a : Bytes) : State :=
  let keep : BitVec 64 := ~~~(BitVec.ofNat 64 (le a 2 8))
  State.errPin ((faultNamed u a).foldl (fun s i =>
    let f := s.faultInst u i
    let st := f.status &&& keep
    s.setFaultInst u i { f with status := st, first := if st = 0 then {} else f.first }) s) s.errN

/-- CHIP_RESET_REQ (R478). -/
def State.chipResetReq (s : State) : State := State.emit { s with pcs := { s.pcs with chipRst := true } } (.pin "CHIP_RST_REQ" 1)

/-- CLEAR_REFUSALS: the last refusal and the count of refusals go. -/
def State.clearRefusals (s : State) : State := { s with ods := { s.ods with lastRefusal := [], refusalCount := 0 } }

/-- A command's effect; one whose effect is whole ends done, any other is running (R63). -/
def State.cmdDo (s : State) (who : Sender) (e : Ent) (ix sub : Nat) (a : Bytes) : State :=
  let hp := ix / 0x200 % 2
  let fp := ix / 0x100 - 0x81
  let done (x : State) : State := x.cmdDone ix sub
  match e with
  | .clearRefusals => done s.clearRefusals
  | .queueResume => done (s.queueResume (le a 0 1))
  | .queueClear => done (s.queueClear who (le a 0 2))
  | .classClear => done (s.clearNamed (namedBy (le a 0 1) 0xFF 64) (fun n => (0x7802, n)))
  | .numClear => done (s.clearNamed (namedBy (le a 0 1) 0xFF 96) (fun n => (0x5801, n)))
  | .histClear => done (s.histClear (le a 0 2))
  | .gpeClear => done (s.clearNamed (namedBy (le a 0 1) 0xFF 48) (fun n => (0x6001, n)))
  | .tableClear => done (s.clearNamed (namedBy (le a 0 2) 0xFFFF 4096) (fun n => (0x6300 + n / 256, n % 256)))
  | .epmFlip => done (s.epmFlip a)
  | .epmDiscard => done (s.epmDiscard a)
  | .ringResume => done (s.ringResume (le a 0 1))
  | .epmResumeTable => done (s.resumeTable (le a 0 2))
  | .ssuClear => done ((s.clearCtr 0x7000 3 3).clearCtr 0x7005 0 11)
  | .ssuResume => done (s.evResume (le a 0 1))
  | .sessionQuery => done (s.sessionQuery (le a 0 8))
  | .progLoad => (s.progLoad (le a 0 1) (le a 4 2) (le a 8 8) (le a 16 4)).cmdStart ix sub
  | .progUnload => done (s.progUnload (le a 0 1))
  | .cabClear => done (s.clearNamed (namedBy (le a 0 1) 0xFF 12) (fun n => (0x5003, n)))
  | .detClear => done (s.clearNamed (namedBy (le a 0 1) 0xFF 12) (fun n => (0x5A01, n)))
  | .lockRun => (s.lockRun (le a 0 1) (le a 1 1) (le a 4 2) (le a 8 8) (le a 16 8)).cmdStart ix sub
  | .tileSwap => (s.swapStart (le a 0 1) (le a 1 1)).cmdStart ix sub
  | .tileClear => done ((s.clearCtr (ix / 0x10 * 0x10) 2 2).idleClear ((ix - 0x5100) / 0x10))
  | .pcSpare => done (s.copyStart (le a 0 1) (le a 1 1))
  | .rankSpare => done (s.copyStart (8 + le a 0 1) (le a 1 1))
  | .carveFlush => State.cmdStart { s with shelves := { s.shelves with flushing := true } } ix sub
  | .hbmClear => done ((s.clearCtr 0x3000 4 4).clearCtr 0x3002 0 255)
  | .capClear => done (s.clearCtr 0x3102 0 255)
  | .bgClear => done (s.clearCtr 0x3300 2 2)
  | .dcaInvalidate => State.cmdStart { s with coh := { s.coh with invLeft := List.range 16 } } ix sub
  | .dcaClear => done (s.clearCtr 0x3201 0 255)
  | .cohClear => done ((s.clearCtr 0x3800 2 2).clearCtr 0x3800 4 4)
  | .orderClear => done (s.clearCtr 0x40F1 1 1)
  | .mtuClear => done (s.clearCtr 0x4000 1 1)
  | .granuleSet => s.granuleSet a
  | .granuleQuery => done (s.granuleQuery (le a 0 4))
  | .invSlot => s.invSlot who sub a
  | .ctxFaultClear => done (s.ctxFaultClear (le a 0 2))
  | .hdmMove => s.moveStart hp a
  | .portClear => done (s.clearCtr (portIx hp 0x2000) 1 1)
  | .lostClear => done (s.lostClear hp)
  | .laneSpare => done (s.laneSwap fp (le a 0 1) false)
  | .portReset => done (s.fpx fp)
  | .hpClear => done (s.hpClear fp)
  | .gfrClear => done s.gfrClear
  | .gtcClear => done (s.clearCtr 0x9800 3 3)
  | .pcsClear => done (s.clearCtr 0x9006 0 0)
  | .blkReset => (s.cmdStart ix sub).blkStart
  | .chipResetReq => done s.chipResetReq
  | .faultClear => done (s.faultClear (ix / 0x100 % 16) a)
  | _ => s

end Sys2Proof.Machine
end

