-- ==== Sys2Proof/Machine/Change.lean ====
section
/-! DEFINITION. A commit instant (R54): the entries of a change take their values, the units act on them, and the staged commands run; and
the firing of the trestle (R56 to R62). -/
namespace Sys2Proof.Machine

/-! ### What a unit does when an entry of its changes -/

/-- FQ_CFG: at ENABLE everything starts at 0, FQ_HEAD included (R392, R67). -/
def State.fqApplied (s : State) (was : State) (p : Nat) : State :=
  if s.fqOn p && !was.fqOn p then
    let q := s.fq p
    (s.setFq p { q with tail := 0, pass := 0 }).wr 0x4032 p (zeros 4)
  else s

/-- RES_GRANULE: every reservation that stands is lost (R364). -/
def State.granuleChanged (s : State) : State :=
  let n := s.coh.resv.length
  if n = 0 then s else { s with coh := { s.coh with resv := [] } }.orderCount 2 n

/-- ADM_CFG: the inbound bucket is brought up to date at the old rate and held to the new burst (R283). -/
def State.inBucketApplied (s : State) (was : State) : State :=
  { s with sqe := { s.sqe with inb := { s.sqe.inb with z := min (1000 * s.rdN 0x7800 0 8 4) was.inBucketNow, zAt := s.now } } }

/-- DCA_ENABLE written 0: the slices flush (R325). -/
def State.dcaApplied (s : State) : State := if s.dcaOn then s else { s with coh := { s.coh with flushing := true } }

/-- An entry took its new value; `was` is the state before the commit instant. -/
def State.entryApplied (s was : State) (r : EntRow) (ix sub : Nat) : State :=
  let n := r.inst ix sub
  let fp := ix / 0x100 - 0x81
  match r.ent with
  | .sqCfg => s.sqApplied sub
  | .classCfg => s.classApplied was sub
  | .admCfg => s.inBucketApplied was
  | .ringCfg => (s.ringApplied sub).wr 0x6811 sub (zeros 4)
  | .evRingCfg => (s.evApplied sub).wr 0x7003 sub (zeros 4)
  | .fqCfg => s.fqApplied was sub
  | .fqHead => s.setFq sub { s.fq sub with overflow := false }
  | .tableDesc => s.tableApplied n (was.tableDesc n)
  | .route => s.routeChanged n (was.rd ix sub) (s.rd ix sub)
  | .fportCfg => s.fcfgApplied fp
  | .hpCtl => s.hpApplied fp
  | .capPoint => s.pointFollow.wakeAll
  | .tolLat => s.wakeAll
  | .tolLatMgr => s.wakeAll
  | .idleCfg => s.wakeAll
  | .dcaEnable => s.dcaApplied
  | .hbmCfg => s.autoCopies
  | .capCfg => s.autoCopies
  | .resGranule => s.granuleChanged
  | .hdmWindow => let p := (ix - 0x2010) / 0x200
    s.setPort p { s.port p with move := { (s.port p).move with moved := none } }
  | _ => s

/-! ### The commit instant (R54) -/

/-- A staged command runs as it would by EXEC (R49, R62): one that its checks refuse ends failed with their status, and one whose
entry still runs is left to run. -/
def State.stagedRun (s : State) (who : Sender) (i : StageItem) : State :=
  match entAt i.index i.sub with
  | none => s
  | some r =>
    if s.cmdRunning i.index i.sub then s
    else
      match s.cmdCheck r.ent i.index i.sub i.data with
      | some e => s.cmdFail i.index i.sub e.status
      | none => s.cmdDo who r.ent i.index i.sub i.data

/-- All entries of a change take their new values at once, the units act on them, and then the staged commands run in their order. -/
def State.applyItems (s : State) (who : Sender) (items : List StageItem) : State :=
  let err := s.errN
  let ws := items.filter (fun i => !i.cmd)
  let v := ws.foldl (fun v i => v.wr i.index i.sub i.data) s
  let v := ws.foldl (fun v i =>
    match entAt i.index i.sub with
    | some r => v.entryApplied s r i.index i.sub
    | none => v) v
  (items.filter (fun i => i.cmd)).foldl (fun v i => v.stagedRun who i) (v.errPin err)

/-- The classes that FORCE dropped, and the figures of the test, come with a commit (R281, R284). -/
def State.admitted (s : State) (out : List Nat) (figures : Option (List (Nat × Bound) × Nat)) : State :=
  let s := s.dropClasses 1 out
  match figures with
  | some f => s.setBounds f.1 f.2
  | none => s

/-- The figures of a test by slot; 8 is the change itself. -/
def Passed.at_ (p : Passed) (k : Nat) : Option (List (Nat × Bound) × Nat) := (p.figures.find? (fun f => f.1 = k)).map (fun f => f.2)

/-- Figures come into force with a slot's firing. -/
def State.slotFigures (s : State) (k : Nat) (f : Option (List (Nat × Bound) × Nat)) : State :=
  match f with
  | some f => { s with sqe := { s.sqe with armedBounds := sput s.sqe.armedBounds k f.1, armedIn := sput s.sqe.armedIn k f.2 } }
  | none => s

/-- The armed sets take the figures of the latest test that covered them (R281). -/
def State.laterFigures (s : State) (p : Passed) : State := (List.range 8).foldl (fun s k => s.slotFigures k (p.at_ k)) s

/-- Drop a slot's figures. -/
def State.noFigures (s : State) (k : Nat) : State :=
  { s with sqe := { s.sqe with armedBounds := sdel s.sqe.armedBounds k, armedIn := sdel s.sqe.armedIn k } }

/-- A change whose checks have passed is committed (R53, R55). -/
def State.commitNow (s : State) (who : Sender) (items : List StageItem) (p : Option Passed) : State :=
  let s := s.applyItems who items
  match p with
  | some p => (s.admitted p.out (p.at_ 8)).laterFigures p
  | none => s

/-! ### The trestle (R56 to R62) -/

/-- The lowest slot that holds no armed set. -/
def Ods.freeSlot (o : Ods) : Option Nat := (List.range 8).find? (fun k => (sget ({} : TrestleSlot) o.trestle k).state ≠ 1)

/-- A set is armed in a slot for T. -/
def State.arm (s : State) (who : Sender) (tag k due : Nat) (items : List StageItem) (p : Option Passed) : State :=
  let o := s.ods
  let t : TrestleSlot := { state := 1, owner := some who, count := items.length, due := BitVec.ofNat 64 due, order := o.armCount, tag := tag,
                           drops := (p.map (fun p => p.out)).getD [], items := items }
  let s := State.noFigures { s with ods := { o with trestle := sput o.trestle k t, armCount := o.armCount + 1 } } k
  match p with
  | some p => (s.slotFigures k (p.at_ 8)).laterFigures p
  | none => s

/-- LAST_REFUSAL (Table 2.10), and REFUSAL_COUNT. -/
def State.refusal (s : State) (who : Sender) (op index sub tag : Nat) (e : Refused) : State :=
  let at_ := e.at_.getD (index, sub)
  let b := natLe e.status 1 ++ natLe op 1 ++ natLe who.path.code 1 ++ zeros 1 ++ natLe who.node.toNat 2 ++ natLe at_.1 2 ++ natLe at_.2 1 ++
    natLe e.step 1 ++ natLe e.cls 2 ++ natLe e.term 4 ++ natLe s.now 8 ++ natLe tag 8
  { s with ods := { s.ods with lastRefusal := b, refusalCount := min (2 ^ 32 - 1) (s.ods.refusalCount + 1) } }

/-- A set's entries that are no longer quiescent (R59). -/
def State.notQuiet (s : State) (items : List StageItem) : Option (Nat × Nat) :=
  let v := s.overlay items
  items.findSome? (fun i =>
    if i.cmd then none
    else
      match entAt i.index i.sub with
      | some r => if r.acc = .rwq && !s.stateOk v r i.index i.sub then some (i.index, i.sub) else none
      | none => none)

/-- An armed set fires: one commit instant, or FAILED (R59, R60). -/
def State.fireSet (s : State) (k : Nat) (t : TrestleSlot) : State :=
  let who := t.owner.getD {}
  let s := s.wakeUp
  let put (s : State) (st : BitVec 8) : State :=
    { s with ods := { s.ods with trestle := sput s.ods.trestle k { t with
        state := st, holdover := s.gtc.state = gtcHoldover, firedAt := s.now, items := [], drops := [] } } }
  match s.notQuiet t.items with
  | some at_ => ((((put s 3).noFigures k).refusal who 4 0 0 t.tag { status := 5, step := 10, at_ := some at_ })).event 2
  | none =>
    let f := (sfind s.sqe.armedBounds k).map (fun b => (b, sget 0 s.sqe.armedIn k))
    let s := ((put s 2).applyItems who t.items).admitted t.drops f
    (s.noFigures k).event 1

/-- TRESTLE_FIRE: the set of a slot is the next to fire, and the count has reached T. -/
def State.trestleFire (s : State) (k : Nat) : State :=
  if s.frozen || s.pcs.cold then s
  else
    match s.ods.armedSets.head? with
    | some (j, t) => if j = k && decide (t.due.toNat ≤ s.now) then s.direct .ods (fun s => s.fireSet k t) else s
    | none => s

def execTrestleFire (slot : Fin 8) (s : State) : Answer := .next (s.trestleFire slot)

end Sys2Proof.Machine
end

