-- ==== Sys2Proof/Machine/Ods.lean ====
section
/-! DEFINITION. The dictionary server: requests arriving on its four path instances, their service in order, the checks of R39, the eight
operations, and leases (R35 to R64). -/
namespace Sys2Proof.Machine

/-! ### Messages (Table 2.3) -/

def DictReq.op (q : DictReq) : Nat := fld q.msg 0 8
def DictReq.describe (q : DictReq) : Bool := bit q.msg 8
def DictReq.arm (q : DictReq) : Bool := bit q.msg 9
def DictReq.force (q : DictReq) : Bool := bit q.msg 10
def DictReq.index (q : DictReq) : Nat := fld q.msg 16 16
def DictReq.sub (q : DictReq) : Nat := fld q.msg 32 8
def DictReq.status (q : DictReq) : Nat := fld q.msg 40 8
def DictReq.tag (q : DictReq) : Nat := fld q.msg 48 16
def DictReq.length (q : DictReq) : Nat := fld q.msg 64 16
def DictReq.offset (q : DictReq) : Nat := fld q.msg 96 32
def DictReq.data (q : DictReq) : Bytes := q.msg.drop 16

/-- Good message form (R38). The LENGTH of a READ names the bytes it asks for, and it carries none (log 18). -/
def DictReq.formOk (q : DictReq) : Bool :=
  decide (16 ≤ q.msg.length) && inRange q.op 1 8 && fld q.msg 11 5 = 0 && fld q.msg 80 16 = 0 && q.status = 0 && decide (q.length ≤ 1024) &&
  (!q.describe || q.op = 1) && (!q.arm || q.op = 4 || q.op = 5) && (!q.force || q.op = 4) && (q.offset = 0 || q.op = 1 || q.op = 3) &&
  (q.msg.length = 16 + q.length || (q.op = 1 && q.msg.length = 16)) &&
  (!(q.op = 4 || q.op = 5 || q.op = 7) || (q.index = 0 && q.sub = 0))

/-- The response: the header with STATUS and LENGTH, then the data. -/
def DictReq.answer (q : DictReq) (status : Nat) (data : Bytes) : Bytes :=
  patch (patch (bytesAt q.msg 0 16) 5 (natLe status 1)) 8 (natLe data.length 2) ++ data

/-- What an operation comes to: the state after it, and its data or its refusal. -/
abbrev OdsAns := State × Except Refused Bytes

def State.no (s : State) (e : Refused) : OdsAns := (s, .error e)
def State.yes (s : State) (b : Bytes := []) : OdsAns := (s, .ok b)

/-! ### Access, claim and hold (steps 3 to 5 of R39) -/

/-- The path's bit in PATHS. -/
def Path.bitNo : Path → Nat
  | .h0 => 0
  | .h1 => 0
  | .o => 1
  | .f => 2

/-- The host port whose mailbox alone changes an entry on path H (R36, R260, R391, R419, R483, R487). -/
def EntRow.bound (r : EntRow) (ix sub : Nat) : Option Nat :=
  if inRange ix 0x2000 0x21FF then some 0
  else if inRange ix 0x2200 0x23FF then some 1
  else
    match r.ent with
    | .sqCfg => some (sub / 128)
    | .fqCfg => some sub
    | .fqHead => some sub
    | .queueStatus => some (sub / 128)
    | .queueCounts => some (sub / 128)
    | .fqStatus => some sub
    | .tolLat => some (sub - 1)
    | .wakeEn => some sub
    | .faultIrq => some sub
    | _ => none

/-- The entry takes changes from a path instance (R35, R36). -/
def EntRow.pathOk (r : EntRow) (ix sub : Nat) (p : Path) : Bool :=
  r.paths.testBit p.bitNo &&
  match p with
  | .h0 => (r.bound ix sub).all (fun x => x = 0)
  | .h1 => (r.bound ix sub).all (fun x => x = 1)
  | _ => true

/-- FABRIC_MGR_NODE keeps every other node off F (R37). -/
def State.nodeOk (s : State) (who : Sender) : Bool :=
  let m := s.rdN 0x1104 0 0 2
  who.path ≠ .f || m = 0xFFFF || m = who.node.toNat

/-- Another owner's claim covers an index (R46). -/
def Ods.claimedBy (o : Ods) (ix : Nat) (who : Sender) : Bool :=
  o.claims.any (fun c => c.2.owner ≠ who && decide (c.2.first ≤ ix) && decide (ix ≤ c.2.last))

/-- QUEUE_RESUME and QUEUE_CLEAR name a queue of the other port (R260). -/
def foreignQueue (e : Ent) (who : Sender) (a : Bytes) : Bool :=
  let other (q : Nat) : Bool := decide (q < 256) &&
    match who.path with
    | .h0 => q / 128 = 1
    | .h1 => q / 128 = 0
    | _ => false
  match e with
  | .queueResume => a.length = 1 && other (le a 0 1)
  | .queueClear => a.length = 2 && other (le a 0 2)
  | _ => false

/-! ### The operations -/

/-- READ (R27, R28, R32, R51, R63). -/
def State.opRead (s : State) (q : DictReq) : OdsAns :=
  match entAt q.index q.sub with
  | none => s.no noEntry
  | some r =>
    if !s.nodeOk q.who then s.no badAccess
    else if r.ty ≠ .blob && q.offset ≠ 0 then s.no badRange
    else if q.describe then s.yes (s.describe r q.index q.sub)
    else
      let v := s.value r q.index q.sub
      if r.ty ≠ .blob then s.yes v
      else if q.length ≠ 0 && decide (v.length < q.offset + q.length) then s.no badRange
      else s.yes (bytesAt v q.offset q.length)

/-- The data of a WRITE or STAGE fits the entry: its size, and at least one byte for a BLOB (R29, R30). No entry that software writes is
larger than one message (R31). -/
def EntRow.sizeOk (r : EntRow) (b : Bytes) : Option Refused :=
  if r.ty = .blob && b.isEmpty then some badRange
  else if b.length ≠ r.size then some badType
  else none

/-- WRITE: a commit of one entry (R55). -/
def State.opWrite (s : State) (q : DictReq) : OdsAns :=
  match entAt q.index q.sub with
  | none => s.no noEntry
  | some r =>
    if !s.nodeOk q.who || !r.pathOk q.index q.sub q.who.path || r.acc = .ro || r.acc = .cmd then s.no badAccess
    else if s.ods.claimedBy q.index q.who then s.no isClaimed
    else if s.ods.held q.index q.sub ≠ 0 then s.no isBusy
    else
      match r.sizeOk q.data with
      | some e => s.no e
      | none =>
        if !s.valueOk r q.index q.sub q.data then s.no badRange
        else
          let items : List StageItem := [{ index := q.index, sub := q.sub, data := q.data }]
          match s.changeCheck false none items with
          | .error e => s.no e
          | .ok p => (s.commitNow q.who items p).yes

/-- Put an item into the stage: a second STAGE of an entry takes the first one's place (R49). -/
def stagePut (l : List StageItem) (i : StageItem) : List StageItem :=
  if l.any (fun x => x.index = i.index && x.sub = i.sub) then l.map (fun x => if x.index = i.index && x.sub = i.sub then i else x)
  else l ++ [i]

/-- What a STAGE's data is refused for (steps 6 and 7); quiescence and what a command's chapter refuses are left to the commit. -/
def State.stageData (s : State) (r : EntRow) (q : DictReq) : Option Refused :=
  if r.acc = .cmd then
    if q.data.length ≠ r.size then some badType
    else if q.offset ≠ 0 then some badRange
    else (s.cmdCheck r.ent q.index q.sub q.data).filter (fun e => e.step = 7)
  else if r.ty = .blob && q.offset ≠ 0 && !q.data.isEmpty then some badType
  else r.sizeOk q.data <|> okIf (s.valueOk r q.index q.sub q.data && q.offset = 0) badRange

/-- STAGE (R49, R50). -/
def State.opStage (s : State) (q : DictReq) : OdsAns :=
  let o := s.ods
  match entAt q.index q.sub with
  | none => s.no noEntry
  | some r =>
    if !s.nodeOk q.who || !r.pathOk q.index q.sub q.who.path || r.acc = .ro || foreignQueue r.ent q.who q.data then s.no badAccess
    else if o.claimedBy q.index q.who then s.no isClaimed
    else if o.held q.index q.sub = 2 || o.stageOwner.any (fun w => w ≠ q.who) then s.no isBusy
    else
      match s.stageData r q with
      | some e => s.no e
      | none =>
        let l := stagePut o.stage { index := q.index, sub := q.sub, cmd := r.acc = .cmd, data := q.data }
        let n := { o with stage := l, stageOwner := some q.who, stageSeen := s.now }
        if decide (1024 < l.length) || decide (262144 < n.stageBytes) then s.no badRange else { s with ods := n }.yes

/-- EXEC (R63). R33 refuses an EXEC of an RO entry with ACCESS; that of an RW, RWQ or WO entry has the same answer (DESIGN CHOICE,
log 83). -/
def State.opExec (s : State) (q : DictReq) : OdsAns :=
  match entAt q.index q.sub with
  | none => s.no noEntry
  | some r =>
    if !s.nodeOk q.who || !r.pathOk q.index q.sub q.who.path || r.acc ≠ .cmd || foreignQueue r.ent q.who q.data then s.no badAccess
    else if s.ods.claimedBy q.index q.who then s.no isClaimed
    else if s.ods.held q.index q.sub ≠ 0 || s.cmdRunning q.index q.sub then s.no isBusy
    else if q.data.length ≠ r.size then s.no badType
    else
      match s.cmdCheck r.ent q.index q.sub q.data with
      | some e => s.no e
      | none => (s.cmdDo q.who r.ent q.index q.sub q.data).yes

/-- COMMIT without ARM (R53): a check of the change that fails empties the stage. -/
def State.opCommit (s : State) (q : DictReq) : OdsAns :=
  let o := s.ods
  if !s.nodeOk q.who then s.no badAccess
  else if !q.data.isEmpty then s.no badType
  else if q.force && o.stage.all (fun i => !inRange i.index 0x9000 0x97FF) then s.no badRange
  else if o.stageOwner ≠ some q.who || o.stage.isEmpty then s.no badState
  else
    let s' := { s with ods := o.noStage }
    match s'.changeCheck q.force none o.stage with
    | .error e => s'.no e
    | .ok p => (s'.commitNow q.who o.stage p).yes

/-- COMMIT with ARM (R56, R58). -/
def State.opCommitArmed (s : State) (q : DictReq) : OdsAns :=
  let o := s.ods
  let due := leNat q.data
  if !s.nodeOk q.who then s.no badAccess
  else
    match o.freeSlot with
    | none => s.no isBusy
    | some k =>
      if q.data.length ≠ 8 then s.no badType
      else if !inRange due (100000 + s.now) (2 ^ 44 + s.now) then s.no badRange
      else if q.force && o.stage.all (fun i => !inRange i.index 0x9000 0x97FF) then s.no badRange
      else if o.stageOwner ≠ some q.who || o.stage.isEmpty then s.no badState
      else
        let s' := { s with ods := o.noStage }
        match s'.changeCheck q.force (some due) o.stage with
        | .error e => s'.no e
        | .ok p => (s'.arm q.who q.tag k due o.stage p).yes (natLe k 1)

/-- ABORT without ARM (R52, R53). -/
def State.opAbort (s : State) (q : DictReq) : OdsAns :=
  if !s.nodeOk q.who then s.no badAccess
  else if !q.data.isEmpty then s.no badType
  else if s.ods.stageOwner ≠ some q.who then s.no badState
  else s.stageDiscard.yes

/-- ABORT with ARM (R61): the slot returns to free. -/
def State.opAbortArmed (s : State) (q : DictReq) : OdsAns :=
  let k := le q.data 0 1
  let t : TrestleSlot := sget {} s.ods.trestle k
  if !s.nodeOk q.who then s.no badAccess
  else if q.data.length ≠ 1 then s.no badType
  else if 7 < k then s.no badRange
  else if t.owner.any (fun w => w ≠ q.who) then s.no badAccess
  else if t.state ≠ 1 then s.no badState
  else if t.due.toNat < 10000 + s.now + 1 then s.no badState
  else (State.noFigures { s with ods := { s.ods with trestle := sdel s.ods.trestle k } } k).yes

/-- A claim's range holds no entry that would refuse the claiming instance a change for its path (R35). -/
def claimable (lo hi : Nat) (p : Path) : Bool :=
  entRows.all (fun r =>
    (List.range ((r.hi - r.lo) / r.step + 1)).all (fun k =>
      let ix := r.lo + k * r.step
      decide (ix < lo) || decide (hi < ix) || (r.pathOk ix r.s0 p && r.pathOk ix r.s1 p)))

/-- CLAIM (R46, R47): the slots of the requester that the range meets are merged into the first of them. A last index below the first
holds no entry and meets no claim; it is refused with RANGE, at step 7 of R39 (DESIGN CHOICE, log 82). -/
def State.opClaim (s : State) (q : DictReq) : OdsAns :=
  let o := s.ods
  let lo := le q.data 0 2
  let hi := le q.data 2 2
  let meets (lo hi : Nat) (c : Claim) : Bool := decide (lo ≤ hi) && decide (c.first ≤ hi) && decide (lo ≤ c.last)
  if !s.nodeOk q.who then s.no badAccess
  else if q.data.length ≠ 4 then s.no badType
  else if !claimable lo hi q.who.path then s.no badAccess
  else
    let mine := o.claims.filter (fun c => c.2.owner = q.who && meets lo hi c.2)
    let lo := mine.foldl (fun m c => min m c.2.first) lo
    let hi := mine.foldl (fun m c => max m c.2.last) hi
    if o.claims.any (fun c => c.2.owner ≠ q.who && meets lo hi c.2) then s.no isClaimed
    else if o.stageOwner.any (fun w => w ≠ q.who) && o.stage.any (fun i => inRange i.index lo hi) then s.no isBusy
    else
      let slot := match mine.head? with
        | some c => some c.1
        | none => sfree o.claims 16
      match slot with
      | none => s.no isBusy
      | some k =>
        let rest := o.claims.filter (fun c => !mine.any (fun m => m.1 = c.1))
        let c : Claim := { first := lo, last := hi, owner := q.who, seen := s.now }
        if hi < lo then s.no badRange else { s with ods := { o with claims := sput rest k c } }.yes (natLe k 1)

/-- RELEASE (R48). A slot number above 15 is refused with RANGE (DESIGN CHOICE, log 81). -/
def State.opRelease (s : State) (q : DictReq) : OdsAns :=
  let k := le q.data 0 1
  if !s.nodeOk q.who then s.no badAccess
  else if q.data.length ≠ 1 then s.no badType
  else if 15 < k then s.no badRange
  else
    match sfind s.ods.claims k with
    | some c => if c.owner = q.who then { s with ods := { s.ods with claims := sdel s.ods.claims k } }.yes else s.no badAccess
    | none => s.no badAccess

/-- The operation that a well-formed header names. -/
def State.opRun (s : State) (q : DictReq) : OdsAns :=
  match q.op with
  | 1 => s.opRead q
  | 2 => s.opWrite q
  | 3 => s.opStage q
  | 4 => if q.arm then s.opCommitArmed q else s.opCommit q
  | 5 => if q.arm then s.opAbortArmed q else s.opAbort q
  | 6 => s.opClaim q
  | 7 => s.opRelease q
  | _ => s.opExec q

/-- During BLK and in the grave state only READ is served, and in the grave state CHIP_RESET_REQ (R478, R498). -/
def State.odsShut (s : State) (q : DictReq) : Bool :=
  q.op ≠ 1 && ((s.pcs.blk ≠ 0) || (s.faults.grave && !(q.op = 8 && q.index = 0x9002 && q.sub = 1)))

/-- One request: the shut state, the form, then the operation. The spec does not order STATE during BLK and in the grave state against
the form check: STATE goes first (DESIGN CHOICE, log 85). -/
def State.odsRun (s : State) (q : DictReq) : OdsAns :=
  if s.odsShut q then s.no badState
  else if !q.formOk then s.no { status := 4, step := 1 }
  else s.opRun q

/-! ### Responses -/

/-- The response leaves on its path: into the mailbox (R40), over MCTP (R41), or as a management message (R42). A request whose mailbox
was reset has none. -/
def State.respondDict (s : State) (q : DictReq) (status : Nat) (data : Bytes) : State :=
  let m := q.answer status data
  let box (p : Nat) : State :=
    if q.lost then s
    else
      let x := sget {} s.ods.mbx p
      let y : Mailbox := { x with busy := false, done := true, lastStatus := BitVec.ofNat 8 status, rsp := mwrite x.rsp 0 m }
      let s := { s with ods := { s.ods with mbx := sset {} s.ods.mbx p y } }
      if y.irq.getLsbD 0 then s.raise p (s.rdN (portIx p 0x2000) 3 0 1) else s
  match q.who.path with
  | .h0 => box 0
  | .h1 => box 1
  | .o => s.emit (.mctp q.mctpTag m)
  | .f => s.unicast q.who.node 0x02 m

/-- A refusal is recorded for WRITE, STAGE, COMMIT, CLAIM and EXEC; a refused COMMIT, and a WRITE refused at step 8 or 9, is an event (R64). -/
def State.refused (s : State) (q : DictReq) (e : Refused) : State :=
  let s := if q.op = 2 || q.op = 3 || q.op = 4 || q.op = 6 || q.op = 8 then s.refusal q.who q.op q.index q.sub q.tag e else s
  if q.op = 4 || (q.op = 2 && decide (8 ≤ e.step)) then s.event 0 else s

/-- The owner's leases start anew with each request of it (R48, R52), at the instant the request is served, so one that a full queue
answers BUSY renews none (DESIGN CHOICE, log 84). -/
def State.touch (s : State) (who : Sender) : State :=
  let o := s.ods
  { s with ods := { o with
      stageSeen := if o.stageOwner = some who then s.now else o.stageSeen,
      claims := o.claims.map (fun c => if c.2.owner = who then (c.1, { c.2 with seen := s.now }) else c) } }

/-! ### The service order (R43) -/

/-- The requests that wait on an instance: 0 H0, 1 H1, 2 O, 3 F. -/
def Ods.waiting (o : Ods) : Nat → List DictReq
  | 0 => o.waitH0
  | 1 => o.waitH1
  | 2 => o.waitO
  | _ => o.waitF
def Ods.setWaiting (o : Ods) (i : Nat) (l : List DictReq) : Ods :=
  match i with
  | 0 => { o with waitH0 := l }
  | 1 => { o with waitH1 := l }
  | 2 => { o with waitO := l }
  | _ => { o with waitF := l }

/-- The request that is served next, with its instance. -/
def Ods.next (o : Ods) : Option (Nat × DictReq) :=
  (List.range 4).findSome? (fun k =>
    let i := (o.round + k) % 4
    (o.waiting i).head?.map (fun q => (i, q)))

/-- A request of an instance is taken. -/
def Ods.take (o : Ods) (i : Nat) : Ods :=
  let o := o.setWaiting i (o.waiting i).tail
  { o with round := if (List.range 4).all (fun k => (o.waiting k).isEmpty) then 0 else (i + 1) % 4 }

/-- The ODS answers its paths: not before its start (Table 16.6), and not in D3cold (R45). -/
def State.odsUp (s : State) : Bool := s.pcs.odsUp && !s.pcs.cold

/-- The kinds of request that the command table names: the operations, the commands by entry, and the writes with a row of their own. -/
inductive Serve where
  | read | write | stage | commit | commitArmed | abort | abortArmed | claim | release
  | exec (e : Ent)
  | put (e : Ent)
  deriving DecidableEq, Repr

/-- The entries whose WRITE is a row of its own. -/
def ownWrite (e : Ent) : Bool :=
  e = .dcaEnable || e = .fqHead || e = .hpCtl || e = .capPoint || e = .ringTail || e = .evRingTail

/-- The row that a request belongs to. A message without an operation, or short of a header, is answered with the READs; an EXEC that
names no command is answered with the WRITEs (log 62). -/
def DictReq.kind (q : DictReq) : Serve :=
  if q.msg.length < 16 then .read
  else
    match q.op with
    | 2 => match entAt q.index q.sub with
           | some r => if ownWrite r.ent then .put r.ent else .write
           | none => .write
    | 3 => .stage
    | 4 => if q.arm then .commitArmed else .commit
    | 5 => if q.arm then .abortArmed else .abort
    | 6 => .claim
    | 7 => .release
    | 8 => match entAt q.index q.sub with
           | some r => if r.acc = .cmd then .exec r.ent else .write
           | none => .write
    | _ => .read

/-- A request is served whole: its operation, the leases, the record of a refusal, and the response. -/
def State.serveReq (s : State) (q : DictReq) (fix : Bytes → Bytes := id) : State :=
  let (s, r) := s.odsRun q
  let s := s.touch q.who
  match r with
  | .ok b => s.respondDict q 0 (fix b)
  | .error e => (s.refused q e).respondDict q e.status []

/-- The ODS serves its next request, if it is of a kind. -/
def State.odsServe (s : State) (k : Serve) : State :=
  if !s.odsUp then s
  else
    match s.ods.next with
    | some (i, q) => if q.kind = k then s.direct .ods (fun s => State.serveReq { s with ods := s.ods.take i } q) else s
    | none => s

/-! ### Arrival -/

/-- MBX_DOORBELL (R40): the ODS copies the request area. Only 1 submits. -/
def State.doorbell (s : State) (p value : Nat) : State :=
  let x : Mailbox := sget {} s.ods.mbx p
  if !s.odsUp || !s.linkUp p || s.hostHeld p || s.barHeld p || value ≠ 1 then s
  else if x.busy then
    State.wakeUp { s with ods := { s.ods with mbx := sset {} s.ods.mbx p { x with dropped := if x.dropped = 0xFF then 0xFF else x.dropped + 1 } } }
  else
    let n := le (mread x.req 8 2) 0 2
    let q : DictReq := { who := { path := hPath p }, msg := mread x.req 0 (16 + min n 1024) }
    let o := { s.ods with mbx := sset {} s.ods.mbx p { x with busy := true, done := false, dropped := 0 } }
    State.wakeUp { s with ods := if p = 0 then { o with waitH0 := o.waitH0 ++ [q] } else { o with waitH1 := o.waitH1 ++ [q] } }

def execMbxDoorbell (port : Fin 2) (value : BitVec 32) (s : State) : Answer := .next (s.doorbell port value.toNat)

/-- One byte written to a mailbox register: MBX_IRQ's bit 0, or MBX_REQ, which discards writes while BUSY (R40). -/
def Mailbox.put (x : Mailbox) (a : Nat) (b : Byte) : Mailbox :=
  if a = 8 then { x with irq := BitVec.ofNat 32 (b.toNat % 2) }
  else if inRange a 0x100 0x50F && !x.busy then { x with req := mset x.req (a - 0x100) b }
  else x

/-- A host write to the mailbox, at an offset from its base. -/
def State.mbxWrite (s : State) (p off : Nat) (data : Bytes) : State :=
  if !s.odsUp || !s.linkUp p || s.hostHeld p || s.barHeld p then s
  else
    let x : Mailbox := sget {} s.ods.mbx p
    let y := ((List.range data.length).zip data).foldl (fun y kb => Mailbox.put y (off + kb.1) kb.2) x
    State.wakeUp { s with ods := { s.ods with mbx := sset {} s.ods.mbx p y } }

def execMbxReqWrite (port : Fin 2) (offset : Nat) (data : Bytes) (s : State) : Answer :=
  .next (s.mbxWrite port offset data)

/-- A request that finds its path full is answered with BUSY and not executed (R41, R42). -/
def State.overflow (s : State) (q : DictReq) : State :=
  (s.refused q { status := 6, step := 0 }).respondDict q 6 []

/-- A dictionary request over MCTP (R41): at most 4 wait. -/
def State.oRequest (s : State) (tag : Nat) (msg : Bytes) : State :=
  let q : DictReq := { who := { path := .o }, mctpTag := tag, msg := msg }
  if !s.odsUp then s
  else if 4 ≤ s.ods.waitO.length then s.overflow q
  else State.wakeUp { s with ods := { s.ods with waitO := s.ods.waitO ++ [q] } }

def execOPathRequest (mctpTag : Nat) (msg : Bytes) (s : State) : Answer := .next (s.oRequest mctpTag msg)

/-- A dictionary request from a fabric node (R42): at most 16 wait. -/
def State.fRequest (s : State) (node : BitVec 16) (msg : Bytes) : State :=
  let q : DictReq := { who := { path := .f, node := node }, msg := msg }
  if !s.odsUp then s
  else if 16 ≤ s.ods.waitF.length then s.overflow q
  else State.wakeUp { s with ods := { s.ods with waitF := s.ods.waitF ++ [q] } }

def execFPathRequest (node : BitVec 16) (msg : Bytes) (s : State) : Answer := .next (s.fRequest node msg)

/-! ### Operations -/

/-- DICT_READ. An error in the dictionary's storage is found by the read of an entry: a corrected one is counted, and an uncorrectable one
leaves the value returned unstated and ends in BLK (Table 17.7, ODS). -/
def State.serveRead (s : State) (found : Ecc) : State :=
  if !s.odsUp then s
  else
    match s.ods.next with
    | some (i, q) =>
      if q.kind ≠ .read then s
      else
        let s := { s with ods := s.ods.take i }
        let h : Hit := { access := 0xA, mUnit := uOds, aspace := 5, addr := q.index * 256 + q.sub }
        match found with
        | .clean => s.serveReq q
        | .corrected => (s.serveReq q).fire uOds 0 1 h
        | .uncorrectable =>
          let (x, s) := s.draw
          (s.serveReq q (fun b => natLe x b.length)).fireBlk uOds 0 2 h
    | none => s

def execDictRead (found : Ecc) (s : State) : Answer := .next (s.serveRead found)
def execDictWrite (s : State) : Answer := .next (s.odsServe .write)
def execDictStage (s : State) : Answer := .next (s.odsServe .stage)
def execDictCommit (s : State) : Answer := .next (s.odsServe .commit)
def execDictCommitArmed (s : State) : Answer := .next (s.odsServe .commitArmed)
def execDictAbort (s : State) : Answer := .next (s.odsServe .abort)
def execDictAbortArmed (s : State) : Answer := .next (s.odsServe .abortArmed)
def execDictClaim (s : State) : Answer := .next (s.odsServe .claim)
def execDictRelease (s : State) : Answer := .next (s.odsServe .release)

/-! ### Leases (R48, R52) -/

/-- CLAIM_LEASE_EXPIRY: of an O or F claim. -/
def State.claimExpire (s : State) (k : Nat) : State :=
  match sfind s.ods.claims k with
  | some c =>
    if (c.owner.path = .o || c.owner.path = .f) && decide (1000000 * s.rdN 0x1103 0 0 4 ≤ since s.now c.seen) then
      { s with ods := { s.ods with claims := sdel s.ods.claims k } }
    else s
  | none => s

def execClaimLeaseExpiry (slot : Fin 16) (s : State) : Answer := .next (s.claimExpire slot)

/-- STAGE_LEASE_EXPIRY. -/
def State.stageExpire (s : State) : State :=
  if s.ods.stageOwner.isSome && decide (1000000 * s.rdN 0x1102 0 0 4 ≤ since s.now s.ods.stageSeen) then s.stageDiscard else s

def execStageLeaseExpiry (s : State) : Answer := .next s.stageExpire

/-! ### Writes with a row of their own -/

def execDcaEnableWrite (s : State) : Answer := .next (s.odsServe (.put .dcaEnable))
def execFqHeadWrite (s : State) : Answer := .next (s.odsServe (.put .fqHead))
def execHpCtlWrite (s : State) : Answer := .next (s.odsServe (.put .hpCtl))
def execCapPointWrite (s : State) : Answer := .next (s.odsServe (.put .capPoint))
def execRingTailWrite (s : State) : Answer := .next (s.odsServe (.put .ringTail))
def execEvRingTailWrite (s : State) : Answer := .next (s.odsServe (.put .evRingTail))

/-! ### Commands -/

def execClearRefusals (s : State) : Answer := .next (s.odsServe (.exec .clearRefusals))
def execQueueResume (s : State) : Answer := .next (s.odsServe (.exec .queueResume))
def execQueueClear (s : State) : Answer := .next (s.odsServe (.exec .queueClear))
def execClassClear (s : State) : Answer := .next (s.odsServe (.exec .classClear))
def execSsuClear (s : State) : Answer := .next (s.odsServe (.exec .ssuClear))
def execSsuResume (s : State) : Answer := .next (s.odsServe (.exec .ssuResume))
def execSessionQuery (s : State) : Answer := .next (s.odsServe (.exec .sessionQuery))
def execEpmFlip (s : State) : Answer := .next (s.odsServe (.exec .epmFlip))
def execEpmDiscard (s : State) : Answer := .next (s.odsServe (.exec .epmDiscard))
def execRingResume (s : State) : Answer := .next (s.odsServe (.exec .ringResume))
def execEpmResumeTable (s : State) : Answer := .next (s.odsServe (.exec .epmResumeTable))
def execGpeClear (s : State) : Answer := .next (s.odsServe (.exec .gpeClear))
def execTableClear (s : State) : Answer := .next (s.odsServe (.exec .tableClear))
def execTileSwap (s : State) : Answer := .next (s.odsServe (.exec .tileSwap))
def execTileClear (s : State) : Answer := .next (s.odsServe (.exec .tileClear))
def execNumClear (s : State) : Answer := .next (s.odsServe (.exec .numClear))
def execHistClear (s : State) : Answer := .next (s.odsServe (.exec .histClear))
def execProgLoad (s : State) : Answer := .next (s.odsServe (.exec .progLoad))
def execProgUnload (s : State) : Answer := .next (s.odsServe (.exec .progUnload))
def execCabClear (s : State) : Answer := .next (s.odsServe (.exec .cabClear))
def execLockRun (s : State) : Answer := .next (s.odsServe (.exec .lockRun))
def execDetClear (s : State) : Answer := .next (s.odsServe (.exec .detClear))
def execDcaInvalidate (s : State) : Answer := .next (s.odsServe (.exec .dcaInvalidate))
def execDcaClear (s : State) : Answer := .next (s.odsServe (.exec .dcaClear))
def execCohClear (s : State) : Answer := .next (s.odsServe (.exec .cohClear))
def execOrderClear (s : State) : Answer := .next (s.odsServe (.exec .orderClear))
def execPcSpare (s : State) : Answer := .next (s.odsServe (.exec .pcSpare))
def execRankSpare (s : State) : Answer := .next (s.odsServe (.exec .rankSpare))
def execCarveFlush (s : State) : Answer := .next (s.odsServe (.exec .carveFlush))
def execHbmClear (s : State) : Answer := .next (s.odsServe (.exec .hbmClear))
def execCapClear (s : State) : Answer := .next (s.odsServe (.exec .capClear))
def execBgClear (s : State) : Answer := .next (s.odsServe (.exec .bgClear))
def execInvSlot (s : State) : Answer := .next (s.odsServe (.exec .invSlot))
def execGranuleSet (s : State) : Answer := .next (s.odsServe (.exec .granuleSet))
def execGranuleQuery (s : State) : Answer := .next (s.odsServe (.exec .granuleQuery))
def execCtxFaultClear (s : State) : Answer := .next (s.odsServe (.exec .ctxFaultClear))
def execMtuClear (s : State) : Answer := .next (s.odsServe (.exec .mtuClear))
def execHdmMove (s : State) : Answer := .next (s.odsServe (.exec .hdmMove))
def execPortClear (s : State) : Answer := .next (s.odsServe (.exec .portClear))
def execLostClear (s : State) : Answer := .next (s.odsServe (.exec .lostClear))
def execLaneSpare (s : State) : Answer := .next (s.odsServe (.exec .laneSpare))
def execPortReset (s : State) : Answer := .next (s.odsServe (.exec .portReset))
def execHpClear (s : State) : Answer := .next (s.odsServe (.exec .hpClear))
def execGfrClear (s : State) : Answer := .next (s.odsServe (.exec .gfrClear))
def execGtcClear (s : State) : Answer := .next (s.odsServe (.exec .gtcClear))
def execPcsClear (s : State) : Answer := .next (s.odsServe (.exec .pcsClear))
def execBlkReset (s : State) : Answer := .next (s.odsServe (.exec .blkReset))
def execChipResetReq (s : State) : Answer := .next (s.odsServe (.exec .chipResetReq))
def execFaultClear (s : State) : Answer := .next (s.odsServe (.exec .faultClear))

end Sys2Proof.Machine
end

