-- ==== Sys2Proof/Machine/Dispatch.lean ====
section
/-! DEFINITION. The dispatch: one arm per command, each a direct call of its meaning. -/
namespace Sys2Proof.Machine

def exec (i : Instr) (s : State) : Host.Outcome State Fault Refusal :=
  match i with
  | .mbxDoorbell port value => Sys2Proof.Machine.execMbxDoorbell port value s
  | .oPathRequest mctpTag msg => Sys2Proof.Machine.execOPathRequest mctpTag msg s
  | .fPathRequest node msg => Sys2Proof.Machine.execFPathRequest node msg s
  | .dictRead found => Sys2Proof.Machine.execDictRead found s
  | .claimLeaseExpiry slot => Sys2Proof.Machine.execClaimLeaseExpiry slot s
  | .trestleFire slot => Sys2Proof.Machine.execTrestleFire slot s
  | .sqTailDoorbell port queue width value => Sys2Proof.Machine.execSqTailDoorbell port queue width value s
  | .cqHeadDoorbell port queue width value => Sys2Proof.Machine.execCqHeadDoorbell port queue width value s
  | .descriptorFetch q => Sys2Proof.Machine.execDescriptorFetch q s
  | .descriptorReadReturn q => Sys2Proof.Machine.execDescriptorReadReturn q s
  | .descriptorReread q => Sys2Proof.Machine.execDescriptorReread q s
  | .queueStall q => Sys2Proof.Machine.execQueueStall q s
  | .requestPolice q found => Sys2Proof.Machine.execRequestPolice q found s
  | .requestBind cab prog => Sys2Proof.Machine.execRequestBind cab prog s
  | .requestRecordAck req => Sys2Proof.Machine.execRequestRecordAck req s
  | .taskComplete req => Sys2Proof.Machine.execTaskComplete req s
  | .completionWrite q => Sys2Proof.Machine.execCompletionWrite q s
  | .completionWriteAck q => Sys2Proof.Machine.execCompletionWriteAck q s
  | .requestEnd req => Sys2Proof.Machine.execRequestEnd req s
  | .sessionBind req found => Sys2Proof.Machine.execSessionBind req found s
  | .drawerReload key => Sys2Proof.Machine.execDrawerReload key s
  | .evBatchStart => Sys2Proof.Machine.execEvBatchStart s
  | .evRingReread ring => Sys2Proof.Machine.execEvRingReread ring s
  | .evRingStall ring => Sys2Proof.Machine.execEvRingStall ring s
  | .eventAppend ring => Sys2Proof.Machine.execEventAppend ring s
  | .sessionEndApply ring => Sys2Proof.Machine.execSessionEndApply ring s
  | .evBatchComplete ring => Sys2Proof.Machine.execEvBatchComplete ring s
  | .sessionExpire key => Sys2Proof.Machine.execSessionExpire key s
  | .summaryRebuild key block => Sys2Proof.Machine.execSummaryRebuild key block s
  | .hseScanAccept cab => Sys2Proof.Machine.execHseScanAccept cab s
  | .hseScanStart cab => Sys2Proof.Machine.execHseScanStart cab s
  | .hseLineArrive cab tag found => Sys2Proof.Machine.execHseLineArrive cab tag found s
  | .hseScanComplete cab => Sys2Proof.Machine.execHseScanComplete cab s
  | .epmBatchStart => Sys2Proof.Machine.execEpmBatchStart s
  | .ringReread ring => Sys2Proof.Machine.execRingReread ring s
  | .ringStall ring => Sys2Proof.Machine.execRingStall ring s
  | .batchRowApply ring => Sys2Proof.Machine.execBatchRowApply ring s
  | .batchComplete ring => Sys2Proof.Machine.execBatchComplete ring s
  | .epochRefusedReceive payload => Sys2Proof.Machine.execEpochRefusedReceive payload s
  | .drainComplete table => Sys2Proof.Machine.execDrainComplete table s
  | .compactionStep table => Sys2Proof.Machine.execCompactionStep table s
  | .compactionEnd table => Sys2Proof.Machine.execCompactionEnd table s
  | .discardSweepEnd table => Sys2Proof.Machine.execDiscardSweepEnd table s
  | .gpeCommandEnqueue gpe => Sys2Proof.Machine.execGpeCommandEnqueue gpe s
  | .gatherCommandStart gpe => Sys2Proof.Machine.execGatherCommandStart gpe s
  | .gpeLineReadIssue gpe => Sys2Proof.Machine.execGpeLineReadIssue gpe s
  | .gpeLineArrive gpe tag found => Sys2Proof.Machine.execGpeLineArrive gpe tag found s
  | .gatherCommandComplete gpe => Sys2Proof.Machine.execGatherCommandComplete gpe s
  | .pdRequestSend gpe => Sys2Proof.Machine.execPdRequestSend gpe s
  | .pdRequestArrive msg => Sys2Proof.Machine.execPdRequestArrive msg s
  | .pdResponseReceive msg => Sys2Proof.Machine.execPdResponseReceive msg s
  | .pdSlotTimeout gpe slot => Sys2Proof.Machine.execPdSlotTimeout gpe slot s
  | .mma tile => Sys2Proof.Machine.execMma tile s
  | .mmaComplete tile residueOk => Sys2Proof.Machine.execMmaComplete tile residueOk s
  | .vaddVsubVmulVfma tile => Sys2Proof.Machine.execVaddVsubVmulVfma tile s
  | .vminVmax tile => Sys2Proof.Machine.execVminVmax tile s
  | .vcmpeqVcmpltVcmple tile => Sys2Proof.Machine.execVcmpeqVcmpltVcmple tile s
  | .vselVmovVbcast tile => Sys2Proof.Machine.execVselVmovVbcast tile s
  | .vrcpVrsqVsqrtVexp2Vlog2 tile => Sys2Proof.Machine.execVrcpVrsqVsqrtVexp2Vlog2 tile s
  | .vredaddVredmax tile => Sys2Proof.Machine.execVredaddVredmax tile s
  | .cvt tile => Sys2Proof.Machine.execCvt tile s
  | .tnarrow tile => Sys2Proof.Machine.execTnarrow tile s
  | .twiden tile => Sys2Proof.Machine.execTwiden tile s
  | .histRd tile => Sys2Proof.Machine.execHistRd tile s
  | .histClr tile => Sys2Proof.Machine.execHistClr tile s
  | .streamOpComplete tile => Sys2Proof.Machine.execStreamOpComplete tile s
  | .vld tile found => Sys2Proof.Machine.execVld tile found s
  | .vst tile => Sys2Proof.Machine.execVst tile s
  | .ld tile => Sys2Proof.Machine.execLd tile s
  | .st tile => Sys2Proof.Machine.execSt tile s
  | .lds tile => Sys2Proof.Machine.execLds tile s
  | .sts tile => Sys2Proof.Machine.execSts tile s
  | .ldp tile => Sys2Proof.Machine.execLdp tile s
  | .stp tile => Sys2Proof.Machine.execStp tile s
  | .ldr tile => Sys2Proof.Machine.execLdr tile s
  | .stc tile => Sys2Proof.Machine.execStc tile s
  | .fetchAtomic tile => Sys2Proof.Machine.execFetchAtomic tile s
  | .acas tile => Sys2Proof.Machine.execAcas tile s
  | .gpost tile => Sys2Proof.Machine.execGpost tile s
  | .hpost tile => Sys2Proof.Machine.execHpost tile s
  | .barL tile => Sys2Proof.Machine.execBarL tile s
  | .barS tile => Sys2Proof.Machine.execBarS tile s
  | .barA tile => Sys2Proof.Machine.execBarA tile s
  | .xfuTransferIssue tile => Sys2Proof.Machine.execXfuTransferIssue tile s
  | .xferComplete tile tag => Sys2Proof.Machine.execXferComplete tile tag s
  | .xferTimeout tile tag => Sys2Proof.Machine.execXferTimeout tile tag s
  | .reservationTimeout tile ctx => Sys2Proof.Machine.execReservationTimeout tile ctx s
  | .addSubMul tile => Sys2Proof.Machine.execAddSubMul tile s
  | .andOrXor tile => Sys2Proof.Machine.execAndOrXor tile s
  | .shlShrSra tile => Sys2Proof.Machine.execShlShrSra tile s
  | .sltSltu tile => Sys2Proof.Machine.execSltSltu tile s
  | .sel tile => Sys2Proof.Machine.execSel tile s
  | .addi tile => Sys2Proof.Machine.execAddi tile s
  | .shori tile => Sys2Proof.Machine.execShori tile s
  | .xlane tile => Sys2Proof.Machine.execXlane tile s
  | .waitGrp tile => Sys2Proof.Machine.execWaitGrp tile s
  | .endSeg tile => Sys2Proof.Machine.execEndSeg tile s
  | .gtcr tile => Sys2Proof.Machine.execGtcr tile s
  | .csrr tile => Sys2Proof.Machine.execCsrr tile s
  | .contextPick tile found => Sys2Proof.Machine.execContextPick tile found s
  | .contextRelease tile ctx => Sys2Proof.Machine.execContextRelease tile ctx s
  | .trapStart tile => Sys2Proof.Machine.execTrapStart tile s
  | .spareCheckEnd pass => Sys2Proof.Machine.execSpareCheckEnd pass s
  | .progLoadDone => Sys2Proof.Machine.execProgLoadDone s
  | .sliceAccess slice found => Sys2Proof.Machine.execSliceAccess slice found s
  | .missFillReturn slice fill whole => Sys2Proof.Machine.execMissFillReturn slice fill whole s
  | .victimWritebackDone slice key => Sys2Proof.Machine.execVictimWritebackDone slice key s
  | .hostSnoop port addr kind => Sys2Proof.Machine.execHostSnoop port addr kind s
  | .hostCacheResponse port id ext => Sys2Proof.Machine.execHostCacheResponse port id ext s
  | .hdmHostRequest port req => Sys2Proof.Machine.execHdmHostRequest port req s
  | .birspReceive port line rsp => Sys2Proof.Machine.execBirspReceive port line rsp s
  | .biTimeout port line => Sys2Proof.Machine.execBiTimeout port line s
  | .dcaInvalidateDone slice => Sys2Proof.Machine.execDcaInvalidateDone slice s
  | .lineReadReturn ctl id ecc => Sys2Proof.Machine.execLineReadReturn ctl id ecc s
  | .carveTagReturn id ecc => Sys2Proof.Machine.execCarveTagReturn id ecc s
  | .refDue ctl bank fg => Sys2Proof.Machine.execRefDue ctl bank fg s
  | .bgSlotStart ctl bank fg makeup => Sys2Proof.Machine.execBgSlotStart ctl bank fg makeup s
  | .bgSlotEnd ctl bank => Sys2Proof.Machine.execBgSlotEnd ctl bank s
  | .phyRecalDue ctl part ok => Sys2Proof.Machine.execPhyRecalDue ctl part ok s
  | .walkStep walker found => Sys2Proof.Machine.execWalkStep walker found s
  | .atsResponse port acid iova target read write => Sys2Proof.Machine.execAtsResponse port acid iova target read write s
  | .faultBatchWrite port => Sys2Proof.Machine.execFaultBatchWrite port s
  | .faultBatchPerformed port => Sys2Proof.Machine.execFaultBatchPerformed port s
  | .invalidationComplete slot => Sys2Proof.Machine.execInvalidationComplete slot s
  | .atsInvalidateRequest port pasid lo bytes => Sys2Proof.Machine.execAtsInvalidateRequest port pasid lo bytes s
  | .flr port => Sys2Proof.Machine.execFlr port s
  | .flrDone port => Sys2Proof.Machine.execFlrDone port s
  | .hostLinkReset port cause => Sys2Proof.Machine.execHostLinkReset port cause s
  | .lostWriteLogAppend port => Sys2Proof.Machine.execLostWriteLogAppend port s
  | .hostLinkUp port rate width flit cfg => Sys2Proof.Machine.execHostLinkUp port rate width flit cfg s
  | .linkRecovery port replays ideFailed => Sys2Proof.Machine.execLinkRecovery port replays ideFailed s
  | .busMasterEnableClear port => Sys2Proof.Machine.execBusMasterEnableClear port s
  | .d3hotEntry port pmeEn => Sys2Proof.Machine.execD3hotEntry port pmeEn s
  | .d0Return port pmeEn => Sys2Proof.Machine.execD0Return port pmeEn s
  | .hdmDecoderCommit port base size ways => Sys2Proof.Machine.execHdmDecoderCommit port base size ways s
  | .stagingApertureWrite port offset data => Sys2Proof.Machine.execStagingApertureWrite port offset data s
  | .stagingApertureRead port offset len => Sys2Proof.Machine.execStagingApertureRead port offset len s
  | .hdmMoveRecallDone port => Sys2Proof.Machine.execHdmMoveRecallDone port s
  | .hdmMoveCopyStep port => Sys2Proof.Machine.execHdmMoveCopyStep port s
  | .msixVectorUnmask port vector => Sys2Proof.Machine.execMsixVectorUnmask port vector s
  | .spdmRequest port req => Sys2Proof.Machine.execSpdmRequest port req s
  | .pmeTurnOff port => Sys2Proof.Machine.execPmeTurnOff port s
  | .flitReceive port flit found => Sys2Proof.Machine.execFlitReceive port flit found s
  | .flitAckDue port => Sys2Proof.Machine.execFlitAckDue port s
  | .linkRetrain port => Sys2Proof.Machine.execLinkRetrain port s
  | .retrainLimitExpiry port => Sys2Proof.Machine.execRetrainLimitExpiry port s
  | .laneLossOfLock port lane => Sys2Proof.Machine.execLaneLossOfLock port lane s
  | .laneRecalDue port => Sys2Proof.Machine.execLaneRecalDue port s
  | .gfrForward msg found => Sys2Proof.Machine.execGfrForward msg found s
  | .gfrStaleDiscard msg => Sys2Proof.Machine.execGfrStaleDiscard msg s
  | .fabricRequestReceive msg => Sys2Proof.Machine.execFabricRequestReceive msg s
  | .fabricResponseReceive msg => Sys2Proof.Machine.execFabricResponseReceive msg s
  | .portDown port => Sys2Proof.Machine.execPortDown port s
  | .linkQueryReceive src atPort => Sys2Proof.Machine.execLinkQueryReceive src atPort s
  | .linkReplyReceive port valid seq => Sys2Proof.Machine.execLinkReplyReceive port valid seq s
  | .failoverHoldExpiry port => Sys2Proof.Machine.execFailoverHoldExpiry port s
  | .lqTimeout port => Sys2Proof.Machine.execLqTimeout port s
  | .portTrained port node nport delay => Sys2Proof.Machine.execPortTrained port node nport delay s
  | .mgtBroadcastReceive port src subtype payload => Sys2Proof.Machine.execMgtBroadcastReceive port src subtype payload s
  | .syncSend port => Sys2Proof.Machine.execSyncSend port s
  | .syncReceive port t1 t2 => Sys2Proof.Machine.execSyncReceive port t1 t2 s
  | .delayReqReceive port t4 => Sys2Proof.Machine.execDelayReqReceive port t4 s
  | .delayRspReceive port t4 hops gm => Sys2Proof.Machine.execDelayRspReceive port t4 hops gm s
  | .attnButtonPress port => Sys2Proof.Machine.execAttnButtonPress port s
  | .presenceChange port present => Sys2Proof.Machine.execPresenceChange port present s
  | .pwrenTrainingStart port => Sys2Proof.Machine.execPwrenTrainingStart port s
  | .vfLimitChange code => Sys2Proof.Machine.execVfLimitChange code s
  | .thermalLimitChange sensor value => Sys2Proof.Machine.execThermalLimitChange sensor value s
  | .clkAck clk => Sys2Proof.Machine.execClkAck clk s
  | .clkAckTimeout clk => Sys2Proof.Machine.execClkAckTimeout clk s
  | .cabPswAck sw => Sys2Proof.Machine.execCabPswAck sw s
  | .cabPswTimeout sw => Sys2Proof.Machine.execCabPswTimeout sw s
  | .idleEntry cab => Sys2Proof.Machine.execIdleEntry cab s
  | .idleEntryComplete cab => Sys2Proof.Machine.execIdleEntryComplete cab s
  | .wake source => Sys2Proof.Machine.execWake source s
  | .por straps => Sys2Proof.Machine.execPor straps s
  | .mainPwrgdRise retained => Sys2Proof.Machine.execMainPwrgdRise retained s
  | .startupRomCheck ok => Sys2Proof.Machine.execStartupRomCheck ok s
  | .tileSelfcheckDone failed => Sys2Proof.Machine.execTileSelfcheckDone failed s
  | .shelfTrainingDone lostStack capGiB ranks failed => Sys2Proof.Machine.execShelfTrainingDone lostStack capGiB ranks failed s
  | .pldmRequest sensor => Sys2Proof.Machine.execPldmRequest sensor s
  | .unitResetEnd unit inst => Sys2Proof.Machine.execUnitResetEnd unit inst s
  | .mbxReqWrite port offset data => Sys2Proof.Machine.execMbxReqWrite port offset data s
  | .completionWriteRetry q => Sys2Proof.Machine.execCompletionWriteRetry q s
  | .matchingTransferCancel unit => Sys2Proof.Machine.execMatchingTransferCancel unit s
  | .thermalWarn sensor value => Sys2Proof.Machine.execThermalWarn sensor value s
  | .reachNodeExpiry node => Sys2Proof.Machine.execReachNodeExpiry node s
  | .linkL1Change port level => Sys2Proof.Machine.execLinkL1Change port level s
  | .dictWrite => Sys2Proof.Machine.execDictWrite s
  | .dictStage => Sys2Proof.Machine.execDictStage s
  | .dictCommit => Sys2Proof.Machine.execDictCommit s
  | .dictCommitArmed => Sys2Proof.Machine.execDictCommitArmed s
  | .dictAbort => Sys2Proof.Machine.execDictAbort s
  | .dictAbortArmed => Sys2Proof.Machine.execDictAbortArmed s
  | .dictClaim => Sys2Proof.Machine.execDictClaim s
  | .dictRelease => Sys2Proof.Machine.execDictRelease s
  | .stageLeaseExpiry => Sys2Proof.Machine.execStageLeaseExpiry s
  | .clearRefusals => Sys2Proof.Machine.execClearRefusals s
  | .queueResume => Sys2Proof.Machine.execQueueResume s
  | .queueClear => Sys2Proof.Machine.execQueueClear s
  | .classClear => Sys2Proof.Machine.execClassClear s
  | .forcedAdmissionTest => Sys2Proof.Machine.execForcedAdmissionTest s
  | .drawerSpill => Sys2Proof.Machine.execDrawerSpill s
  | .evRingTailWrite => Sys2Proof.Machine.execEvRingTailWrite s
  | .ssuClear => Sys2Proof.Machine.execSsuClear s
  | .ssuResume => Sys2Proof.Machine.execSsuResume s
  | .sessionQuery => Sys2Proof.Machine.execSessionQuery s
  | .ringTailWrite => Sys2Proof.Machine.execRingTailWrite s
  | .epmFlip => Sys2Proof.Machine.execEpmFlip s
  | .epmDiscard => Sys2Proof.Machine.execEpmDiscard s
  | .ringResume => Sys2Proof.Machine.execRingResume s
  | .epmResumeTable => Sys2Proof.Machine.execEpmResumeTable s
  | .pdPartStart => Sys2Proof.Machine.execPdPartStart s
  | .gpeClear => Sys2Proof.Machine.execGpeClear s
  | .tableClear => Sys2Proof.Machine.execTableClear s
  | .tileSwap => Sys2Proof.Machine.execTileSwap s
  | .swapRemap => Sys2Proof.Machine.execSwapRemap s
  | .tileClear => Sys2Proof.Machine.execTileClear s
  | .numClear => Sys2Proof.Machine.execNumClear s
  | .histClear => Sys2Proof.Machine.execHistClear s
  | .progLoad => Sys2Proof.Machine.execProgLoad s
  | .progUnload => Sys2Proof.Machine.execProgUnload s
  | .cabClear => Sys2Proof.Machine.execCabClear s
  | .lockRun => Sys2Proof.Machine.execLockRun s
  | .lockRunEnd => Sys2Proof.Machine.execLockRunEnd s
  | .detClear => Sys2Proof.Machine.execDetClear s
  | .dcaEnableWrite => Sys2Proof.Machine.execDcaEnableWrite s
  | .dcaFlushDone => Sys2Proof.Machine.execDcaFlushDone s
  | .dcaInvalidate => Sys2Proof.Machine.execDcaInvalidate s
  | .dcaClear => Sys2Proof.Machine.execDcaClear s
  | .cohClear => Sys2Proof.Machine.execCohClear s
  | .orderClear => Sys2Proof.Machine.execOrderClear s
  | .pcSpare => Sys2Proof.Machine.execPcSpare s
  | .rankSpare => Sys2Proof.Machine.execRankSpare s
  | .carveFlush => Sys2Proof.Machine.execCarveFlush s
  | .hbmClear => Sys2Proof.Machine.execHbmClear s
  | .capClear => Sys2Proof.Machine.execCapClear s
  | .bgClear => Sys2Proof.Machine.execBgClear s
  | .walkStart => Sys2Proof.Machine.execWalkStart s
  | .fqHeadWrite => Sys2Proof.Machine.execFqHeadWrite s
  | .invSlot => Sys2Proof.Machine.execInvSlot s
  | .counterSweepDue => Sys2Proof.Machine.execCounterSweepDue s
  | .granuleSet => Sys2Proof.Machine.execGranuleSet s
  | .granuleQuery => Sys2Proof.Machine.execGranuleQuery s
  | .ctxFaultClear => Sys2Proof.Machine.execCtxFaultClear s
  | .mtuClear => Sys2Proof.Machine.execMtuClear s
  | .hdmMove => Sys2Proof.Machine.execHdmMove s
  | .portClear => Sys2Proof.Machine.execPortClear s
  | .lostClear => Sys2Proof.Machine.execLostClear s
  | .d3coldQuiesceDone => Sys2Proof.Machine.execD3coldQuiesceDone s
  | .d3c => Sys2Proof.Machine.execD3c s
  | .laneSpare => Sys2Proof.Machine.execLaneSpare s
  | .announce => Sys2Proof.Machine.execAnnounce s
  | .holdover => Sys2Proof.Machine.execHoldover s
  | .timepulseInEdge => Sys2Proof.Machine.execTimepulseInEdge s
  | .timepulseOut => Sys2Proof.Machine.execTimepulseOut s
  | .hpCtlWrite => Sys2Proof.Machine.execHpCtlWrite s
  | .portReset => Sys2Proof.Machine.execPortReset s
  | .hpClear => Sys2Proof.Machine.execHpClear s
  | .gfrClear => Sys2Proof.Machine.execGfrClear s
  | .gtcClear => Sys2Proof.Machine.execGtcClear s
  | .capPointWrite => Sys2Proof.Machine.execCapPointWrite s
  | .vfAck => Sys2Proof.Machine.execVfAck s
  | .vfAckTimeout => Sys2Proof.Machine.execVfAckTimeout s
  | .trimRecalibrationDone => Sys2Proof.Machine.execTrimRecalibrationDone s
  | .shelf2FillDone => Sys2Proof.Machine.execShelf2FillDone s
  | .aliveToggle => Sys2Proof.Machine.execAliveToggle s
  | .pcsClear => Sys2Proof.Machine.execPcsClear s
  | .blkReset => Sys2Proof.Machine.execBlkReset s
  | .blkFlushDone => Sys2Proof.Machine.execBlkFlushDone s
  | .blkCarveWritebackDone => Sys2Proof.Machine.execBlkCarveWritebackDone s
  | .blkShelfRetrainDone lostStack lostChan failed => Sys2Proof.Machine.execBlkShelfRetrainDone lostStack lostChan failed s
  | .chipResetReq => Sys2Proof.Machine.execChipResetReq s
  | .faultClear => Sys2Proof.Machine.execFaultClear s
  | .carveFlushDone => Sys2Proof.Machine.execCarveFlushDone s
  | .granuleSetDone => Sys2Proof.Machine.execGranuleSetDone s

end Sys2Proof.Machine
end

