-- ==== Sys2Proof/Machine/Tick.lean ====
section
/-! DEFINITION. The passing of time: one count of the GTC. -/
namespace Sys2Proof.Machine

/-- The GTC advances by one count of 1 ns (R448). Nothing else happens at a count: what falls due at a count is a command
(log 8). -/
def tick (s : State) : State := { s with gtc := { s.gtc with count := s.gtc.count + 1 } }

end Sys2Proof.Machine
end

