-- ==== Sys2Proof/Safety.lean ====
section
/-! DEFINITION. What counts as a safe run: a step answers a next state, and the state keeps the rules below, which hold after reset
and which no command breaks. -/
namespace Sys2Proof.Machine

/-- A step is safe when it answers a next state. -/
def Steps (s : State) : Prop := ∃ t, step s = .next t

/-- A fault object's counters hold what their widths hold: U64 counters, and a U16 count of merged faults (R490, Tables 17.3 and
17.4). -/
def FaultInst.ok (f : FaultInst) : Bool :=
  decide (f.cntA < 2 ^ 64) && decide (f.cntB < 2 ^ 64) && decide (f.cntC < 2 ^ 64) && decide (f.cntD < 2 ^ 64) &&
  decide (f.first.merged < 2 ^ 16)

/-- The rules that every step keeps. -/
structure Inv (s : State) : Prop where
  /-- The shelves' memory is in canonical form. -/
  mem : Memory.wf s.shelves.mem = true
  /-- The counters are in canonical form, and saturate (R34): none exceeds 2^64 - 1. -/
  ctr : mapWf 0 s.ctr = true
  top : s.ctr.all (fun e => decide (e.2 < 2 ^ 64)) = true
  /-- Every fault object's counters saturate (R490). -/
  faults : s.faults.insts.all (fun e => e.2.ok) = true
  /-- EPM_GEN, the refusal count and the count of discarded stages are 32 bits wide. -/
  gen : s.epm.gen < 2 ^ 32
  refusals : s.ods.refusalCount < 2 ^ 32
  discards : s.ods.discards < 2 ^ 32
  /-- In the grave state ALIVE has stopped and is low (R499). -/
  alive : s.faults.grave = true → s.pcs.aliveOn = false ∧ s.pcs.alive = false

end Sys2Proof.Machine
end

