-- ==== Sys2Proof/Certificates/Slice0/Obligations.lean ====
section
/-! DEFINITION. The statements for the provers, by chapter, and before them the few words they are written in. A statement about a
command says what `exec` answers for every state and operands that meet hypotheses on them alone. -/
namespace Sys2Proof.Machine

/-! ### The dictionary server's requests -/

/-- The server answers its paths, and the request it takes next is `q`, of instance `i` and of a kind (R43). -/
abbrev State.serves (s : State) (i : Nat) (q : DictReq) (k : Serve) : Prop :=
  s.odsUp = true ∧ s.ods.next = some (i, q) ∧ q.kind = k ∧ s.coh.need = []

/-- A unit's work runs under its name, by which its accesses to memory are found (log 9). -/
def State.asJob (s : State) (j : EngJob) : State := { s with coh := { s.coh with job := some j } }

/-- The request has left its instance. -/
def State.took (s : State) (i : Nat) : State := { s with ods := s.ods.take i }

/-- The same, and the server's work runs. -/
def State.taken (s : State) (i : Nat) : State := (s.took i).asJob .ods

/-- A request that no rule of the whole server turns away: the block serves it, and its form is good (R38, R478, R498). -/
abbrev State.sound (s : State) (q : DictReq) : Prop := s.odsShut q = false ∧ q.formOk = true ∧ s.nodeOk q.who = true

/-- A request for a change of the entry of row `r` passes steps 2 to 5 of R39: the path may change the entry, no other owner claims it, and
it is neither staged nor armed. -/
abbrev State.mayChange (s : State) (q : DictReq) (r : EntRow) : Prop :=
  entAt q.index q.sub = some r ∧ s.sound q ∧ r.pathOk q.index q.sub q.who.path = true ∧ s.ods.claimedBy q.index q.who = false ∧
  s.ods.held q.index q.sub = 0

/-- An EXEC passes every step of R39. -/
abbrev State.execPasses (s : State) (q : DictReq) (r : EntRow) : Prop :=
  s.mayChange q r ∧ foreignQueue r.ent q.who q.data = false ∧ s.cmdRunning q.index q.sub = false ∧ q.data.length = r.size ∧
  s.cmdCheck r.ent q.index q.sub q.data = none

/-- The owner's leases start anew, and the response leaves: OK, with data. -/
def State.reply (s : State) (q : DictReq) (data : Bytes := []) : State := (s.touch q.who).respondDict q 0 data

/-- The same for a request that is refused: no effect but the record of the refusal (R64) and the response. -/
def State.deny (s : State) (q : DictReq) (e : Refused) : State := ((s.touch q.who).refused q e).respondDict q e.status []

/-- The same two at the end of the server's work. -/
def State.ok (s : State) (q : DictReq) (data : Bytes := []) : State := (s.reply q data).endJob .ods
def State.refuses (s : State) (q : DictReq) (e : Refused) : State := (s.deny q e).endJob .ods

/-- Command `c` of the table executes the entry `e`: an EXEC that passes its checks has the effect `eff` (from the state in which it is served
to the state after it), its state becomes `ends` (R63: done, or running), and it is answered with OK. -/
def Executes (c : Instr) (e : Ent) (ends : State → Nat → Nat → State) (eff : State → DictReq → State → Prop) : Prop :=
  ∀ (s : State) (i : Nat) (q : DictReq) (r : EntRow), s.serves i q (.exec e) → (s.taken i).execPasses q r →
    ∃ w : State, eff (s.taken i) q w ∧ exec c s = .next ((ends w q.index q.sub).ok q)

/-- Counters: those of the entries that `p` names are zero, every other is as before, and so is everything else. -/
def State.cleared (s w : State) (p : Nat → Nat → Prop) : Prop :=
  w = { s with ctr := w.ctr } ∧
  ∀ ix sub k, sub < 256 → k < 16 → (p ix sub → w.count ix sub k = 0) ∧ (¬ p ix sub → w.count ix sub k = s.count ix sub k)

/-- Command `c` executes a clear command of counters. -/
def Clears (c : Instr) (e : Ent) (p : DictReq → Nat → Nat → Prop) : Prop :=
  Executes c e State.cmdDone (fun s q w => s.cleared w (p q))

/-- Counter `k` of index:sub counts `n` more; it saturates (R34). -/
abbrev State.counts (s t : State) (ix sub k : Nat) (n : Nat := 1) : Prop := t.count ix sub k = min (2 ^ 64 - 1) (s.count ix sub k + n)

/-- Command `c` of the table writes the entry `e`: a WRITE that passes every step of R39 is a commit of the one entry (R55), whose unit then
acts as `eff` says (from the state in which the request is served to the state after the commit); it is answered with OK. -/
def Puts (c : Instr) (e : Ent) (eff : State → DictReq → State → Prop) : Prop :=
  ∀ (s : State) (i : Nat) (q : DictReq) (r : EntRow) (items : List StageItem) (p : Option Passed) (w : State),
    s.serves i q (.put e) → (s.taken i).mayChange q r → (r.acc = .rw ∨ r.acc = .rwq) → r.sizeOk q.data = none →
    (s.taken i).valueOk r q.index q.sub q.data = true → items = [{ index := q.index, sub := q.sub, data := q.data }] →
    (s.taken i).changeCheck false none items = .ok p → w = (s.taken i).commitNow q.who items p → (w.reply q).coh.need = [] →
    eff (s.taken i) q w ∧ exec c s = .next (w.ok q)

/-- A unit acts on a new value of the entry, beyond holding it. -/
def acted (e : Ent) : Bool :=
  [.sqCfg, .classCfg, .admCfg, .ringCfg, .evRingCfg, .fqCfg, .fqHead, .tableDesc, .route, .fportCfg, .hpCtl, .capPoint, .tolLat, .tolLatMgr,
   .idleCfg, .dcaEnable, .hbmCfg, .capCfg, .resGranule, .hdmWindow, .reaction].contains e

/-- The number an argument of `n` bytes names, or every number. -/
abbrev Names (q : DictReq) (n all x : Nat) : Prop := le q.data 0 n = all ∨ le q.data 0 n = x

end Sys2Proof.Machine

open Sys2Proof Sys2Proof.Machine

/-! ### Chapter 2: the object dictionary -/

/-- The requests that arrive on the four path instances (R40 to R42). MBX_DOORBELL of 1 on an idle mailbox queues the message of MBX_REQ
and makes the mailbox BUSY; on a busy one it only counts in DROPPED, which saturates. MBX_REQ_WRITE of bytes of the request area writes
them while the mailbox is idle and is discarded while it is BUSY. Fewer than 4 requests on O, or 16 on F, take a further one behind them;
with as many waiting, it is answered with BUSY and not queued. A response goes back on the path of its request (R40 to R42): into the
mailbox, if that is still the request's, which is then DONE and no more BUSY; over MCTP under the request's tag; or as a management
message to the request's node. Behind the header of the request, with the status and the length of the data set, it holds the data. Parts
of it rest on choices and readings of the model (log 25). -/
def Obligations.RequestsAreAnswered : Prop :=
  (∀ (s : State) (p : Fin 2) (x : Mailbox), s.odsUp = true → s.linkUp p = true → s.hostHeld p = false → s.barHeld p = false →
    x = sget {} s.ods.mbx p → x.busy = false →
    ∃ t : State, exec (.mbxDoorbell p 1) s = .next t ∧ sget {} t.ods.mbx p = { x with busy := true, done := false, dropped := 0 } ∧
      (∀ i, t.ods.waiting i = if i = p.val then
        s.ods.waiting i ++ [{ who := { path := hPath p }, msg := mread x.req 0 (16 + min (le (mread x.req 8 2) 0 2) 1024) }]
        else s.ods.waiting i) ∧
      t = { s with ods := t.ods, pcs := t.pcs, ctr := t.ctr }) ∧
  (∀ (s : State) (p : Fin 2) (x : Mailbox), s.odsUp = true → s.linkUp p = true → s.hostHeld p = false → s.barHeld p = false →
    x = sget {} s.ods.mbx p → x.busy = true →
    ∃ t : State, exec (.mbxDoorbell p 1) s = .next t ∧
      sget {} t.ods.mbx p = { x with dropped := if x.dropped = 0xFF then 0xFF else x.dropped + 1 } ∧
      t = { s with ods := { s.ods with mbx := t.ods.mbx }, pcs := t.pcs, ctr := t.ctr }) ∧
  (∀ (s : State) (p : Fin 2) (off : Nat) (data : Bytes) (x : Mailbox), s.odsUp = true → s.linkUp p = true → s.hostHeld p = false →
    s.barHeld p = false → x = sget {} s.ods.mbx p → 0x100 ≤ off → off + data.length ≤ 0x510 →
    ∃ t : State, exec (.mbxReqWrite p off data) s = .next t ∧
      t = { s with ods := { s.ods with mbx := t.ods.mbx }, pcs := t.pcs, ctr := t.ctr } ∧
      sget {} t.ods.mbx p = if x.busy then x else { x with req := mwrite x.req (off - 0x100) data }) ∧
  (∀ (s : State) (tag : Nat) (msg : Bytes), s.odsUp = true → s.ods.waitO.length < 4 →
    ∃ t : State, exec (.oPathRequest tag msg) s = .next t ∧
      t.ods = { s.ods with waitO := s.ods.waitO ++ [{ who := { path := .o }, mctpTag := tag, msg := msg }] } ∧
      t = { s with ods := t.ods, pcs := t.pcs, ctr := t.ctr }) ∧
  (∀ (s : State) (node : BitVec 16) (msg : Bytes), s.odsUp = true → s.ods.waitF.length < 16 →
    ∃ t : State, exec (.fPathRequest node msg) s = .next t ∧
      t.ods = { s.ods with waitF := s.ods.waitF ++ [{ who := { path := .f, node := node }, msg := msg }] } ∧
      t = { s with ods := t.ods, pcs := t.pcs, ctr := t.ctr }) ∧
  (∀ (s : State) (tag : Nat) (msg : Bytes) (q : DictReq), s.odsUp = true → 4 ≤ s.ods.waitO.length →
    q = { who := { path := .o }, mctpTag := tag, msg := msg } →
    ∃ t : State, exec (.oPathRequest tag msg) s = .next t ∧ t.ods.waitO = s.ods.waitO ∧ t.out.getLast? = some (.mctp tag (q.answer 6 []))) ∧
  (∀ (s : State) (node : BitVec 16) (msg : Bytes) (q : DictReq), s.odsUp = true → 16 ≤ s.ods.waitF.length →
    q = { who := { path := .f, node := node }, msg := msg } →
    ∃ t : State, exec (.fPathRequest node msg) s = .next t ∧ t.ods.waitF = s.ods.waitF ∧
      t = (s.refused q { status := 6, step := 0 }).unicast node 2 (q.answer 6 [])) ∧
  (∀ (s : State) (q : DictReq) (st : Nat) (b : Bytes), q.who.path = .o →
    s.respondDict q st b = { s with out := s.out ++ [.mctp q.mctpTag (q.answer st b)] }) ∧
  (∀ (s : State) (q : DictReq) (st : Nat) (b : Bytes), q.who.path = .f →
    s.respondDict q st b = s.toRouter { dst := q.who.node, src := s.node, op := 0xE, len := ((q.answer st b).length + 3) / 4,
                                        addr := 2 ^ 41, payload := q.answer st b } none) ∧
  (∀ (s : State) (q : DictReq) (st : Nat) (b : Bytes) (p : Fin 2) (y : Mailbox), q.who.path = hPath p → q.lost = false →
    y = sget {} (s.respondDict q st b).ods.mbx p →
    y.busy = false ∧ y.done = true ∧ y.lastStatus = BitVec.ofNat 8 st ∧
    mread y.rsp 0 (q.answer st b).length = q.answer st b) ∧
  (∀ (q : DictReq) (st : Nat) (b : Bytes), 16 ≤ q.msg.length → st < 256 → b.length < 65536 →
    le (q.answer st b) 5 1 = st ∧ le (q.answer st b) 8 2 = b.length ∧ (q.answer st b).drop 16 = b ∧
    ∀ k, k < 16 → k ≠ 5 → k ≠ 8 → k ≠ 9 → (q.answer st b)[k]? = q.msg[k]?)

/-- DICT_READ answers the value of the entry (R27), a BLOB's from OFFSET on; an entry that the dictionary lacks is answered with
NO_ENTRY, a BLOB's read beyond its end with RANGE, and one of no bytes with none. An error that the read finds and corrects sets the
status bit of its source of Table 17.7, and the answer is the same. DICT_WRITE that passes the steps of R39 is a commit of its one entry
(R55). Where no unit acts on the entry (`acted`), nothing but the entry changes: it holds the data, and every other entry its value.
Parts of it rest on choices and readings of the model (log 18). -/
def Obligations.EntriesReadAndWrite : Prop :=
  (∀ (s : State) (i : Nat) (q : DictReq) (r : EntRow), s.serves i q .read → (s.took i).sound q → entAt q.index q.sub = some r →
    q.op = 1 → q.describe = false → r.ty ≠ .blob → q.offset = 0 →
    exec (.dictRead .clean) s = .next ((s.took i).reply q ((s.took i).value r q.index q.sub))) ∧
  (∀ (s : State) (i : Nat) (q : DictReq) (r : EntRow) (v : Bytes), s.serves i q .read → (s.took i).sound q →
    entAt q.index q.sub = some r → q.op = 1 → q.describe = false → r.ty = .blob → v = (s.took i).value r q.index q.sub →
    exec (.dictRead .clean) s = .next
      (if q.offset + q.length ≤ v.length ∨ q.length = 0 then (s.took i).reply q (bytesAt v q.offset q.length) else (s.took i).deny q badRange)) ∧
  (∀ (s : State) (i : Nat) (q : DictReq), s.serves i q .read → (s.took i).sound q → q.op = 1 → entAt q.index q.sub = none →
    exec (.dictRead .clean) s = .next ((s.took i).deny q noEntry)) ∧
  (∀ (s : State) (i : Nat) (q : DictReq) (r : EntRow), s.serves i q .read → (s.took i).sound q → entAt q.index q.sub = some r →
    q.op = 1 → q.describe = false → r.ty ≠ .blob → q.offset = 0 →
    ∃ t u : State, exec (.dictRead .corrected) s = .next t ∧ u = (s.took i).reply q ((s.took i).value r q.index q.sub) ∧
      (t.faultInst uOds 0).status.getLsbD 1 = true ∧ t.ods = u.ods) ∧
  (∀ (s : State) (i : Nat) (q : DictReq) (r : EntRow) (items : List StageItem) (p : Option Passed) (w : State),
     s.serves i q .write → (s.taken i).mayChange q r → (r.acc = .rw ∨ r.acc = .rwq) → q.op = 2 → r.sizeOk q.data = none →
     (s.taken i).valueOk r q.index q.sub q.data = true → items = [{ index := q.index, sub := q.sub, data := q.data }] →
     (s.taken i).changeCheck false none items = .ok p → w = (s.taken i).commitNow q.who items p → (w.reply q).coh.need = [] →
     exec .dictWrite s = .next (w.ok q) ∧
     (acted r.ent = false → p = none → w.rd q.index q.sub = q.data ∧
       (∀ ix sub, sub < 256 → (ix, sub) ≠ (q.index, q.sub) → w.rd ix sub = s.rd ix sub) ∧
       w = { s.taken i with ods := { (s.taken i).ods with store := w.ods.store } }))

/-- DICT_STAGE puts the entry's new value into the stage, in place of an earlier one of the same entry, and the stage is the requester's
(R49); no entry changes. A stage of another owner refuses it with BUSY (step 5 of R39). DICT_COMMIT by the stage's owner, with FORCE or
without (R53): the stage is emptied; a change that passes its checks is committed at one instant, and one that fails a check changes no
entry. DICT_ABORT by its owner empties the stage and counts the discard, and so does STAGE_LEASE_EXPIRY once its owner has been silent
for STAGE_LEASE (R52). A COMMIT by another is refused with STATE. Parts of it rest on choices and readings of the model (log 24). -/
def Obligations.StageCommitsOrEmpties : Prop :=
  (∀ (s : State) (i : Nat) (q : DictReq) (r : EntRow), s.serves i q .stage → (s.taken i).sound q → entAt q.index q.sub = some r →
    r.pathOk q.index q.sub q.who.path = true → r.acc ≠ .ro → foreignQueue r.ent q.who q.data = false →
    s.ods.claimedBy q.index q.who = false → s.ods.held q.index q.sub ≠ 2 → (s.ods.stageOwner = none ∨ s.ods.stageOwner = some q.who) →
    (s.taken i).stageData r q = none → s.ods.stage.length < 1024 → s.ods.stageBytes + q.data.length ≤ 262144 →
    ∃ w : State, exec .dictStage s = .next (w.ok q) ∧
      w = { s.taken i with ods := { (s.taken i).ods with stage := w.ods.stage, stageOwner := some q.who, stageSeen := s.now } } ∧
      { index := q.index, sub := q.sub, cmd := r.acc = .cmd, data := q.data } ∈ w.ods.stage ∧
      (∀ x ∈ w.ods.stage, (x.index, x.sub) = (q.index, q.sub) → x.data = q.data) ∧
      (∀ x, (x.index, x.sub) ≠ (q.index, q.sub) → (x ∈ w.ods.stage ↔ x ∈ s.ods.stage))) ∧
  (∀ (s : State) (i : Nat) (q : DictReq) (r : EntRow) (o : Sender), s.serves i q .stage → (s.taken i).sound q →
    entAt q.index q.sub = some r → r.pathOk q.index q.sub q.who.path = true → r.acc ≠ .ro → foreignQueue r.ent q.who q.data = false →
    s.ods.claimedBy q.index q.who = false → s.ods.stageOwner = some o → o ≠ q.who →
    exec .dictStage s = .next ((s.taken i).refuses q isBusy)) ∧
  (∀ (s : State) (i : Nat) (q : DictReq) (u : State), s.serves i q .commit → (s.taken i).sound q → q.data = [] →
    (q.force = true → ∃ x ∈ s.ods.stage, inRange x.index 0x9000 0x97FF = true) →
    s.ods.stageOwner = some q.who → s.ods.stage ≠ [] → u = { s.taken i with ods := (s.taken i).ods.noStage } →
    (∀ p, u.changeCheck q.force none s.ods.stage = .ok p → ((u.commitNow q.who s.ods.stage p).reply q).coh.need = [] →
      exec .dictCommit s = .next ((u.commitNow q.who s.ods.stage p).ok q)) ∧
    (∀ e, u.changeCheck q.force none s.ods.stage = .error e → exec .dictCommit s = .next (u.refuses q e))) ∧
  (∀ (s : State) (i : Nat) (q : DictReq), s.serves i q .commit → (s.taken i).sound q → q.data = [] → q.force = false →
    s.ods.stageOwner ≠ some q.who → exec .dictCommit s = .next ((s.taken i).refuses q badState)) ∧
  (∀ (s : State) (i : Nat) (q : DictReq), s.serves i q .abort → (s.taken i).sound q → q.data = [] → s.ods.stageOwner = some q.who →
    ∃ w : State, exec .dictAbort s = .next (w.ok q) ∧ w.ods.stage = [] ∧ w.ods.stageOwner = none ∧
      w.ods.discards = min (2 ^ 32 - 1) (s.ods.discards + 1) ∧ w.ods.store = s.ods.store ∧ w.ods.claims = s.ods.claims ∧
      w.ods.trestle = s.ods.trestle) ∧
  (∀ (s : State), s.ods.stageOwner.isSome = true → 1000000 * s.rdN 0x1102 0 0 4 ≤ since s.now s.ods.stageSeen →
    ∃ w : State, exec .stageLeaseExpiry s = .next w ∧ w.ods.stage = [] ∧ w.ods.stageOwner = none ∧
      w.ods.discards = min (2 ^ 32 - 1) (s.ods.discards + 1) ∧ w.ods.store = s.ods.store)

/-- The trestle (R56 to R61). DICT_COMMIT_ARMED of a stage that passes its checks moves it into the lowest slot that holds no armed set,
to fire at T, and answers with the slot; where no class is dropped for it, the slot then holds the staged items and every other slot
stays. DICT_ABORT_ARMED by the slot's owner frees it while T is more than 10 us ahead. TRESTLE_FIRE of the set that is first in firing
order, at T or later: where an entry is quiescent no more the slot is FAILED, the failure is counted, and no entry changes; a set of one
RW entry on which no unit acts leaves the slot FIRED and the entry at its new value. Before T it changes nothing. Parts of it rest on
choices and readings of the model (log 10). -/
def Obligations.TrestleArmsAndFires : Prop :=
  (∀ (s : State) (i : Nat) (q : DictReq) (k due : Nat) (u : State), s.serves i q .commitArmed → (s.taken i).sound q →
    s.ods.freeSlot = some k → q.data.length = 8 → due = leNat q.data → s.now + 100000 ≤ due → due ≤ s.now + 2 ^ 44 →
    (q.force = true → ∃ x ∈ s.ods.stage, inRange x.index 0x9000 0x97FF = true) →
    s.ods.stageOwner = some q.who → s.ods.stage ≠ [] → u = { s.taken i with ods := (s.taken i).ods.noStage } →
    (∀ p, u.changeCheck q.force (some due) s.ods.stage = .ok p →
      exec .dictCommitArmed s = .next ((u.arm q.who q.tag k due s.ods.stage p).ok q (natLe k 1))) ∧
    (u.changeCheck q.force (some due) s.ods.stage = .ok none → ∃ w : State, exec .dictCommitArmed s = .next (w.ok q (natLe k 1)) ∧
      sget {} w.ods.trestle k =
        { state := 1, owner := some q.who, count := s.ods.stage.length, due := BitVec.ofNat 64 due, order := s.ods.armCount, tag := q.tag,
          items := s.ods.stage } ∧
      (∀ j, j ≠ k → sget ({} : TrestleSlot) w.ods.trestle j = sget {} s.ods.trestle j) ∧
      w.ods.stage = [] ∧ w.ods.stageOwner = none ∧ w = { u with ods := w.ods, sqe := w.sqe } ∧
      w.ods = { u.ods with trestle := w.ods.trestle, armCount := u.ods.armCount + 1 })) ∧
  (∀ (s : State) (i : Nat) (q : DictReq) (k : Nat) (t : TrestleSlot), s.serves i q .abortArmed → (s.taken i).sound q →
    q.data = natLe k 1 → k < 8 → t = sget {} s.ods.trestle k → t.state = 1 → t.owner = some q.who → s.now + 10000 < t.due.toNat →
    ∃ w : State, exec .dictAbortArmed s = .next (w.ok q) ∧ sget {} w.ods.trestle k = ({} : TrestleSlot) ∧
      (∀ j, j ≠ k → sget ({} : TrestleSlot) w.ods.trestle j = sget {} s.ods.trestle j) ∧
      w = { s.taken i with ods := { (s.taken i).ods with trestle := w.ods.trestle }, sqe := w.sqe }) ∧
  (∀ (s : State) (k : Fin 8) (t : TrestleSlot), s.frozen = false → s.pcs.cold = false → s.ods.armedSets.head? = some (k.val, t) →
    t.due.toNat ≤ s.now → ((s.asJob .ods).fireSet k t).coh.need = [] →
    ∃ w : State, exec (.trestleFire k) s = .next w ∧
      (s.wakeUp.notQuiet t.items ≠ none →
        sget {} w.ods.trestle k = { t with state := 3, holdover := s.gtc.state = gtcHoldover, firedAt := s.now, items := [], drops := [] } ∧
        w.ods.store = s.ods.store ∧ w.ods.refusalCount = min (2 ^ 32 - 1) (s.ods.refusalCount + 1))) ∧
  (∀ (s : State) (k : Fin 8) (t : TrestleSlot) (i : StageItem) (r : EntRow), s.frozen = false → s.pcs.cold = false →
    s.ods.armedSets.head? = some (k.val, t) → t.due.toNat ≤ s.now → t.items = [i] → t.drops = [] → i.cmd = false →
    entAt i.index i.sub = some r → r.acc = .rw → acted r.ent = false → s.coh.need = [] →
    ∃ w : State, exec (.trestleFire k) s = .next w ∧ w.rd i.index i.sub = i.data ∧
      sget {} w.ods.trestle k = { t with state := 2, holdover := s.gtc.state = gtcHoldover, firedAt := s.now, items := [], drops := [] }) ∧
  (∀ (s : State) (k : Fin 8) (j : Nat) (t : TrestleSlot), s.ods.armedSets.head? = some (j, t) → s.now < t.due.toNat →
    exec (.trestleFire k) s = .next s)

/-- The clear commands of the counters: each zeroes the counters of the entries its chapter names, and no others (R34, R63). The clear
commands of other state: the refusal record, the histograms of tiles whose contexts are all free, the fault record of a context, the
lost-write log and the hot-plug bits of a port; all else stays. -/
def Obligations.ClearCommandsClear : Prop :=
  Clears .queueClear .queueClear (fun q ix sub => ix = 0x2803 ∧ (le q.data 0 2 = sub ∨ (le q.data 0 2 = 0xFFFF ∧
    if q.who.path = .h1 then 128 ≤ sub else sub < 128))) ∧
  Clears .classClear .classClear (fun q ix sub => ix = 0x7802 ∧ sub < 64 ∧ Names q 1 0xFF sub) ∧
  Clears .ssuClear .ssuClear (fun _ ix sub => (ix = 0x7000 ∧ sub = 3) ∨ (ix = 0x7005 ∧ sub < 12)) ∧
  Clears .gpeClear .gpeClear (fun q ix sub => ix = 0x6001 ∧ sub < 48 ∧ Names q 1 0xFF sub) ∧
  Clears .tableClear .tableClear (fun q ix sub => 0x6300 ≤ ix ∧ ix < 0x6310 ∧ Names q 2 0xFFFF (256 * (ix - 0x6300) + sub)) ∧
  Clears .tileClear .tileClear (fun q ix sub => ix = q.index / 16 * 16 ∧ sub = 2) ∧
  Clears .numClear .numClear (fun q ix sub => ix = 0x5801 ∧ sub < 96 ∧ Names q 1 0xFF sub) ∧
  Clears .cabClear .cabClear (fun q ix sub => ix = 0x5003 ∧ sub < 12 ∧ Names q 1 0xFF sub) ∧
  Clears .detClear .detClear (fun q ix sub => ix = 0x5A01 ∧ sub < 12 ∧ Names q 1 0xFF sub) ∧
  Clears .dcaClear .dcaClear (fun _ ix _ => ix = 0x3201) ∧
  Clears .cohClear .cohClear (fun _ ix sub => ix = 0x3800 ∧ (sub = 2 ∨ sub = 4)) ∧
  Clears .orderClear .orderClear (fun _ ix sub => ix = 0x40F1 ∧ sub = 1) ∧
  Clears .hbmClear .hbmClear (fun _ ix sub => (ix = 0x3000 ∧ sub = 4) ∨ ix = 0x3002) ∧
  Clears .capClear .capClear (fun _ ix _ => ix = 0x3102) ∧
  Clears .bgClear .bgClear (fun _ ix sub => ix = 0x3300 ∧ sub = 2) ∧
  Clears .mtuClear .mtuClear (fun _ ix sub => ix = 0x4000 ∧ sub = 1) ∧
  Clears .portClear .portClear (fun q ix sub => ix = portIx (q.index / 0x200 % 2) 0x2000 ∧ sub = 1) ∧
  Clears .gfrClear .gfrClear (fun _ ix sub => (ix = 0x8000 ∧ sub = 3) ∨ (sub = 2 ∧ ∃ p, p < 6 ∧ ix = fportIx p)) ∧
  Clears .gtcClear .gtcClear (fun _ ix sub => ix = 0x9800 ∧ sub = 3) ∧
  Clears .pcsClear .pcsClear (fun _ ix sub => ix = 0x9006 ∧ sub = 0) ∧
  Executes .clearRefusals .clearRefusals State.cmdDone (fun s _ w =>
    w = { s with ods := { s.ods with lastRefusal := [], refusalCount := 0 } }) ∧
  Executes .histClear .histClear State.cmdDone (fun s q w =>
    w = { s with tiles := { s.tiles with tile := w.tiles.tile } } ∧
    ∀ t, t < 96 → (w.tile t).hist = (s.tile t).hist.filter (fun h => !decide (Names q 2 0xFFFF (4 * t + h.1 / 256))) ∧
      w.tile t = { s.tile t with hist := (w.tile t).hist }) ∧
  Executes .ctxFaultClear .ctxFaultClear State.cmdDone (fun s q w =>
    w = { s with mtu := { s.mtu with ctx := w.mtu.ctx } } ∧
    ∀ a, a < 4096 → sget {} w.mtu.ctx a = if Names q 2 0xFFFF a then {} else sget ({} : CtxFault) s.mtu.ctx a) ∧
  Executes .lostClear .lostClear State.cmdDone (fun s q w =>
    let p := q.index / 0x200 % 2
    w = { s with hlc := w.hlc } ∧ (∀ n, n ≠ p → w.port n = s.port n) ∧
    w.port p = { s.port p with lostLog := [], lostLines := 0, lostOver := false, lostHlx := 0, lostStores := 0, lostAt := 0 }) ∧
  Executes .hpClear .hpClear State.cmdDone (fun s q w =>
    let p := q.index / 0x100 - 0x81
    w = { s with fab := { s.fab with ports := w.fab.ports } } ∧ (∀ n, n ≠ p → w.fport n = s.fport n) ∧
    w.fport p = { s.fport p with button := false, presChg := false })

/-- DICT_CLAIM of a range that, together with the ranges of the requester's own claims that it meets, meets no other owner's claim (R46,
R47): one slot, which the answer names, then holds the range from the lowest to the highest of them for the requester, the other slots of
its claims that it met are free, and every other claim stays. One that meets another owner's claim, by a requester without claims, is
refused with CLAIMED. DICT_RELEASE by a slot's owner frees it (R48), and so does CLAIM_LEASE_EXPIRY of an O or F owner's slot CLAIM_LEASE
after its owner's last request; a slot of a host never expires. A request is served by the row of its kind alone: where the request that
the server takes next is of another kind, or the server does not answer, a row of the dictionary leaves the state as it is. While the
block is in the grave state, every request but READ and EXEC is shut out, and while BLK runs every request but READ (R478, R498); one
that is shut out, of any kind but READ, is answered with STATE, DICT_WRITE among them. Parts of it rest on choices and readings of the
model (log 10 and 29). -/
def Obligations.ClaimsAndTurns : Prop :=
  (∀ (s : State) (i : Nat) (q : DictReq) (lo hi a b k : Nat) (mine : SMap Claim), s.serves i q .claim → (s.taken i).sound q →
    q.data = natLe lo 2 ++ natLe hi 2 → lo ≤ hi → hi < 65536 → claimable lo hi q.who.path = true → s.ods.stageOwner = none →
    mine = s.ods.claims.filter (fun c => c.2.owner = q.who && decide (c.2.first ≤ hi) && decide (lo ≤ c.2.last)) →
    a = mine.foldl (fun m c => min m c.2.first) lo → b = mine.foldl (fun m c => max m c.2.last) hi →
    (∀ c ∈ s.ods.claims, c.2.owner ≠ q.who → c.2.last < a ∨ b < c.2.first) →
    (match mine.head? with
      | some c => some c.1
      | none => sfree s.ods.claims 16) = some k →
    ∃ w : State, exec .dictClaim s = .next (w.ok q (natLe k 1)) ∧
      sfind w.ods.claims k = some { first := a, last := b, owner := q.who, seen := s.now } ∧
      (∀ c ∈ mine, c.1 ≠ k → sfind w.ods.claims c.1 = none) ∧
      (∀ j, j ≠ k → (∀ c ∈ mine, c.1 ≠ j) → sfind w.ods.claims j = sfind s.ods.claims j) ∧
      w = { s.taken i with ods := { (s.taken i).ods with claims := w.ods.claims } }) ∧
  (∀ (s : State) (i : Nat) (q : DictReq) (lo hi : Nat), s.serves i q .claim → (s.taken i).sound q → q.data = natLe lo 2 ++ natLe hi 2 →
    lo ≤ hi → hi < 65536 → claimable lo hi q.who.path = true → (∀ c ∈ s.ods.claims, c.2.owner ≠ q.who) →
    (∃ c ∈ s.ods.claims, c.2.first ≤ hi ∧ lo ≤ c.2.last) →
    exec .dictClaim s = .next ((s.taken i).refuses q isClaimed)) ∧
  (∀ (s : State) (i : Nat) (q : DictReq) (k : Nat) (c : Claim), s.serves i q .release → (s.taken i).sound q → q.data = natLe k 1 →
    k < 16 → sfind s.ods.claims k = some c → c.owner = q.who →
    exec .dictRelease s = .next
      (State.ok { s.taken i with ods := { (s.taken i).ods with claims := sdel s.ods.claims k } } q)) ∧
  (∀ (s : State) (k : Fin 16) (c : Claim), sfind s.ods.claims k = some c → (c.owner.path = .o ∨ c.owner.path = .f) →
    1000000 * s.rdN 0x1103 0 0 4 ≤ since s.now c.seen →
    exec (.claimLeaseExpiry k) s = .next { s with ods := { s.ods with claims := sdel s.ods.claims k } }) ∧
  (∀ (s : State) (k : Fin 16) (c : Claim) (p : Fin 2), sfind s.ods.claims k = some c → c.owner.path = hPath p →
    exec (.claimLeaseExpiry k) s = .next s) ∧
  (∀ (s : State) (k : Serve), s.odsUp = false → s.odsServe k = s) ∧
  (∀ (s : State) (k : Serve) (i : Nat) (q : DictReq), s.ods.next = some (i, q) → q.kind ≠ k → s.odsServe k = s) ∧
  (∀ (s : State) (i : Nat) (q : DictReq), s.serves i q .write → (s.taken i).odsShut q = true →
    exec .dictWrite s = .next ((s.taken i).refuses q badState)) ∧
  (∀ (s : State) (i : Nat) (q : DictReq) (k : Serve), s.serves i q k → (s.taken i).odsShut q = true →
    s.odsServe k = (s.taken i).refuses q badState) ∧
  (∀ (s : State) (q : DictReq), s.faults.grave = true → q.op ≠ 1 → q.op ≠ 8 → s.odsShut q = true) ∧
  (∀ (s : State) (q : DictReq), s.pcs.blk ≠ 0 → q.op ≠ 1 → s.odsShut q = true) ∧
  (∀ (s : State) (q : DictReq), q.op = 1 → s.odsShut q = false)

/-! ### Chapter 4: the gather-pool engines -/

/-- Line reads (R97, R100, R115). With no read waiting for its translation, the oldest command with a line to read, of a request's task,
takes a free tag for it; where the page lies on a shelf of the device and the meter allows it, the read leaves under a fresh number,
which the tag holds with the page, and counts in LINES. An answer in its turn (log 98) that brings a row's line makes it the row's, with
any poison; one that brings a line of the row's lookup takes the lookup on; and the fold goes on. A line whose command is gone frees its
tag. Parts of it rest on choices and readings of the model (log 33). -/
def Obligations.LinesReachRows : Prop :=
  (∀ (s u v w : State) (g : Fin 48) (n k row va a : Nat) (c : GCmd) (r : GRow) (e : TlbEnt) (t : GTag), s.frozen = false →
    s.gpeResetting g = false → u = s.gReap g → (∀ p ∈ (u.gpe g).tags, p.2.id.isSome = true ∨ p.2.got = true) →
    sfree (u.gpe g).tags 2048 = some n →
    (u.gpe g).cmds.find? (fun p => p.2.started && !p.2.done && (p.2.nextLine.isSome || decide (p.2.nrows < p.2.streamLen))) = some (k, c) →
    c.nextLine = some (row, va) → c.pd = none → r = sget {} c.rows row → c.acid = t.acid →
    t = { cmd := k, row := row, va := va, since := u.now, acid := t.acid } →
    v = (let s1 := u.setGcmd g k { c with rows := sput c.rows row { r with want := r.want.drop 1 } }
         s1.setGpe g { s1.gpe g with tags := sput (s1.gpe g).tags n t }) →
    v.xlate (.cab (g / 4)) c.acid va false = (w, .go (.dev a) e) → (w.metered c.req 0 1).isSome = true →
    ∃ x : State, exec (.gpeLineReadIssue g) s = .next x ∧ w.counts x 0x6001 g 1 ∧
      sfind (x.gpe g).tags n = some { t with id := some w.nextId, tgt := .dev a, since := x.now, order := (w.gpe g).issues,
                                             page := e.page }) ∧
  (∀ (s v : State) (g : Fin 48) (n id : Nat) (t : GTag) (m : MemRsp) (c : GCmd) (r : GRow), sfind (s.gpe g).tags n = some t → t.id = some id →
    sfind s.rsps id = some m → m.performed = true → m.err = .none → s.faults.grave = false → s.inTurn (g / 4) [(t.tgt.home, m.num)] = true →
    v = ((s.settle (.gpe g n) false).forget [id]).countAccess t.acid t.va t.tgt → sfind (v.gpe g).cmds t.cmd = some c →
    (c.pd.isSome = true ∨ v.taskGoesOn c.req = true) → r = sget {} c.rows t.row → r.stage = 3 →
    ∃ w : State, exec (.gpeLineArrive g n .clean) s = .next (w.gFold g t.cmd) ∧
      sfind (w.gpe g).tags n = some { t with id := none, got := true } ∧
      w.gcmd g t.cmd = { c with rows := sput c.rows t.row { r with poison := r.poison || m.poison, got := sput r.got t.va (bytesAt m.data 0 64) } }) ∧
  (∀ (s v : State) (g : Fin 48) (n id : Nat) (t : GTag) (m : MemRsp) (c : GCmd) (r : GRow), sfind (s.gpe g).tags n = some t → t.id = some id →
    sfind s.rsps id = some m → m.performed = true → m.err = .none → s.faults.grave = false → s.inTurn (g / 4) [(t.tgt.home, m.num)] = true →
    v = ((s.settle (.gpe g n) false).forget [id]).countAccess t.acid t.va t.tgt → sfind (v.gpe g).cmds t.cmd = some c →
    (c.pd.isSome = true ∨ v.taskGoesOn c.req = true) → r = sget {} c.rows t.row → r.stage ≠ 3 →
    ∃ w : State, exec (.gpeLineArrive g n .clean) s = .next (w.gFold g t.cmd) ∧ (w.gpe g).tags = sdel (v.gpe g).tags n ∧
      w.gcmd g t.cmd = { c with rows := sput c.rows t.row (GRow.onLine { r with poison := r.poison || m.poison }
                                                             c.desc c.ec c.epoch (bytesAt m.data 0 64)) }) ∧
  (∀ (s v : State) (g : Fin 48) (n id : Nat) (found : Ecc) (t : GTag) (m : MemRsp), sfind (s.gpe g).tags n = some t → t.id = some id →
    sfind s.rsps id = some m → m.performed = true → s.faults.grave = false → s.inTurn (g / 4) [(t.tgt.home, m.num)] = true →
    v = ((s.settle (.gpe g n) false).forget [id]).countAccess t.acid t.va t.tgt → sfind (v.gpe g).cmds t.cmd = none →
    exec (.gpeLineArrive g n found) s = .next (v.setGpe g { v.gpe g with tags := sdel (v.gpe g).tags n }))

/-- Gather commands queue and start (R108, R109, R136). Posts and commands of tasks that have ended are dropped first. The oldest post
takes a place while the GPE holds fewer than 32 commands and no unit reset runs; nothing but the GPE's commands changes. The first
command not yet started starts: with NOUT 0 it is done at once and counts in COMMANDS; a good one takes its table's descriptor, the
frames of its own tile and of its output tile, the table's EPOCH_CFG and the epoch of its request's snapshot (on a pushdown table those
of its local rows' table), counts, and begins to fold; a bad one ends its task with BAD_GATHER at its post's place, and counts as bad.
The oldest command that a tile posted, once its outputs are written, leaves the GPE: its slots and its tags that wait are free, and the
transfer tag of its post completes. Until then nothing but the dropping of ended tasks' commands happens. Parts of it rest on choices and
readings of the model (log 32). -/
def Obligations.GathersStartAndEnd : Prop :=
  (∀ (s u : State) (g : Fin 48) (x : Gpe) (c : GCmd) (rest : List GCmd), s.frozen = false → u = s.gReap g → x = u.gpe g →
    x.posted = c :: rest → x.cmds.length < 32 → u.gpeResetting g = false →
    ∃ t : State, exec (.gpeCommandEnqueue g) s = .next t ∧
      t.gpe g = { x with posted := rest, cmds := sput x.cmds x.next c, next := x.next + 1 } ∧ (∀ n, n ≠ g.val → t.gpe n = u.gpe n) ∧
      t = { u with gpes := t.gpes }) ∧
  (∀ (s u : State) (g : Fin 48) (k : Nat) (c : GCmd), s.frozen = false → s.gpeResetting g = false → u = s.gReap g →
    (u.gpe g).cmds.find? (fun p => !p.2.started) = some (k, c) → gNout c.raw = 0 →
    ∃ t : State, exec (.gatherCommandStart g) s = .next t ∧ t.gcmd g k = { c with started := true, done := true } ∧ u.counts t 0x6001 g 0) ∧
  (∀ (s u v : State) (g : Fin 48) (k n : Nat) (c c' : GCmd) (d : Bytes), s.frozen = false → s.gpeResetting g = false → u = s.gReap g →
    (u.gpe g).cmds.find? (fun p => !p.2.started) = some (k, c) → gNout c.raw ≠ 0 → d = u.tableDesc (gTable c.raw) →
    n = (if tdPush d then tdRemote d else gTable c.raw) →
    c' = { c with started := true, base := 64 * u.frameBase c.tile ((u.tile c.tile).ctx c.ctx).frame,
                  obase := 64 * u.frameBase (8 * cabOf c.tile + gOutTile c.raw) ((u.tile c.tile).ctx c.ctx).frame,
                  cdesc := d, desc := u.tableDesc n, table := n, acid := tdAcid (u.tableDesc n), ec := u.epochCfg n,
                  epoch := if tdImm (u.tableDesc n) then 0 else (u.table n).epochFor (u.req c.req).snapshot, gen := u.epm.gen } →
    v = (u.gpeCount g 0).setGcmd g k c' →
    exec (.gatherCommandStart g) s = .next (if gBad c.raw d c'.base c'.obase (u.req c.req).lanes then
      (v.gpeCount g 2).endTask c.req stBadGather c.tile ((v.gpeCount g 2).postPos c.tile c.xtag) else v.gFold g k)) ∧
  (∀ (s u : State) (g : Fin 48) (k : Nat) (c : GCmd), s.frozen = false → u = s.gReap g →
     (u.gpe g).cmds.find? (fun p => p.2.pd.isNone) = some (k, c) → u.gcmd g k = c →
     if c.done then
       ∃ v : State, exec (.gatherCommandComplete g) s = .next (v.completeTag c.tile c.xtag) ∧ v.gpe g = { u.gpe g with
           cmds := sdel (u.gpe g).cmds k, slots := (u.gpe g).slots.filter (fun p => p.2.cmd ≠ k),
           tags := (u.gpe g).tags.filter (fun p => p.2.cmd ≠ k || p.2.id.isSome) } ∧
         (∀ n, n ≠ g.val → v.gpe n = u.gpe n) ∧ v = { u with gpes := v.gpes, fab := { u.fab with tags := v.fab.tags } }
     else exec (.gatherCommandComplete g) s = .next u)

/-- A pushdown request (R120, R126). A part whose home is another device leaves, as its task's meter and the fabric's tags allow, under a
free slot of the GPE, and counts in PD_SENT. Its response, RESULT 0, of a task that goes on, gives the part its value, its row count and
its flags, and frees the slot and the fabric tag. A slot whose time has run out frees itself and its fabric tag, counts, and ends the
task with REMOTE_LOST. A pushdown part at its home (R121, R125, R127, R283). A request of good form enters the inbound queue, in order,
while it has room, and otherwise waits; one with a reserved bit set, of another length than it says or longer than 6,176 bytes is
answered MALFORMED. The head of the queue starts, on a GPE that may take it, when the inbound bucket holds the part's line reads, and
takes them; a part that the home must refuse is answered with its RESULT and charged nothing. Parts of it rest on choices and readings of
the model (log 10 and 34). -/
def Obligations.PartsTravelAndReturn : Prop :=
  (∀ (s u v w : State) (g : Fin 48) (k j slot : Nat) (c : GCmd) (p : Part) (b : Bytes), s.frozen = false → s.gpeResetting g = false →
    u = s.gReap g → (u.gpe g).cmds.find? (fun p => p.2.started && !p.2.done && p.2.push &&
      ((u.partToSend p.2).isSome || decide (p.2.split < gNout p.2.raw))) = some (k, c) →
    u.partToSend c = some (j, p) → sfree (u.gpe g).slots 64 = some slot → u.metered c.req 2 1 = some v →
    b = pdRequestBytes c p (64 * g + slot) → v.fabRequest (.pd g slot) 5 (2 ^ 48 * p.home) (b.length / 4) b false u.now = some w →
    ∃ t : State, exec (.pdRequestSend g) s = .next t ∧ sfind (t.gpe g).slots slot = some { cmd := k, part := j, since := u.now } ∧
      t.gcmd g k = { c with parts := sput c.parts j { p with state := 1 } } ∧ w.counts t 0x6001 g 4) ∧
  (∀ (s u : State) (k g slot : Nat) (m : FabMsg) (x : PdSlot) (c : GCmd), s.localMsg k = some m → m.op.toNat = 9 → s.frozen = false →
    u = s.dropMsg k → sfind u.fab.tags m.tag.toNat = some (.pd g slot) → sfind (u.gpe g).slots slot = some x →
    sfind (u.gpe g).cmds x.cmd = some c → u.taskGoesOn c.req = true → fld m.payload 48 8 = rsOk →
    ∃ w : State, exec (.pdResponseReceive k) s = .next (w.gFold g x.cmd) ∧ (w.gpe g).slots = sdel (u.gpe g).slots slot ∧
      w.fab.tags = sdel u.fab.tags m.tag.toNat ∧ w.gcmd g x.cmd = { c with parts := sput c.parts x.part { sget {} c.parts x.part with
        state := 2, n := fld m.payload 64 32, value := (pdWiden (gForm c.raw) (tdDim c.cdesc) (m.payload.drop 16)).1,
        flags := fld m.payload 56 8 ||| (if (pdWiden (gForm c.raw) (tdDim c.cdesc) (m.payload.drop 16)).2 then fEscaped else 0) } }) ∧
  (∀ (s : State) (g : Fin 48) (slot : Nat) (x : PdSlot), sfind (s.gpe g).slots slot = some x → s.frozen = false →
    1000 * s.rdN 0x6002 0 0 4 ≤ since s.now x.since →
    ∃ w : State, exec (.pdSlotTimeout g slot) s =
        .next ((w.endTask (s.gcmd g x.cmd).req stRemoteLost (s.gcmd g x.cmd).tile
          (w.postPos (s.gcmd g x.cmd).tile (s.gcmd g x.cmd).xtag)).gReap g) ∧
      (w.gpe g).slots = sdel (s.gpe g).slots slot ∧ (∀ p ∈ w.fab.tags, p.2 ≠ .pd g slot) ∧ s.counts w 0x6001 g 6) ∧
  (∀ (s u : State) (k : Nat) (m : FabMsg), s.localMsg k = some m → m.op.toNat = 5 → s.faults.grave = false → s.staleSent m.sent = false →
    m.rsv = false → m.payload.length = 4 * m.len → m.payload.length ≤ 6176 → s.fab.pdIn.length < 256 → u = s.dropMsg k →
    exec (.pdRequestArrive k) s = .next { u with fab := { u.fab with pdIn := u.fab.pdIn ++ [{ msg := m }] } }) ∧
  (∀ (s : State) (k : Nat) (m : FabMsg), s.localMsg k = some m → m.op.toNat = 5 → s.faults.grave = false → s.staleSent m.sent = false →
    m.rsv = false → m.payload.length = 4 * m.len → m.payload.length ≤ 6176 → 256 ≤ s.fab.pdIn.length →
    exec (.pdRequestArrive k) s = .next s) ∧
  (∀ (s : State) (k : Nat) (m : FabMsg), s.localMsg k = some m → m.op.toNat = 5 → s.faults.grave = false → s.staleSent m.sent = false →
    (m.rsv = true ∨ m.payload.length ≠ 4 * m.len ∨ 6176 < m.payload.length) →
    exec (.pdRequestArrive k) s = .next ((s.dropMsg k).fabAnswer m 0xA 3 false 0 [])) ∧
  (∀ (s : State) (p : PdIn) (rest : List PdIn) (h d : Bytes) (g : Nat) (c : GCmd), s.fab.pdIn = p :: rest → s.frozen = false →
    h = p.msg.payload → d = s.tableDesc (pdTable h) → pdBad h = false → s.homeCheck d (pdTable h) (pdEpoch h) (pdDim h) = rsOk → s.partGpe = some g →
    c = { pd := some p, started := true, cdesc := d, desc := d, table := pdTable h, acid := tdAcid d, ec := s.epochCfg (pdTable h),
          epoch := pdEpoch h, gen := s.epm.gen } → 1000 * s.partLines (.cab (g / 4)) c ≤ s.inBucketNow →
    ∃ t : State, exec .pdPartStart s = .next t ∧ t.fab.pdIn = rest ∧
      t.sqe.inb = { s.sqe.inb with z := s.inBucketNow - 1000 * s.partLines (.cab (g / 4)) c, zAt := s.now } ∧
      t.gpe g = { s.gpe g with next := (s.gpe g).next + 1, cmds := sput (s.gpe g).cmds (s.gpe g).next c } ∧ (∀ n, n ≠ g → t.gpe n = s.gpe n)) ∧
  (∀ (s : State) (p : PdIn) (rest : List PdIn) (h d : Bytes) (g r : Nat), s.fab.pdIn = p :: rest → s.frozen = false → h = p.msg.payload →
    d = s.tableDesc (pdTable h) → r = (if !tdValid d then rsNoTable else if pdBad h then rsMalformed
      else s.homeCheck d (pdTable h) (pdEpoch h) (pdDim h)) → r ≠ rsOk → s.partGpe = some g →
    exec .pdPartStart s = .next (State.pdAnswer { s with fab := { s.fab with pdIn := rest } } p.msg r 0 0 []))

/-! ### Chapter 5: epochs -/

/-- Update batches (R146 to R152). The descriptor at a ring's head, read for the ring whose turn it is, again under the schedule, or
afresh after RING_RESUME, begins the ring's batch if its SEQ is right and fewer than four batches run, and else waits read; one that has
been read begins at its turn. A good batch moves a serving table to STAGING, and a bad one has its status at once. A row that applies
counts, and the next is next. A batch whose rows have all been applied and whose bitmap bit or seal is written, or that has its status,
writes its completion word where it has one, and the ring goes on to the next descriptor. A new tail is held; a read schedule that ends
without success stops the ring and records its fault. Parts of it rest on choices and readings of the model (log 37 and 38). -/
def Obligations.BatchesApply : Prop :=
  (∀ (s : State) (g : Nat) (b : Bytes), s.epmStill = false → s.epmBatches < 4 → s.nextRing = some g → (s.ring g).ready = some b → b ≠ [] →
    ∃ t : State, exec .epmBatchStart s = .next t ∧ t.epm.last = g ∧
      (∃ x : Batch, (t.ring g).batch = some x ∧ x.desc = b ∧ x.next = 0 ∧ x.applied = 0 ∧ x.since = s.now ∧
        (x.status = none ↔ s.batchCheck b = bsOk)) ∧
      (t.table (bdTable b)).state = (if s.batchCheck b = bsOk ∧ (s.table (bdTable b)).live = true ∧ (s.table (bdTable b)).state = tsServing
        then tsStaging else (s.table (bdTable b)).state) ∧
      t = { s with epm := { s.epm with tables := t.epm.tables, rings := t.epm.rings, last := g } }) ∧
  (∀ (s u w : State) (c : Instr) (g : Fin 8) (b : Bytes), s.epmStill = false →
    (c = .ringReread g ∧ ((∃ r, (s.ring g).retry = some r ∧ s.retryDue r = true) ∨ ((s.ring g).retry = none ∧ (s.ring g).fresh = true)) ∨
      c = .epmBatchStart ∧ s.epmBatches < 4 ∧ s.nextRing = some g.val ∧ (s.ring g).ready = none) →
    (s.asJob (.ring g)).vread (.epm g) .ctl (s.ringAcid g) (s.ringBase g + 64 * (s.ring g).head) 64 = (u, b, false, .none) →
    bdSeq b = (s.ring g).stream % 256 → u.coh.need = [] →
    w = (if u.epmBatches < 4 then u.batchBegin g b else u.setRing g { u.ring g with ready := some b, retry := none, fresh := false }) →
    exec c s = .next (w.endJob (.ring g))) ∧
  (∀ (s : State) (g : Fin 8) (r : Retry), s.epmStill = false → (s.ring g).retry = some r → s.retryOver r = true →
    ∃ t : State, exec (.ringStall g) s = .next t ∧ t.ring g = { s.ring g with ahead := true, retry := none } ∧
      (∀ n, n ≠ g.val → t.ring n = s.ring n) ∧ (t.faultInst uEpm 0).status.getLsbD 1 = true) ∧
  (∀ (s u : State) (g : Fin 8) (b b' : Batch), (s.ring g).batch = some b → s.epmStill = false → b.status = none →
    bdOp b.desc ≠ 2 → b.next < bdCount b.desc → s.tableHeld g (bdTable b.desc) = false →
    (jRow g b).go ((s.asJob (.ring g)).unmarkBatch g) = (.ok (), u) → u.coh.need = [] → (u.ring g).batch = some b' →
    ∃ t : State, exec (.batchRowApply g) s = .next t ∧ (t.ring g).batch = some { b' with next := b'.next + 1, applied := b'.applied + 1 } ∧
      u.counts t 0x6801 2 0) ∧
  (∀ (s u v w : State) (g : Fin 8) (b b' : Batch) (st : Nat), (s.ring g).batch = some b → s.epmStill = false → b.undecided = false →
    (b.status = some st ∧ v = s ∨ b.status = none ∧ (bdOp b.desc = 2 ∨ bdCount b.desc ≤ b.next) ∧ st = bsOk ∧
      (jBatchDone g b).go ((s.asJob (.ring g)).unmarkBatch g) = (.ok (), u) ∧ u.coh.need = [] ∧
      v = (u.onBatch g (fun x => { x with status := some bsOk })).endJob (.ring g)) →
    (v.ring g).batch = some b' → b'.status = some st → b'.undecided = false →
    (if bdDone b'.desc = 0 then ((v.asJob (.ring g)).unmarkBatch g, VErr.none) else
      ((v.asJob (.ring g)).unmarkBatch g).vwrite (.epm g) .ctl (bdAcid b'.desc) (bdDone b'.desc) (natLe (st + 2 ^ 32 * b'.applied) 8)) =
      (w, .none) → w.coh.need = [] →
    exec (.batchComplete g) s = .next ((w.setRing g { w.ring g with
      batch := none, head := ((w.ring g).head + 1) % w.ringSize g, stream := (w.ring g).stream + 1, done := (w.ring g).done + 1 }).endJob
        (.ring g))) ∧
  Puts .ringTailWrite .ringTail (fun _ q w => w.rd q.index q.sub = q.data)

/-- EPM_FLIP (R158 to R162): every table named has its result; one whose result is 0 reads its next epoch from now on, in DRAINING, under
the generation that the flip has stepped once for all of them; with no such table the generation stays. EPM_DISCARD sends the tables
named to DISCARDING, and no other changes. RING_RESUME ends a ring's stop, for a fresh read of its descriptor, and EPM_RESUME_TABLE a
table's compaction stop. A table or ring not named keeps its record. Draining, compaction and discard (R160, R163 to R168), while no
retreat waits. A DRAINING or RETREAT table whose earlier readers and inbound parts are gone and whose grace has passed goes on to
COMPACTING or to READY; a table in no such state stays. A step of compaction or of a discard's sweep that is carried out moves on one
entry, and what a compaction moved counts. The end of a compaction first steps the generation, and once the readers of earlier
generations are gone, the table serves; so does a table whose discard's sweep is carried out. EPOCH_REFUSED of another device marks the
tables of its tag that were to flip to that epoch; those that are DRAINING under it retreat, in one new generation; it does nothing at
the device that sent it. Parts of it rest on choices and readings of the model (log 10, 39 and 40). -/
def Obligations.EpochsFlipAndSettle : Prop :=
  Executes .epmFlip .epmFlip State.cmdDone (fun s q w =>
    w.epm.flip = (named q.data).map (fun n => (n, s.flipResult n)) ∧
    (∀ n, n < 4096 → bit q.data n = true → s.flipResult n = 0 →
      w.epm.gen = (s.epm.gen + 1) % 2 ^ 32 ∧ w.table n = { s.table n with
        prev := (s.table n).epoch, prevFrom := (s.table n).genChanged, epoch := ((s.table n).epoch + 1) % 2 ^ 64,
        genChanged := w.epm.gen, state := tsDraining, commitAt := s.now }) ∧
    (∀ n, n < 4096 → bit q.data n = false → w.table n = s.table n) ∧
    ((∀ n, n < 4096 → bit q.data n = true → s.flipResult n ≠ 0) → w.epm.gen = s.epm.gen)) ∧
  Executes .epmDiscard .epmDiscard State.cmdDone (fun s q w =>
    (∀ n, n < 4096 → w.table n = if bit q.data n then { s.table n with state := tsDiscarding, compactAt := 0, stopped := false }
      else s.table n) ∧ w = { s with epm := { s.epm with tables := w.epm.tables } }) ∧
  Executes .ringResume .ringResume State.cmdDone (fun s q w =>
    w.ring (le q.data 0 1) = (if (s.ring (le q.data 0 1)).ahead = true then
      { s.ring (le q.data 0 1) with ahead := false, retry := none, fresh := true } else s.ring (le q.data 0 1)) ∧
    (∀ n, n ≠ le q.data 0 1 → w.ring n = s.ring n)) ∧
  Executes .epmResumeTable .epmResumeTable State.cmdDone (fun s q w =>
    w.table (le q.data 0 2) = { s.table (le q.data 0 2) with stopped := false } ∧
    (∀ n, n ≠ le q.data 0 2 → w.table n = s.table n) ∧ w = { s with epm := { s.epm with tables := w.epm.tables } }) ∧
  (∀ (s : State) (n : Fin 4096) (t : EpochSt), t = s.table n → s.epm.retreats = [] → s.epmStill = false → t.twoLive = true →
    s.readersGone t.prevFrom t.genChanged = true → s.inboundParts n = 0 → 1000000 * s.rdN 0x6801 1 0 4 ≤ since s.now t.commitAt →
    exec (.drainComplete n) s = .next (s.setTable n (if t.state = tsDraining then
      { t with state := tsCompacting, compactAt := 0, stopped := false, endGen := none } else { t with state := tsReady }))) ∧
  (∀ (s : State) (n : Fin 4096), s.epm.retreats = [] → (s.table n).twoLive = false → exec (.drainComplete n) s = .next s) ∧
  (∀ (s u : State) (n : Fin 4096) (t : EpochSt) (did : Bool), t = s.table n → s.epmStill = false →
    (t.state = tsCompacting ∨ t.state = tsDiscarding) → t.stopped = false → t.compactAt < t.cursor →
    (jCompact n (s.tableDesc n) t.compactAt).go (s.asJob (.table n)) = (.ok did, u) → u.coh.need = [] →
    ∃ v : State, exec (.compactionStep n) s = .next v ∧ v.table n = { u.table n with compactAt := t.compactAt + 1 } ∧
      (did = true → t.state = tsCompacting → u.counts v 0x6801 2 1)) ∧
  (∀ (s : State) (n : Fin 4096) (t : EpochSt), t = s.table n → s.epm.retreats = [] → s.epmStill = false → t.state = tsCompacting →
    t.stopped = false → t.cursor ≤ t.compactAt → t.endGen = none → s.canStep = true →
    ∃ v : State, exec (.compactionEnd n) s = .next v ∧ v.epm.gen = (s.epm.gen + 1) % 2 ^ 32 ∧
      v.table n = { t with endGen := some v.epm.gen } ∧ v = { s with epm := { s.epm with gen := v.epm.gen, tables := v.epm.tables } }) ∧
  (∀ (s u : State) (n : Fin 4096) (t : EpochSt) (g : Nat), t = s.table n → s.epm.retreats = [] → s.epmStill = false →
    t.state = tsCompacting → t.stopped = false → t.cursor ≤ t.compactAt → t.endGen = some g → s.earlierGone n g = true →
    (jServe n (s.tableDesc n)).go (s.asJob (.table n)) = (.ok (), u) → u.coh.need = [] →
    exec (.compactionEnd n) s = .next (u.endJob (.table n)) ∧
      (u.table n).state = tsServing ∧ (u.table n).cursor = 0 ∧ (u.table n).failed = []) ∧
  (∀ (s u v : State) (n : Fin 4096) (t : EpochSt), t = s.table n → s.epmStill = false → t.state = tsDiscarding → t.stopped = false →
    (jSweep n (s.tableDesc n) t.compactAt (t.cursor - t.compactAt)).go (s.asJob (.table n)) = (.ok (), v) →
    (jServe n (s.tableDesc n)).go v = (.ok (), u) → u.coh.need = [] →
    exec (.discardSweepEnd n) s = .next (u.endJob (.table n)) ∧ (u.table n).state = tsServing) ∧
  (∀ (s : State) (p : Bytes) (mine : List Nat), s.faults.grave = false → fld p 80 16 ≠ s.node.toNat → fld p 96 32 ≠ 0 →
    mine = (s.epm.tables.filter (fun t => t.2.live && ecGtk (s.epochCfg t.1) = fld p 96 32)).map (fun t => t.1) →
    (∀ n ∈ mine, ¬((s.table n).state = tsDraining ∧ (s.table n).epoch = fld p 128 64)) →
    ∃ u : State, exec (.epochRefusedReceive p) s = .next u ∧ ∀ n, u.table n =
      if n ∈ mine ∧ ((s.table n).state = tsStaging ∨ (s.table n).state = tsSealed ∨ (s.table n).state = tsReady) ∧
        ((s.table n).epoch + 1) % 2 ^ 64 = fld p 128 64 then { s.table n with remote := true } else s.table n) ∧
  (∀ (s : State) (p : Bytes) (mine : List Nat), s.faults.grave = false → fld p 80 16 ≠ s.node.toNat → fld p 96 32 ≠ 0 →
    mine = (s.epm.tables.filter (fun t => t.2.live && ecGtk (s.epochCfg t.1) = fld p 96 32)).map (fun t => t.1) → mine.Nodup →
    (∃ n ∈ mine, (s.table n).state = tsDraining ∧ (s.table n).epoch = fld p 128 64) → s.canStep = true → s.epm.retreats = [] →
    ∃ u : State, exec (.epochRefusedReceive p) s = .next u ∧ u.epm.gen = (s.epm.gen + 1) % 2 ^ 32 ∧
      ∀ n ∈ mine, (s.table n).state = tsDraining → (s.table n).epoch = fld p 128 64 →
        u.table n = (s.table n).retreat u.epm.gen s.now) ∧
  (∀ (s : State) (p : Bytes), fld p 80 16 = s.node.toNat → exec (.epochRefusedReceive p) s = .next s)

/-! ### Chapter 6: sessions and scans -/

/-- A drawer's 64 bytes (Table 6.1): every field, at every value it admits, reads back. Drawers move between the ways and the spill area
(R177, R178): a spill writes the oldest drawer of the write-back buffer to the spill area, and counts; the session that finds no place
there, or loses its own, is lost: it counts, its fault is recorded, and the sweep ends it. A reload brings a spilled session that an
operation waits for back into a way, with no pins. Parts of it rest on choices and readings of the model (log 10 and 41). -/
def Obligations.DrawersKeepTheirFields : Prop :=
  (∀ d : Drawer, d.key < 2 ^ 64 → d.ringBase < 2 ^ 57 → d.rclass < 8 → d.sumBase < 2 ^ 57 → d.length < 2 ^ 24 → d.head < 2 ^ 24 →
     d.lastEpoch < 2 ^ 64 → d.touch < 2 ^ 32 → d.pins < 256 → d.age < 16 → d.pinLow < 2 ^ 16 →
     d.bytes.length = 64 ∧ Drawer.ofBytes d.bytes = d) ∧
  (∀ (s u : State) (d : Drawer) (rest : List Drawer) (lost : Option Drawer), s.ssu.wbuf = d :: rest → s.frozen = false →
    (jSpill d).go { s.asJob .spill with ssu := { s.ssu with wbuf := rest } } = (.ok lost, u) → u.coh.need = [] →
    ∃ t : State, exec .drawerSpill s = .next t ∧ (lost ≠ some d → u.counts t 0x7000 3 3) ∧
      (lost = none → t = State.endJob { u with ctr := t.ctr } .spill) ∧
      (∀ v, lost = some v → t.ssu.doomed = u.ssu.doomed ++ [v] ∧ u.counts t 0x7000 3 4 ∧
        (t.faultInst uHse 12).status.getLsbD 1 = true)) ∧
  (∀ (s : State), s.ssu.wbuf = [] → exec .drawerSpill s = .next s) ∧
  (∀ (s u : State) (key : BitVec 64), s.frozen = false → s.resident key.toNat = none → s.inWbuf key.toNat = false →
    s.reloadAwaited key.toNat = true → (jReload key.toNat).go (s.asJob (.session key.toNat)) = (.ok (), u) → u.coh.need = [] →
    exec (.drawerReload key) s = .next (u.endJob (.session key.toNat)) ∧ ∃ k, (u.drawer k).valid = true ∧ (u.drawer k).pins = 0)

/-- Event rings (R183 to R185, R188). The descriptor at a ring's head, read for the ring whose turn it is, again under the schedule, or
afresh after SSU_RESUME, begins the ring's batch if its SEQ is right and fewer than four batches run, and else waits read; one that has
been read begins at its turn. An event that applies, in its turn on the key, moves HEAD and LENGTH on; an END of a session that is not
pinned takes its drawer; a batch that has ended writes its completion word where it has one and lets its ring go on. A ring's new tail is
held; a read schedule that ends without success stops the ring, and SSU_RESUME lets it go on. Parts of it rest on choices and readings of
the model (log 38 and 43). -/
def Obligations.EventsApply : Prop :=
  (∀ (s : State) (g : Nat) (b : Bytes), s.frozen = false → s.evBatches < 4 → s.nextEv = some g → (s.evRing g).ready = some b → b ≠ [] →
    ∃ (t : State) (x : Batch), exec .evBatchStart s = .next t ∧ t.ssu.last = g ∧ (t.evRing g).batch = some x ∧ x.desc = b ∧ x.next = 0 ∧
      x.applied = 0 ∧ (x.status = none ↔ s.evCheck b = esOk) ∧ (∀ n, n ≠ g → t.evRing n = s.evRing n) ∧
      t = { s with ssu := { s.ssu with rings := t.ssu.rings, last := g } }) ∧
  (∀ (s u w : State) (c : Instr) (g : Fin 8) (b : Bytes), s.frozen = false →
    (c = .evRingReread g ∧ ((∃ r, (s.evRing g).retry = some r ∧ s.retryDue r = true) ∨
        ((s.evRing g).retry = none ∧ (s.evRing g).fresh = true)) ∨
      c = .evBatchStart ∧ s.evBatches < 4 ∧ s.nextEv = some g.val ∧ (s.evRing g).ready = none) →
    (s.asJob (.evRing g)).vread (.ssu g) .ctl (s.evAcid g) (s.evBase g + 64 * (s.evRing g).head) 64 = (u, b, false, .none) →
    edSeq b = (s.evRing g).stream % 256 → u.coh.need = [] →
    w = (if u.evBatches < 4 then u.evBegin g b else u.setEvRing g { u.evRing g with ready := some b, retry := none, fresh := false }) →
    exec c s = .next (w.endJob (.evRing g))) ∧
  (∀ (s : State) (g : Fin 8) (r : Retry), s.frozen = false → (s.evRing g).retry = some r → s.retryOver r = true →
    exec (.evRingStall g) s = .next (s.setEvRing g { s.evRing g with ahead := true, retry := none })) ∧
  (∀ (s u v : State) (g : Fin 8) (b b' : Batch) (k : Nat), (s.evRing g).batch = some b → s.frozen = false → b.status = none →
    edOp b.desc = 0 → b.next < edCount b.desc →
    v = ((s.joinLine (edKey b.desc) (.batch g)).asJob (.evRing g)).unmarkEv g → v.lineTurn (edKey b.desc) (.batch g) = true →
    (jEvent g b).go v = (.ok (), u) → u.coh.need = [] → (u.evRing g).batch = some b' →
    ∃ t : State, exec (.eventAppend g) s = .next t ∧
      (t.evRing g).batch = some { b' with next := b'.next + 1, applied := b'.applied + 1, paused := false, holding := false } ∧
      (s.resident (edKey b.desc) = some k → (s.drawer k).rclass = edClass b.desc →
        (t.drawer k).head = ((s.drawer k).head + 1) % rcSlots (s.ringClass (edClass b.desc)) ∧
        (t.drawer k).length = min ((s.drawer k).length + 1) (rcSlots (s.ringClass (edClass b.desc))))) ∧
  (∀ (s u v : State) (g : Fin 8) (b : Batch), (s.evRing g).batch = some b → s.frozen = false → b.status = none → edOp b.desc = 1 →
    v = ((s.joinLine (edKey b.desc) (.batch g)).asJob (.evRing g)).unmarkEv g → v.lineTurn (edKey b.desc) (.batch g) = true →
    (jEnd g b.desc).go v = (.ok (), u) → u.coh.need = [] →
    exec (.sessionEndApply g) s = .next (((u.leaveLine (edKey b.desc) (.batch g)).onEvBatch g
      (fun x => { x with paused := false, holding := false, status := some esOk })).endJob (.evRing g)) ∧
    (∀ k, s.resident (edKey b.desc) = some k → (s.drawer k).pins = 0 ∧ u.drawer k = {})) ∧
  (∀ (s v w : State) (g : Fin 8) (b b' : Batch) (st : Nat), (s.evRing g).batch = some b → s.frozen = false → b.undecided = false →
    (b.status.isSome = true ∨ edOp b.desc = 0 ∧ edCount b.desc ≤ b.next) → v = (s.asJob (.evRing g)).unmarkEv g →
    (v.evRing g).batch = some b' → st = b'.status.getD esOk →
    (if edDone b'.desc = 0 then (v, VErr.none) else
      v.vwrite (.ssu g) .ctl (edAcid b'.desc) (edDone b'.desc) (natLe (st + 2 ^ 32 * b'.applied) 8)) = (w, .none) → w.coh.need = [] →
    exec (.evBatchComplete g) s = .next ((w.setEvRing g { w.evRing g with
      batch := none, head := ((w.evRing g).head + 1) % w.evSize g, stream := (w.evRing g).stream + 1,
      done := (w.evRing g).done + 1 }).endJob (.evRing g))) ∧
  Puts .evRingTailWrite .evRingTail (fun _ q w => w.rd q.index q.sub = q.data) ∧
  Executes .ssuResume .ssuResume State.cmdDone (fun s q w =>
    w.evRing (le q.data 0 1) = { s.evRing (le q.data 0 1) with ahead := false, retry := none, fresh := true } ∧
    (∀ n, n ≠ le q.data 0 1 → w.evRing n = s.evRing n))

/-- A request's binding (R175, R176, R179). An operation on a key takes its turn after those that came before it. The lookup of a
resident session counts, as a hit where it did not wait for a reload, pins its drawer and makes it the newest of its set; a drawer pinned
255 times ends the request with SESSION_BUSY. A lookup that finds no session, resident, buffered or spilled, binds the request to none. A
request with a binding stays. SESSION_QUERY answers the drawer of a resident, of a buffered or of a spilled session, and otherwise zeros.
The sweep and the rebuild (R189, R190): an unpinned session older than SESSION_TTL, resident or spilled, ends: its ring is free, and it
counts in EXPIRED; a resident one that is pinned or younger stays. The sweep ends a session that was lost. The rebuild of a block that
awaits it takes it off, and REBUILD then says whether another block of the session does. Parts of it rest on choices and readings of the
model (log 10, 42 and 43). -/
def Obligations.SessionsBindAndExpire : Prop :=
  (∀ (s v : State) (r k : Nat) (q : Request) (d : Drawer), q = s.req r → s.frozen = false → q.admitted = true → q.phase < 4 →
    q.binding = none → reqKey q ≠ 0 → s.resident (reqKey q) = some k → d = s.drawer k → d.pins < 255 → s.coh.need = [] →
    v = s.joinLine (reqKey q) (.bind r) → v.lineTurn (reqKey q) (.bind r) = true →
    ∃ (t : State) (b : Binding), exec (.sessionBind r .clean) s = .next t ∧ (t.req r).binding = some b ∧ b.slot = k ∧ b.key = d.key ∧
      b.head = d.head ∧ b.length = d.length ∧ b.epoch = d.lastEpoch ∧ b.session = true ∧ b.live = true ∧
      t.drawer k = { d with pins := d.pins + 1, pinLow := (t.drawer k).pinLow, touch := s.touchNow, age := 0 } ∧
      s.counts t 0x7000 3 0 ∧ ((v.inLine (reqKey q) (.bind r)).missed = false → s.counts t 0x7000 3 1) ∧
      t = State.endJob { s with sqe := { s.sqe with reqs := t.sqe.reqs }, ctr := t.ctr,
                                ssu := { s.ssu with drawers := t.ssu.drawers, line := t.ssu.line } } (.bindReq r)) ∧
  (∀ (s v : State) (r k : Nat) (q : Request), q = s.req r → s.frozen = false → q.admitted = true → q.phase < 4 → q.binding = none →
    reqKey q ≠ 0 → s.resident (reqKey q) = some k → 255 ≤ (s.drawer k).pins → s.coh.need = [] → sfind s.sqe.reqs r = some q →
    q.causes = [] → 1 ≤ q.phase → v = s.joinLine (reqKey q) (.bind r) → v.lineTurn (reqKey q) (.bind r) = true →
    ∃ t : State, exec (.sessionBind r .clean) s = .next t ∧ (t.req r).causes.map (fun c => c.status) = [stSessionBusy] ∧
      s.counts t 0x7000 3 7 ∧ (t.drawer k).pins = (s.drawer k).pins) ∧
  (∀ (s v u : State) (r : Nat) (q : Request), q = s.req r → s.frozen = false → q.admitted = true → q.phase < 4 → q.binding = none →
    reqKey q ≠ 0 → s.resident (reqKey q) = none → s.inWbuf (reqKey q) = false → v = s.joinLine (reqKey q) (.bind r) →
    v.lineTurn (reqKey q) (.bind r) = true → (v.inLine (reqKey q) (.bind r)).gone = false →
    (jProbe (reqKey q)).go (((v.asJob (.bindReq r)).leaveLine (reqKey q) (.bind r)).ssuCount 0) = (.ok none, u) → u.coh.need = [] →
    exec (.sessionBind r .clean) s = .next ((u.setReq r { u.req r with binding := some { key := reqKey (u.req r) } }).endJob (.bindReq r))) ∧
  (∀ (s : State) (r : Nat), (s.req r).binding ≠ none → exec (.sessionBind r .clean) s = .next s) ∧
  (∀ (s u w : State) (i key : Nat) (q : DictReq) (r : EntRow) (b : Bytes), s.serves i q (.exec .sessionQuery) →
    (s.taken i).execPasses q r → key = le q.data 0 8 → w = s.taken i →
    ((∃ k, w.resident key = some k ∧ b = (w.drawer k).bytes ∧ u = w) ∨
     (w.resident key = none ∧ ∃ d, w.ssu.wbuf.find? (fun d => d.key = key) = some d ∧ b = d.bytes ∧ u = w) ∨
     (w.resident key = none ∧ w.ssu.wbuf.find? (fun d => d.key = key) = none ∧ u.coh.need = [] ∧
      ((∃ va d, (jSpillFind .ssu key).go w = (.ok (some (va, d)), u) ∧ b = d.bytes) ∨
       (jSpillFind .ssu key).go w = (.ok none, u) ∧ b = zeros 64))) →
    exec .sessionQuery s = .next ((State.cmdDone { u with ssu := { u.ssu with result := b } } q.index q.sub).ok q)) ∧
  (∀ (s u : State) (key : BitVec 64) (k : Nat), s.frozen = false → s.ssu.doomed.find? (fun d => d.key = key.toNat) = none →
    s.resident key.toNat = some k → (s.drawer k).pins = 0 → s.expired (s.drawer k) = true →
    (jEndRing .ssu (s.drawer k)).go (s.asJob (.session key.toNat)) = (.ok (), u) → u.coh.need = [] →
    ∃ t : State, exec (.sessionExpire key) s = .next t ∧ t.drawer k = {} ∧ u.counts t 0x7000 3 5) ∧
  (∀ (s : State) (key : BitVec 64) (k : Nat), s.ssu.doomed.find? (fun d => d.key = key.toNat) = none → s.resident key.toNat = some k →
    ((s.drawer k).pins ≠ 0 ∨ s.expired (s.drawer k) = false) → exec (.sessionExpire key) s = .next s) ∧
  (∀ (s u v w : State) (key : BitVec 64) (va : Nat) (d : Drawer), s.frozen = false →
    s.ssu.doomed.find? (fun d => d.key = key.toNat) = none → s.resident key.toNat = none →
    (jSpillFind .ssu key.toNat).go (s.asJob (.session key.toNat)) = (.ok (some (va, d)), u) → u.expired d = true →
    (jEndRing .ssu d).go u = (.ok (), v) → (jSpillClear .ssu va).go v = (.ok (), w) → w.coh.need = [] →
    exec (.sessionExpire key) s = .next (((w.dropRedo key.toNat).ssuCount 5).endJob (.session key.toNat))) ∧
  (∀ (s u : State) (key : BitVec 64) (d : Drawer), s.frozen = false → s.ssu.doomed.find? (fun d => d.key = key.toNat) = some d →
    (jEndRing .ssu d).go (State.asJob { s with ssu := { s.ssu with doomed := s.ssu.doomed.erase d } } (.session key.toNat)) = (.ok (), u) →
    u.coh.need = [] → exec (.sessionExpire key) s = .next (u.endJob (.session key.toNat))) ∧
  (∀ (s u v : State) (key : BitVec 64) (k blk : Nat), s.frozen = false → s.resident key.toNat = some k →
    s.ssu.redo.contains (key.toNat, blk) = true → (jRebuild k blk).go (s.asJob (.session key.toNat)) = (.ok (), u) → u.coh.need = [] →
    v = u.endRedo k blk → exec (.summaryRebuild key blk) s = .next (v.endJob (.session key.toNat)) ∧
      v.ssu.redo = u.ssu.redo.filter (fun p => p ≠ ((u.drawer k).key, blk)) ∧
      v.drawer k = { u.drawer k with rebuild := v.ssu.redo.any (fun p => p.1 = (u.drawer k).key) })

/-- A history scan (R191 to R195). It is accepted into its cabinet's queue of 16. The head, once its request's binding is settled,
begins: a good one counts in SCANS, and reads its lines, or finishes at once where it selects nothing; one that is malformed, or of a
request without a session key, ends its task with BAD_SCAN. A line that arrives in its turn (log 98) frees its tag; a summary line that
is not the last is kept with its poison, and any line of the running scan takes the scan on. A finished scan leaves the queue, and its
transfer's tag completes. Parts of it rest on choices and readings of the model (log 44). -/
def Obligations.ScansRun : Prop :=
  (∀ (s u : State) (c : Fin 12) (q : Scan) (rest : List Scan), s.frozen = false → s.hseResetting c = false → u = s.hReap c →
    (u.hse c).posted = q :: rest → (u.hse c).queue.length < 16 →
    exec (.hseScanAccept c) s = .next (u.setHse c { u.hse c with
      posted := rest, queue := (u.hse c).queue ++ [{ q with num := (u.hse c).next }], next := (u.hse c).next + 1 })) ∧
  (∀ (s u v : State) (c : Fin 12) (q p : Scan) (b : Binding), s.frozen = false → s.hseResetting c = false → u = s.hReap c →
    u.hHead c = some q → q.phase = 0 → (u.req q.req).binding = some b → v = u.hseCount c 0 →
    p = { q with bind := b, frame := ((u.tile q.tile).ctx q.ctx).frame,
                 base := 64 * u.frameBase q.tile ((u.tile q.tile).ctx q.ctx).frame } →
    v.hBad p (u.req q.req).lanes = false →
    (v.hSelected p ≠ 0 →
      exec (.hseScanStart c) s = .next ((v.setHead c { p with phase := 1, left := v.hLines { p with phase := 1 } }).hPump c)) ∧
    (v.hSelected p = 0 → ∃ t : State, exec (.hseScanStart c) s = .next t ∧ (∃ h, t.hHead c = some h ∧ h.phase = 3 ∧ h.num = q.num) ∧
      u.counts t 0x7005 c 0)) ∧
  (∀ (s u v : State) (c : Fin 12) (q p : Scan), s.frozen = false → s.hseResetting c = false → u = s.hReap c → u.hHead c = some q →
    q.phase = 0 → v = u.hseCount c 0 →
    ((u.req q.req).binding = none ∧ reqKey (u.req q.req) = 0 ∧ p = q ∨
     (∃ b, (u.req q.req).binding = some b ∧ p = { q with
        bind := b, frame := ((u.tile q.tile).ctx q.ctx).frame, base := 64 * u.frameBase q.tile ((u.tile q.tile).ctx q.ctx).frame } ∧
      v.hBad p (u.req q.req).lanes = true)) →
    exec (.hseScanStart c) s = .next ((v.hseCount c 3).endTask q.req stBadScan q.tile
      ((v.hseCount c 3).postPos q.tile q.xtag))) ∧
  (∀ (s u v : State) (c : Fin 12) (n id : Nat) (tg : HTag) (m : MemRsp) (q : Scan), s.faults.grave = false →
    sfind (s.hse c).tags n = some tg → tg.id = some id → sfind s.rsps id = some m → m.performed = true →
    s.inTurn c [(tg.tgt.home, m.num)] = true → m.err = .none →
    u = ((s.settle (.hse c n) false).forget [id]).countAccess tg.acid tg.va tg.tgt →
    v = (u.setHse c { u.hse c with tags := sdel (u.hse c).tags n }).hReap c → v.hHead c = some q → q.num = tg.scan →
    ∃ w : State, exec (.hseLineArrive c n .clean) s = .next (w.hPump c) ∧ w = v.hLine c q tg m ∧
      (q.phase = 1 → q.left ≠ 1 → w.hHead c = some { q with
        lines := sput q.lines tg.line (bytesAt m.data 0 64), bad := sset false q.bad tg.line m.poison, left := q.left - 1,
        top := max q.top tg.order }) ∧
      (q.phase ≠ 1 → q.left ≠ 1 →
        w = State.setHead (v.hRecord q tg.line (bytesAt m.data 0 64) m.poison).1 c
          { (v.hRecord q tg.line (bytesAt m.data 0 64) m.poison).2 with
            left := (v.hRecord q tg.line (bytesAt m.data 0 64) m.poison).2.left - 1 })) ∧
  (∀ (s : State) (c : Fin 12) (n id : Nat) (tg : HTag) (m : MemRsp), s.faults.grave = false → sfind (s.hse c).tags n = some tg →
    tg.id = some id → sfind s.rsps id = some m → m.performed = true → s.inTurn c [(tg.tgt.home, m.num)] = true →
    (s.hse c).queue = [] → (s.hse c).posted = [] →
    ∃ t : State, exec (.hseLineArrive c n .clean) s = .next t ∧ sfind (t.hse c).tags n = none ∧ sfind t.rsps id = none) ∧
  (∀ (s u : State) (c : Fin 12) (q : Scan), s.frozen = false → u = s.hReap c → u.hHead c = some q → q.phase = 3 →
    ∃ t : State, exec (.hseScanComplete c) s = .next t ∧ (t.hse c).queue = (u.hse c).queue.drop 1 ∧
      sfind (t.tile q.tile).xfers q.xtag = none)

/-! ### Chapter 7: tiles -/

namespace Sys2Proof.Machine

/-- Command `c` of a tile issues the CTL slot of code `op` and writes `v` to X[D]. -/
def WritesX (c : Fin 96 → Instr) (op : Nat) (v : State → Act → Word) : Prop :=
  ∀ (s : State) (t : Fin 96) (a : Act), s.mayIssue t 4 = some a → slotOp a.b 4 = op →
    exec (c t) s = .next (s.issued a 4 (a.x.putX (cD a.b) (v s a)))

/-- Lane `i` of a vector register, 16 or 32 bits wide as LW says. -/
def lane (b : Bytes) (v : Vec) (i : Nat) : Nat := (lanesOf (vLw b) v).getD i 0

/-- Command `c` of a tile issues the VXU slot of code `op` and writes VR[D], whose lane `i` is `f a i`. -/
def WritesLanes (c : Fin 96 → Instr) (op : Nat) (f : Act → Nat → Nat) : Prop :=
  ∀ (s : State) (t : Fin 96) (a : Act), s.mayIssue t 1 = some a → slotOp a.b 1 = op →
    ∃ v, exec (c t) s = .next (s.issued a 1 (a.x.putV (vD a.b) v)) ∧
      ∀ i, i < (if vLw a.b then 512 else 256) → lane a.b v i = f a i % (if vLw a.b then 2 ^ 16 else 2 ^ 32)

/-- Lane `i` of VR[A], VR[B] and VR[C]. -/
def Act.la (a : Act) (i : Nat) : Nat := lane a.b (a.x.rv (vA a.b)) i
def Act.lb (a : Act) (i : Nat) : Nat := lane a.b (a.x.rv (vB a.b)) i
def Act.lc (a : Act) (i : Nat) : Nat := lane a.b (a.x.rv (vC a.b)) i

/-- The command that issues an XFU slot of an operation code of Table 7.6. -/
def xferInstr (op : Nat) (t : Fin 96) : Instr :=
  match op with
  | 1 => .ld t
  | 2 => .st t
  | 3 => .lds t
  | 4 => .sts t
  | 5 => .ldp t
  | 6 => .stp t
  | 7 => .ldr t
  | 8 => .stc t
  | 0x12 => .acas t
  | 0x13 => .gpost t
  | 0x14 => .hpost t
  | 0x15 => .barL t
  | 0x16 => .barS t
  | 0x17 => .barA t
  | _ => .fetchAtomic t

end Sys2Proof.Machine

/-- The scalar operations of the CTL slot (R224): what each writes to X[D]; CSRR with each of its six numbers. The lanes of the VXU's
operations (R207 to R209): arithmetic, minimum and maximum, comparisons to all-ones or 0, selection, and the functions of one operand; a
reduction's result stands in lane 0, and every other lane is +0. -/
def Obligations.SlotsWriteResults : Prop :=
  WritesX .addSubMul 1 (fun _ a => a.x.rx (cA a.b) + a.x.rx (cB a.b)) ∧
  WritesX .addSubMul 2 (fun _ a => a.x.rx (cA a.b) - a.x.rx (cB a.b)) ∧
  WritesX .addSubMul 3 (fun _ a => a.x.rx (cA a.b) * a.x.rx (cB a.b)) ∧
  WritesX .andOrXor 4 (fun _ a => a.x.rx (cA a.b) &&& a.x.rx (cB a.b)) ∧
  WritesX .andOrXor 5 (fun _ a => a.x.rx (cA a.b) ||| a.x.rx (cB a.b)) ∧
  WritesX .andOrXor 6 (fun _ a => a.x.rx (cA a.b) ^^^ a.x.rx (cB a.b)) ∧
  WritesX .shlShrSra 7 (fun _ a => a.x.rx (cA a.b) <<< ((a.x.rx (cB a.b)).toNat % 64)) ∧
  WritesX .shlShrSra 8 (fun _ a => a.x.rx (cA a.b) >>> ((a.x.rx (cB a.b)).toNat % 64)) ∧
  WritesX .shlShrSra 9 (fun _ a => (a.x.rx (cA a.b)).sshiftRight ((a.x.rx (cB a.b)).toNat % 64)) ∧
  WritesX .sltSltu 0xA (fun _ a => if (a.x.rx (cA a.b)).toInt < (a.x.rx (cB a.b)).toInt then 1 else 0) ∧
  WritesX .sltSltu 0xB (fun _ a => if (a.x.rx (cA a.b)).toNat < (a.x.rx (cB a.b)).toNat then 1 else 0) ∧
  WritesX .sel 0xC (fun _ a => if a.x.rx (cImm a.b % 32) ≠ 0 then a.x.rx (cA a.b) else a.x.rx (cB a.b)) ∧
  WritesX .addi 0xD (fun _ a => a.x.rx (cA a.b) + cImmS a.b) ∧
  WritesX .shori 0xE (fun _ a => BitVec.ofNat 64 (2 ^ 19 * (a.x.rx (cA a.b)).toNat + cImm a.b)) ∧
  WritesX .xlane 0xF (fun _ a => (a.x.rv (cA a.b)).extractLsb' (64 * (cImm a.b % 128)) 64) ∧
  WritesX .gtcr 0x12 (fun s _ => s.gtc.count) ∧
  (∀ n v : Nat, ∀ s : State, ∀ t : Fin 96, ∀ a, s.mayIssue t 4 = some a → slotOp a.b 4 = 0x13 → cImm a.b = n →
    (n = 0 → v = a.t) → (n = 1 → v = a.t / 8) → (n = 2 → v = a.c) → (n = 3 → v = (s.req a.x.req).recVa) →
    (n = 4 → v = (s.tile a.t).trap.cause) →
    (n = 5 → v = (match (s.tile a.t).trap.stopped with
                  | some c => c % 16
                  | none => 0) + 256 * ((s.tile a.t).trap.bundle % 2 ^ 24)) → n < 6 →
    exec (.csrr t) s = .next (s.issued a 4 (a.x.putX (cD a.b) (BitVec.ofNat 64 v)))) ∧
  WritesLanes .vaddVsubVmulVfma 1 (fun a i => fpAdd (laneFmt a.b) (a.la i) (a.lb i)) ∧
  WritesLanes .vaddVsubVmulVfma 2 (fun a i => fpSub (laneFmt a.b) (a.la i) (a.lb i)) ∧
  WritesLanes .vaddVsubVmulVfma 3 (fun a i => fpMul (laneFmt a.b) (a.la i) (a.lb i)) ∧
  WritesLanes .vaddVsubVmulVfma 4 (fun a i => fpFma (laneFmt a.b) (a.la i) (a.lb i) (a.lc i)) ∧
  WritesLanes .vminVmax 5 (fun a i => fpMinMax (laneFmt a.b) false (a.la i) (a.lb i)) ∧
  WritesLanes .vminVmax 6 (fun a i => fpMinMax (laneFmt a.b) true (a.la i) (a.lb i)) ∧
  WritesLanes .vcmpeqVcmpltVcmple 7 (fun a i =>
    if (decodeNum (laneFmt a.b) (a.la i)).eq (decodeNum (laneFmt a.b) (a.lb i)) then 2 ^ 32 - 1 else 0) ∧
  WritesLanes .vcmpeqVcmpltVcmple 8 (fun a i =>
    if (decodeNum (laneFmt a.b) (a.la i)).lt (decodeNum (laneFmt a.b) (a.lb i)) then 2 ^ 32 - 1 else 0) ∧
  WritesLanes .vcmpeqVcmpltVcmple 9 (fun a i =>
    let x := decodeNum (laneFmt a.b) (a.la i)
    let y := decodeNum (laneFmt a.b) (a.lb i)
    if x.lt y || x.eq y then 2 ^ 32 - 1 else 0) ∧
  WritesLanes .vselVmovVbcast 0xA (fun a i => if a.lc i ≠ 0 then a.la i else a.lb i) ∧
  WritesLanes .vselVmovVbcast 0xB (fun a i => a.la i) ∧
  WritesLanes .vselVmovVbcast 0xC (fun a _ => (a.x.rx (vXs a.b)).toNat) ∧
  WritesLanes .vrcpVrsqVsqrtVexp2Vlog2 0xD (fun a i => Unary.rcp.apply (laneFmt a.b) (segStrict a.g) (a.la i)) ∧
  WritesLanes .vrcpVrsqVsqrtVexp2Vlog2 0xE (fun a i => Unary.rsq.apply (laneFmt a.b) (segStrict a.g) (a.la i)) ∧
  WritesLanes .vrcpVrsqVsqrtVexp2Vlog2 0xF (fun a i => Unary.sqrt.apply (laneFmt a.b) (segStrict a.g) (a.la i)) ∧
  WritesLanes .vrcpVrsqVsqrtVexp2Vlog2 0x10 (fun a i => Unary.exp2.apply (laneFmt a.b) (segStrict a.g) (a.la i)) ∧
  WritesLanes .vrcpVrsqVsqrtVexp2Vlog2 0x11 (fun a i => Unary.log2.apply (laneFmt a.b) (segStrict a.g) (a.la i)) ∧
  WritesLanes .vredaddVredmax 0x12 (fun a i =>
    if i = 0 then reduceLanes (fpAdd (laneFmt a.b)) 9 (lanesOf (vLw a.b) (a.x.rv (vA a.b))) else 0) ∧
  WritesLanes .vredaddVredmax 0x13 (fun a i =>
    if i = 0 then reduceLanes (fpMinMax (laneFmt a.b) true) 9 (lanesOf (vLw a.b) (a.x.rv (vA a.b))) else 0)

/-- A matrix operation (R205, R206): MMA holds the MXU with its slot and descriptor, and waits while the MXU is held; MMA_COMPLETE writes
C row by row and frees it. An element of C is the accumulation that the segment's mode names. A residue that does not agree frees the MXU
and records the tile's fault. A stream operation (R210, R92): it holds the converter with the scalars it read; HIST.RD takes the bins of
its histogram slot there, and HIST.CLR zeroes them and no others. On completion, with no poisoned source, the destination is written, the
counts are added to NUM_COUNTS, a histogram slot that a CVT or TWIDEN names counts the output, and the converter is free; of a HIST.CLR
nothing is left but to free it. Parts of it rest on choices and readings of the model (log 10 and 45). -/
def Obligations.UnitsWriteResults : Prop :=
  (∀ (s : State) (t : Fin 96) (a : Act) (op : UnitOp), s.mayIssue t 0 = some a → slotOp a.b 0 = 1 → (s.tile t).mxu = none →
    op = { ctx := a.c, slot := fld a.b 0 64, desc := segDesc a.g (mDesc a.b), base := a.base, strict := segStrict a.g,
           seq := (s.tile t).seq } →
    exec (.mma t) s = .next ((s.setTile t { s.tile t with mxu := some op }).issued a 0 a.x)) ∧
  (∀ (s : State) (t : Fin 96), (s.tile t).mxu ≠ none → exec (.mma t) s = .next s) ∧
  (∀ (s : State) (t : Fin 96) (op : UnitOp) (y : Tile), y = s.tile t → y.mxu = some op → s.frozen = false → y.mmaBad op = false →
    fld (natLe op.slot 8) 56 3 = 0 →
    ∃ u : State, exec (.mmaComplete t true) s = .next u ∧ (u.tile t).mxu = none ∧
      (u.tile t).scr = (y.mmaRows op).foldl (fun m r => mwrite m (64 * r.1) (packBits 32 r.2)) y.scr ∧
      u.tile t = { y with mxu := none, scr := (u.tile t).scr, scrPoison := (u.tile t).scrPoison } ∧
      u = { s with tiles := { s.tiles with tile := u.tiles.tile } }) ∧
  (∀ (y : Tile) (op : UnitOp) (i : Nat) (d : Bytes), d = op.desc → i < dmM d →
    (y.mmaRows op)[i]? = some (op.base + dmC d + i * dmStrC d, (List.range (dmN d)).map (fun j =>
      mmaElem op.strict
        (if bit (natLe op.slot 8) 59 then le (y.scrRead (op.base + dmC d + i * dmStrC d) (4 * dmN d)) (4 * j) 4 else 0)
        (y.row (op.base + dmA d + i * dmStrA d) (dmFmtA d) (dmBlkA d) (dmK d))
        (y.row (op.base + dmB d + j * dmStrB d) (dmFmtB d) (dmBlkB d) (dmK d))))) ∧
  (∀ (s : State) (t : Fin 96) (op : UnitOp), (s.tile t).mxu = some op → s.frozen = false →
    ∃ u : State, exec (.mmaComplete t false) s = .next u ∧ (u.tile t).mxu = none ∧ (u.faultInst uTile t).status.getLsbD 4 = true) ∧
  (∀ (c : Nat × (Fin 96 → Instr)) (s : State) (t : Fin 96) (a : Act) (d : Bytes) (op : UnitOp),
    c ∈ [(0x20, Instr.cvt), (0x21, Instr.tnarrow), (0x22, Instr.twiden), (0x23, Instr.histRd), (0x24, Instr.histClr)] →
    s.mayIssue t 1 = some a → slotOp a.b 1 = c.1 → (s.tile t).conv = none → d = segDesc a.g (vDesc a.b) →
    op = { ctx := a.c, slot := fld a.b 64 64, desc := d, base := a.base, strict := segStrict a.g, seq := (s.tile t).seq,
           tscale := BitVec.ofNat 32 (a.x.rx (dsTscale d)).toNat, seed := a.x.rx (dsSeed d), sbase := a.x.rx (dsBase d),
           bins := if c.1 = 0x23 then (List.range 256).flatMap (fun b => natLe (sget 0 (s.tile t).hist ((dsHslot d - 1) * 256 + b)) 4)
                   else [] } →
    ∃ y : Tile, exec (c.2 t) s = .next ((s.setTile t y).issued a 1 a.x) ∧ y = { s.tile t with conv := some op, hist := y.hist } ∧
      (c.1 ≠ 0x24 → y.hist = (s.tile t).hist) ∧
      (c.1 = 0x24 → ∀ k b, b < 256 → sget 0 y.hist (256 * k + b) =
        if k + 1 = dsHslot d then 0 else sget 0 (s.tile t).hist (256 * k + b))) ∧
  (∀ (s : State) (t : Fin 96) (op : UnitOp) (y : Tile), y = s.tile t → y.conv = some op → s.frozen = false →
    y.scrBad (64 * (op.base + dsSrcWord op.desc)) (y.streamSrc op) = false → op.slot / 2 ^ 56 ≠ 0x24 →
    ∃ u : State, exec (.streamOpComplete t) s = .next u ∧
      u.tile t = { y with conv := none, scr := mwrite y.scr (64 * (op.base + dsDstWord op.desc)) (y.streamOut op).1,
                          scrPoison := (u.tile t).scrPoison,
                          hist := if op.slot / 2 ^ 56 = 0x20 ∨ op.slot / 2 ^ 56 = 0x22
                            then (y.histAdd (dsHslot op.desc) (y.streamOut op).2.2).hist else y.hist } ∧
      s.counts u 0x5801 t 0 (y.streamOut op).2.1.sat ∧ s.counts u 0x5801 t 1 (y.streamOut op).2.1.flush ∧
      s.counts u 0x5801 t 2 (y.streamOut op).2.1.escape ∧ s.counts u 0x5801 t 3 (y.streamOut op).2.1.badscale ∧
      s.counts u 0x5801 t 4 (y.streamOut op).2.1.invalid ∧
      u = { s with tiles := { s.tiles with tile := u.tiles.tile }, ctr := u.ctr }) ∧
  (∀ (s : State) (t : Fin 96) (op : UnitOp) (y : Tile), y = s.tile t → y.conv = some op → s.frozen = false →
    y.scrBad (64 * (op.base + dsSrcWord op.desc)) (y.streamSrc op) = false → op.slot / 2 ^ 56 = 0x24 →
    ∃ u : State, exec (.streamOpComplete t) s = .next u ∧ u.tile t = { y with conv := none })

/-- The slots of one bundle (R202, R203): X0 reads as zero and discards writes; a slot's result is not seen by the bundle's other slots;
a slot that does not complete its bundle marks itself and changes nothing else of the tile; and when the bundle is whole, its results are
the registers' and the next bundle is current. VLD and VST (R213, R215, R91): 1,024 bytes between scratch and a vector register; a store
writes those bytes of scratch and no others, and its histogram slot, if it names one, counts the lanes. A load that reads a poisoned word
ends the task with POISON at its bundle. Parts of it rest on choices and readings of the model (log 46). -/
def Obligations.BundlesIssueAndScratchMoves : Prop :=
  (∀ (x : Ctx) (v : Word), x.rx 0 = 0 ∧ x.putX 0 v = x ∧ x.wx 0 v = x) ∧
  (∀ (x : Ctx) (n m : Nat) (v : Word) (w : Vec), (x.putX n v).rx m = x.rx m ∧ (x.putX n v).rv m = x.rv m ∧ (x.putV n w).rv m = x.rv m) ∧
  (∀ (x : Ctx) (n m : Nat) (v : Word) (w : Vec), n ≠ 0 → x.pendX = [] → x.pendV = [] →
    (x.putX n v).merge.rx m = (if m = n then v else x.rx m) ∧ (x.putV n w).merge.rv m = (if m = n then w else x.rv m) ∧
    (x.putX n v).merge.rv m = x.rv m) ∧
  (∀ (s : State) (a : Act) (k : Nat) (x : Ctx), (x.slots ||| 2 ^ k) &&& slotMask a.b ≠ slotMask a.b →
    s.issued a k x = s.setTile a.t ((s.tile a.t).setCtx a.c { x with slots := x.slots ||| 2 ^ k })) ∧
  (∀ (s : State) (a : Act) (k : Nat) (x : Ctx), (x.slots ||| 2 ^ k) &&& slotMask a.b = slotMask a.b → x.missed = false →
    (a.c < 16 → (s.req x.req).ending = false) → bundleV a.b = false → x.phase = 3 →
    segBundles a.g ≤ x.bundle + 1 →
    ∃ u : State, s.issued a k x = u ∧ s.counts u (0x5100 + 0x10 * a.t) 2 0 ∧
      (u.tile a.t).ctx a.c = { x.merge with missed := false, lastSeq := (s.tile a.t).seq, bundle := x.bundle + 1 } ∧
      (u.tile a.t).seq = (s.tile a.t).seq + 1 ∧ u = { s with tiles := { s.tiles with tile := u.tiles.tile }, ctr := u.ctr }) ∧
  (∀ (s : State) (t : Fin 96) (a : Act) (w : Nat), s.mayIssue t 2 = some a → slotOp a.b 2 = 1 → w = a.base + lWord a.b →
    (s.tile t).scrBad (64 * w) 1024 = false →
    exec (.vld t .clean) s = .next (s.issued a 2 (a.x.putV (lVr a.b) (ofVecBytes (mread (s.tile t).scr (64 * w) 1024))))) ∧
  (∀ (s : State) (t : Fin 96) (a : Act) (w : Nat), s.mayIssue t 2 = some a → slotOp a.b 2 = 1 → w = a.base + lWord a.b →
    (s.tile t).scrBad (64 * w) 1024 = true →
    exec (.vld t .clean) s = .next
      (((s.issued a 2 (a.x.putV (lVr a.b) (ofVecBytes (mread (s.tile t).scr (64 * w) 1024)))).tileCount t 3).endTask a.x.req stPoison t
        (some (a.t, a.c, (s.tile a.t).seq)))) ∧
  (∀ (s : State) (t : Fin 96) (a : Act) (w : Nat), s.mayIssue t 2 = some a → slotOp a.b 2 = 2 → w = a.base + lWord a.b →
    ∃ y : Tile, exec (.vst t) s = .next ((s.setTile t y).issued a 2 a.x) ∧
      ofVecBytes (mread y.scr (64 * w) 1024) = a.x.rv (lVr a.b) ∧
      (∀ k, k < 64 * w ∨ 64 * w + 1024 ≤ k → mget y.scr k = mget (s.tile t).scr k) ∧
      y = { s.tile t with scr := y.scr, scrPoison := y.scrPoison,
                          hist := ((s.tile t).histAdd (lHslot a.b)
                            ((lanesOf (lLw a.b) (a.x.rv (lVr a.b))).map (decodeNum (if lLw a.b then 1 else 0)))).hist })

/-- A transfer slot (R216, R217): it takes the lowest free tag of the tile and queues with its operands, and waits while all 256 tags are
taken; an address that breaks the alignment of R217 ends the task with BAD_XFER; an LD or ST of no bytes takes no tag. Transfers on their
way (R218 to R223, R348, R352, R354, R357). A gather post reaches its engine with V and its tag group written into the command, a scan
post with its tag group, every other byte as the tile stored it. A normal load whose bytes older stores of its context cover takes them
from those; one that meets no such store is sent, its lines metered. An STC whose context holds no reservation fails without an access:
X[DR + 1] is 1, and its tag completes. An LDS, LDR or atomic answered by one line, in its turn (log 98) and without poison, delivers its
bytes to X[DR]; a store with every line performed, and a barrier whose class is performed, end; all free the tag. A memory transfer not
complete 50 us after its issue counts and ends the task with XFER_TIMEOUT, or XLATE_DRAIN where an invalidation holds it, and the tag
returns; a store on the fabric whose tag has completed does the like; before that time nothing happens. A reservation ends 4,096 ARITH
cycles after its LDR. Parts of it rest on choices and readings of the model (log 10 and 47). -/
def Obligations.TransfersRun : Prop :=
  (∀ (s : State) (t : Fin 96) (a : Act) (op tag : Nat), s.mayIssue t 3 = some a → slotOp a.b 3 = op → 1 ≤ op → op ≤ 0x17 →
    a.badAlign = false → ¬ ((op = 1 ∨ op = 2) ∧ xLen a.b = 0) → sfree (s.tile t).xfers 256 = some tag →
    ∃ x : Xfer, exec (xferInstr op t) s =
        .next ((s.setTile t { s.tile t with xfers := sput (s.tile t).xfers tag x }).issued a 3 a.x) ∧
      x.ctx = a.c ∧ x.req = a.x.req ∧ x.grp = xGrp a.b ∧ x.op = op ∧ x.len = xLen a.b ∧ x.va = (a.x.rx (xAr a.b)).toNat ∧
      x.dr = xDr a.b ∧ x.word = a.base + xWord a.b ∧ x.phase = 0 ∧ x.since = s.now ∧
      (op = 2 → x.data = mread (s.tile a.t).scr (64 * (a.base + xWord a.b)) (xLen a.b)) ∧
      (op = 4 ∨ op = 8 ∨ (9 ≤ op ∧ op ≤ 0x11) → x.data = (natLe (a.x.rx (xDr a.b)).toNat 8).take (xLen a.b)) ∧
      (op = 0x12 → x.data = (natLe (a.x.rx (xDr a.b + 1)).toNat 8).take (xLen a.b) ++ (natLe (a.x.rx (xDr a.b)).toNat 8).take (xLen a.b)) ∧
      (op = 0x13 ∨ op = 0x14 → x.data = mread (s.tile a.t).scr (64 * (a.base + xWord a.b)) 64) ∧
      (op = 6 → x.data = natLe (a.x.rx (xDr a.b)).toNat 8 ++ natLe (a.x.rx (xDr a.b + 1)).toNat 8)) ∧
  (∀ (s : State) (t : Fin 96) (a : Act) (op : Nat), s.mayIssue t 3 = some a → slotOp a.b 3 = op → 1 ≤ op → op ≤ 0x17 →
    a.badAlign = true →
    exec (xferInstr op t) s = .next ((s.issued a 3 a.x).endTask a.x.req stBadXfer t (some (a.t, a.c, (s.tile a.t).seq)))) ∧
  (∀ (s : State) (t : Fin 96) (a : Act) (op : Nat), s.mayIssue t 3 = some a → slotOp a.b 3 = op → (op = 1 ∨ op = 2) → xLen a.b = 0 →
    exec (xferInstr op t) s = .next (s.issued a 3 a.x)) ∧
  (∀ (s : State) (t : Fin 96) (a : Act) (op : Nat), s.mayIssue t 3 = some a → slotOp a.b 3 = op → 1 ≤ op → op ≤ 0x17 →
    a.badAlign = false → ¬ ((op = 1 ∨ op = 2) ∧ xLen a.b = 0) → sfree (s.tile t).xfers 256 = none →
    exec (xferInstr op t) s = .next s) ∧
  (∀ (s : State) (t : Fin 96) (tag : Nat) (x : Xfer), s.halted = false → (s.tile t).xfers = [(tag, x)] → x.phase = 0 → x.op = 0x13 →
    x.data.length = 64 → (s.tile t).tracker = [] →
    ∃ (u : State) (c : GCmd) (g : Nat), exec (.xfuTransferIssue t) s = .next u ∧ g = 4 * cabOf t + fld x.data 492 2 ∧
      (u.gpe g).posted = (s.gpe g).posted ++ [c] ∧ c.tile = t.val ∧ c.ctx = x.ctx ∧ c.xtag = tag ∧ c.req = x.req ∧ c.raw.length = 64 ∧
      leNat c.raw + 2 ^ 494 * fld x.data 494 1 + 2 ^ 252 * fld x.data 252 8 =
        leNat x.data + 2 ^ 494 * b2n x.vbit + 2 ^ 252 * ((16 * x.ctx + x.grp) % 256) ∧
      (u.tile t).xfers = [(tag, { x with phase := 2 })]) ∧
  (∀ (s : State) (t : Fin 96) (tag : Nat) (x : Xfer), s.halted = false → (s.tile t).xfers = [(tag, x)] → x.phase = 0 → x.op = 0x14 →
    x.data.length = 64 → (s.tile t).tracker = [] →
    ∃ (u : State) (c : Scan), exec (.xfuTransferIssue t) s = .next u ∧
      (u.hse (cabOf t)).posted = (s.hse (cabOf t)).posted ++ [c] ∧ c.tile = t.val ∧ c.ctx = x.ctx ∧ c.xtag = tag ∧ c.req = x.req ∧
      c.raw.length = 64 ∧ fld c.raw 416 8 = (16 * x.ctx + x.grp) % 256 ∧ (∀ k, k < 64 → k ≠ 52 → c.raw[k]? = x.data[k]?) ∧
      (u.tile t).xfers = [(tag, { x with phase := 2 })]) ∧
  (∀ (s v : State) (t : Fin 96) (tag : Nat) (x y : Xfer) (l : List (Nat × Nat × Target × TlbEnt)), s.halted = false →
    (s.tile t).xfers.filter (fun p => p.2.phase ≤ 1) = [(tag, x)] → opLoads x.op = true → s.mayLeave t x = true →
    s.xlPages t x (s.req x.req).acid = (v, .go l) → (∀ p ∈ l, (s.regionAttr p.2.2.2.attr).1 = false ∧ p.2.2.1.aspace = 2) →
    y = { x with dev := false } →
    (∀ b bad, v.forwards t y = .bytes b bad →
      exec (.xfuTransferIssue t) s = .next (v.setXfer t tag { y with phase := 2, fwd := true, data := b, poison := bad })) ∧
    (∀ w, v.forwards t y = .memory →
      v.xferSend t tag y (s.req x.req).acid (l.any (fun p => (s.regionAttr p.2.2.2.attr).2)) l = some w →
      exec (.xfuTransferIssue t) s = .next w)) ∧
  (∀ (s : State) (t : Fin 96) (tag : Nat) (x : Xfer), s.halted = false → (s.tile t).xfers = [(tag, x)] → x.phase = 0 → x.op = 8 →
    ((s.tile t).ctx x.ctx).resv = none → (s.tile t).active = none → ((s.tile t).ctx x.ctx).phase = 4 →
    ∃ u : State, exec (.xfuTransferIssue t) s = .next u ∧ ((u.tile t).ctx x.ctx).rx (x.dr + 1) = 1 ∧ sfind (u.tile t).xfers tag = none ∧
      s.counts u 0x40F1 1 1) ∧
  (∀ (s : State) (t : Fin 96) (tag : Nat) (x : Xfer) (id : Nat) (m : MemRsp), s.halted = false → (s.tile t).tracker = [] →
    sfind (s.tile t).xfers tag = some x → x.phase = 2 → (x.op = 3 ∨ x.op = 7 ∨ opAtomics x.op = true) → x.fwd = false → x.poison = [] →
    x.lines = [(id, 0, x.len)] → sfind s.rsps id = some m → m.performed = true → m.err = .none → m.poison = false →
    m.data.length = x.len → x.len ≤ 8 → s.inTurn (cabOf t) (s.xferTurn x) = true → s.taking t x = true → (s.tile t).active = none →
    ∃ u : State, exec (.xferComplete t tag) s = .next u ∧ sfind (u.tile t).xfers tag = none ∧
      ((u.tile t).ctx x.ctx).rx x.dr = if x.dr = 0 then 0 else BitVec.ofNat 64 (leNat m.data)) ∧
  (∀ (s : State) (t : Fin 96) (tag : Nat) (x : Xfer), s.halted = false → (s.tile t).tracker = [] → sfind (s.tile t).xfers tag = some x →
    x.phase = 2 → opStores x.op = true → (∀ l ∈ x.lines, (sget {} s.rsps l.1).performed = true ∧ (sget {} s.rsps l.1).err = .none) →
    ∃ u : State, exec (.xferComplete t tag) s = .next u ∧ sfind (u.tile t).xfers tag = none ∧
      ∀ l ∈ x.lines, sfind u.rsps l.1 = none) ∧
  (∀ (s : State) (t : Fin 96) (tag : Nat) (x : Xfer), s.halted = false → (s.tile t).tracker = [] → sfind (s.tile t).xfers tag = some x →
    (x.op = 0x15 ∨ x.op = 0x16 ∨ x.op = 0x17) → (s.prune t).barDone t x = true →
    ∃ u : State, exec (.xferComplete t tag) s = .next u ∧ sfind (u.tile t).xfers tag = none) ∧
  (∀ (s v : State) (t : Fin 96) (tag : Nat) (x : Xfer) (held : Bool), s.frozen = false → tag < 256 → sfind (s.tile t).xfers tag = some x →
    opMem x.op = true → 50000 ≤ since s.now x.since → held = s.heldByInv (.tile t tag) →
    v = (s.tileCount t 4).endTask x.req (if held then stXlateDrain else stXferTimeout) t (x.pos t) →
    ∃ u : State, exec (.xferTimeout t tag) s = .next u ∧ sfind (u.tile t).xfers tag = none ∧
      u = (((if held then v.mtuCount 7 else v).settle (.tile t tag) true).freeTag t tag).discardReqs (x.lines.map (fun p => p.1))) ∧
  (∀ (s v w : State) (t : Fin 96) (id : Nat) (k : Tracked) (held : Bool), s.frozen = false →
    (s.tile t).tracker.find? (fun x => x.id = id) = some k → 50000 ≤ since s.now k.since → s.unperformed id = true →
    s.onFabric id = true → held = s.heldByInv (.store t id) →
    v = (s.tileCount t 4).endTask k.req (if held then stXlateDrain else stXferTimeout) t →
    w = v.setTile t { v.tile t with tracker := (v.tile t).tracker.filter (fun x => x.id ≠ id) } →
    exec (.xferTimeout t (256 + id)) s =
      .next (((if held then w.mtuCount 7 else w).settle (.store t id) true).discardReqs [id])) ∧
  (∀ (s : State) (t : Fin 96) (tag : Nat) (x : Xfer), tag < 256 → sfind (s.tile t).xfers tag = some x → since s.now x.since < 50000 →
    exec (.xferTimeout t tag) s = .next s) ∧
  (∀ (s : State) (t : Fin 96) (c : Fin 17), ((s.tile t).ctx c).resv ≠ none →
    4096 * 1000000000 ≤ s.arithTicks - ((s.tile t).ctx c).resvAt →
    ∃ u : State, exec (.reservationTimeout t c) s = .next u ∧ ((u.tile t).ctx c).resv = none ∧ s.counts u 0x40F1 1 4 ∧
      (∀ r ∈ u.coh.resv, r.agent ≠ .tile t c))

/-- Wait points, the end of a segment, and the contexts of a tile (R225 to R229, R245 to R247, R495). With no operation of the context in
the MXU or the converter, WAIT hits where no transfer of the named groups is outstanding, and misses else, and END ends the lane's
segment and leaves the tile free; with FINAL the context is FINAL. With such an operation neither happens. CONTEXT_PICK makes the ready
context that comes first the active one, begins its segment, and counts; it does nothing while a context is active. A context of a task
that has ended, with nothing of it outstanding, is released. A pending trap starts the trap segment at a bundle boundary, and counts.
Parts of it rest on choices and readings of the model (log 10 and 49). -/
def Obligations.ContextsRun : Prop :=
  (∀ (s : State) (t : Fin 96) (a : Act), s.mayIssue t 4 = some a → slotOp a.b 4 = 0x10 →
    (∀ o ∈ (s.tile t).mxu.toList ++ (s.tile t).conv.toList, o.ctx ≠ a.c) →
    exec (.waitGrp t) s = .next (s.issued a 4 { a.x with
      waits := (s.tile t).openTags a.c (cImm a.b % 65536), ns := (cImm a.b).testBit 16,
      missed := !((s.tile t).openTags a.c (cImm a.b % 65536)).isEmpty })) ∧
  (∀ (s : State) (t : Fin 96) (a : Act) (o : UnitOp), s.mayIssue t 4 = some a →
    ((s.tile t).mxu = some o ∨ (s.tile t).conv = some o) → o.ctx = a.c →
    exec (.waitGrp t) s = .next s ∧ exec (.endSeg t) s = .next s) ∧
  (∀ (s : State) (t : Fin 96) (a : Act) (u : State), s.mayIssue t 4 = some a → slotOp a.b 4 = 0x11 →
    (∀ o ∈ (s.tile t).mxu.toList ++ (s.tile t).conv.toList, o.ctx ≠ a.c) → a.c < 16 → u = s.issued a 4 a.x → (u.req a.x.req).ending = false →
    ∃ v : State, exec (.endSeg t) s = .next v ∧ v = u.endLane a (cImm a.b) (some (a.t, a.c, (s.tile a.t).seq)) ∧
      (v.tile t).active = none ∧
      (cImm a.b % 2 = 1 → ((v.tile t).ctx a.c).phase = 5 ∧ (v.req a.x.req).finals = (u.req a.x.req).finals ||| 2 ^ (t.val % 8))) ∧
  (∀ (s : State) (t : Fin 96) (c : Nat) (x : Ctx) (g : Bytes), s.frozen = false → (s.tile t).active = none → (s.tile t).trap.phase = 0 →
    (s.tile t).resetting = false → s.pickOf t = some (c, x) → s.ctxSeg t x = some g → x.bundle < segBundles g →
    slotMask (segBundle g x.bundle) ≠ 0 →
    ∃ u : State, exec (.contextPick t .clean) s = .next u ∧ (u.tile t).active = some c ∧
      (u.tile t).ctx c = { x with phase := 3, started := true, gated := if x.started then x.gated else false } ∧
      s.counts u (0x5100 + 0x10 * t.val) 2 1 ∧ s.counts u 0x5003 (cabOf t) 2) ∧
  (∀ (s : State) (t : Fin 96), (s.tile t).active ≠ none → exec (.contextPick t .clean) s = .next s) ∧
  (∀ (s : State) (t : Fin 96) (c : Fin 17), s.frozen = false → c.val < 16 → ((s.tile t).ctx c).phase = 5 →
    (s.req ((s.tile t).ctx c).req).ending = true → (s.tile t).xfers = [] → (s.tile t).tracker = [] → (s.tile t).mxu = none →
    (s.tile t).conv = none → (s.tile t).active ≠ some c.val → (s.tile t).trap.stopped ≠ some c.val →
    ∃ u : State, exec (.contextRelease t c) s = .next u ∧ (u.tile t).ctx c = {} ∧
      ∀ d, d ≠ c.val → (u.tile t).ctx d = (s.tile t).ctx d) ∧
  (∀ (s : State) (t : Fin 96) (p f r : Nat), s.frozen = false → (s.tile t).trap.phase = 1 → (s.tile t).resetting = false →
    (∀ c, (s.tile t).active = some c → ((s.tile t).ctx c).slots = 0) → (s.tile t).mxu = none → (s.tile t).conv = none →
    s.trapHome t = some (p, f, r) →
    ∃ u : State, exec (.trapStart t) s = .next u ∧ (u.tile t).active = some 16 ∧ (u.tile t).trap.phase = 2 ∧ (u.tile t).trap.stopped = (s.tile t).active ∧
      ((u.tile t).ctx 16).seg = imgTrapSeg (s.prog p).image ∧ s.counts u (0x5100 + 0x10 * t.val) 2 5)

/-! ### Chapter 8: programs, cabinets, locked runs and swaps -/

/-- Programs (R236 to R243, R259). PROG_LOAD marks the slot loading and runs. PROG_LOAD_DONE, where the image reads whole, every check of
the load checker passes and the program store takes it, leaves the slot LOADED with the image and the command done; where a check refuses
the image, the slot is empty, the command failed and LOAD_RESULT says why. PROG_UNLOAD empties the slot, and takes its frames off the
cabinets and its bundles out of the tiles. Parts of it rest on choices and readings of the model (log 16). -/
def Obligations.ProgramsLoad : Prop :=
  Executes .progLoad .progLoad State.cmdStart (fun s q w =>
    w = { s with sched := { s.sched with progs := w.sched.progs } } ∧ (∀ n, n ≠ le q.data 0 1 → w.prog n = s.prog n) ∧
    w.prog (le q.data 0 1) = { state := 1, acid := le q.data 4 2, addr := le q.data 8 8, len := le q.data 16 4 }) ∧
  (∀ (s u v : State) (n : Nat) (p : ProgSlot) (im : ImageRead), s.frozen = false → s.cmdRunning 0x5000 0 = true →
    s.sched.progs.find? (fun p => p.2.state = 1) = some (n, p) → s.prog n = p → (s.asJob (.load n)).readImage p.acid p.addr p.len = (u, im) →
    im.err = .none → im.poison = [] → firstRefuse (imageRefuses im.bytes) = none → u.sizeRefuses n im.bytes = [] →
    u.storeImage ((u.storeFit im.bytes.length).getD 0) im.bytes = (v, .none) → v.coh.need = [] →
    ∃ t : State, exec .progLoadDone s = .next t ∧
      t.prog n = { p with state := 2, image := im.bytes, store := (u.storeFit im.bytes.length).getD 0 } ∧
      t.cmd 0x5000 0 = { state := 2 } ∧ t.sched.result = loadResult n v.now {}) ∧
  (∀ (s u : State) (n : Nat) (p : ProgSlot) (im : ImageRead) (r : Refuse), s.frozen = false →
    s.cmdRunning 0x5000 0 = true → s.sched.progs.find? (fun p => p.2.state = 1) = some (n, p) → s.prog n = p →
    (s.asJob (.load n)).readImage p.acid p.addr p.len = (u, im) → im.err = .none → im.poison = [] → firstRefuse (imageRefuses im.bytes) = some r →
    u.coh.need = [] →
    ∃ t : State, exec .progLoadDone s = .next t ∧ (t.prog n).state = 0 ∧ (t.cmd 0x5000 0).state = 3 ∧
      t.sched.result = loadResult n u.now r) ∧
  Executes .progUnload .progUnload State.cmdDone (fun s q w =>
    w = { s with sched := { s.sched with progs := w.sched.progs, cabs := w.sched.cabs }, tiles := { s.tiles with bundles := w.tiles.bundles } } ∧
    w.prog (le q.data 0 1) = {} ∧
    (∀ n, n ≠ le q.data 0 1 → w.prog n = s.prog n) ∧
    (∀ c ∈ w.sched.cabs, ∀ f ∈ c.2.frames, f.2.prog ≠ le q.data 0 1))

/-- A locked run (R255, R256). LOCK_RUN locks the cabinet and waits; once the cabinet has drained, with its inputs read, the binding of
its program begins the run as a request of its own, with its snapshot, from no timing choice on; LOCK_RUN_END, with the request ended OK
and the output written, leaves LOCK_RESULT with the signature of the output and the run's timing choices, and the cabinet free again. A
spare-tile swap (R231 to R233). TILE_SWAP drains the tile's cabinet; the spare's check, where it passes, waits for the cabinet, and where
it fails, marks the spare and fails the swap; SWAP_REMAP, once the cabinet has drained and the spare's bundle memory is filled, names the
spare as the logical tile's physical tile, with its scratch empty, marks a spare that it replaces, and the cabinet drains no longer;
until the cabinet has drained nothing happens. Parts of it rest on choices and readings of the model (log 10 and 50). -/
def Obligations.LockedRunsAndSwaps : Prop :=
  Executes .lockRun .lockRun State.cmdStart (fun s q w =>
    let k := le q.data 1 1
    w.sched.lock = { phase := 1, state := 1, prog := le q.data 0 1, cab := k, acid := le q.data 4 2, input := le q.data 8 8,
                     output := le q.data 16 8 } ∧
    w.cab k = { s.cab k with locked := true } ∧ (∀ n, n ≠ k → w.cab n = s.cab n) ∧
    w = { s with sched := { s.sched with lock := w.sched.lock, cabs := w.sched.cabs }, pcs := { s.pcs with idleSince := w.pcs.idleSince } }) ∧
  (∀ (s u : State) (l : LockRun) (k : Fin 12) (p : Fin 64) (cn : Nat) (f : FrameSt), l = s.sched.lock → s.frozen = false →
    sget 0 s.pcs.cabLevel k = 0 → l.phase = 1 → l.cab = k.val → l.prog = p.val → s.cabDrained k = true →
    s.freeFrame k p = some (cn, f) → (s.asJob .lock).lockInputs f = (u, true) → u.sched.lock = l → u.coh.need = [] →
    ∃ t : State, exec (.requestBind k p) s = .next t ∧ t.sched.lock.phase = 2 ∧ t.sched.lock.req = u.sqe.nextReq ∧
      t.sched.lock.choices = 0 ∧ ((t.req u.sqe.nextReq).causes = [] → (t.req u.sqe.nextReq).phase = 3) ∧
      (t.req u.sqe.nextReq).locked = true ∧ (t.req u.sqe.nextReq).lanes = f.mask ∧
      (t.req u.sqe.nextReq).snapshot = u.epm.gen ∧ (t.req u.sqe.nextReq).acid = l.acid) ∧
  (∀ (s u : State) (l : LockRun) (b : Bytes), l = s.sched.lock → s.frozen = false → l.phase = 2 → (s.req l.req).phase = 5 →
    l.failed = false → (s.req l.req).status = stOk → b = s.lockOutput → ((s.asJob .lock).endReq l.req).vwrite .loader .ctl l.acid l.output b = (u, .none) →
    u.sched.lock = l → u.coh.need = [] →
    ∃ t : State, exec .lockRunEnd s = .next t ∧ t.sched.lock.state = 2 ∧ t.sched.lock.sig = crc32c b ∧ t.sched.lock.phase = 0 ∧ t.sched.lock.choices = l.choices ∧
      t.sched.lock.endAt = u.now ∧ (t.cab l.cab).locked = false ∧ t.cmd 0x5A00 0 = { state := 2 }) ∧
  Executes .tileSwap .tileSwap State.cmdStart (fun s q w =>
    let t := le q.data 0 1
    w.tiles = { s.tiles with swap := { running := true, tile := t, spare := le q.data 1 1, old := s.physOf t } } ∧
    w.cab (t / 8) = { s.cab (t / 8) with draining := true } ∧ (∀ n, n ≠ t / 8 → w.cab n = s.cab n) ∧
    w = { s with tiles := w.tiles, sched := { s.sched with cabs := w.sched.cabs }, pcs := { s.pcs with idleSince := w.pcs.idleSince } }) ∧
  (∀ (s : State), s.frozen = false → s.tiles.swap.running = true → s.tiles.swap.checked = false →
    exec (.spareCheckEnd true) s = .next { s with tiles := { s.tiles with swap := { s.tiles.swap with checked := true } } }) ∧
  (∀ (s : State) (w : SwapSt), w = s.tiles.swap → s.frozen = false → w.running = true → w.checked = false →
    ∃ t : State, exec (.spareCheckEnd false) s = .next t ∧ t.spareOf (w.spare - 96) = 0xFF02 ∧ t.tiles.swap.running = false ∧
      t.tiles.swap.state = 5 ∧ t.tiles.swap.cause = 1 ∧ (t.cab (cabOf w.tile)).draining = false ∧ (t.cmd 0x5700 0).state = 3 ∧
      t.tiles.phys = s.tiles.phys) ∧
  (∀ (s u : State) (w : SwapSt), w = s.tiles.swap → s.frozen = false → w.running = true → w.checked = true →
    s.cabDrained (cabOf w.tile) = true → u = (s.asJob .swap).swapFill → u.coh.need = [] → (96 ≤ w.old → w.old - 96 ≠ w.spare - 96) →
    ∃ t : State, exec .swapRemap s = .next t ∧ t.physOf w.tile = w.spare ∧ (∀ n, n ≠ w.tile → t.physOf n = s.physOf n) ∧
      (t.tile w.tile).scr = [] ∧ t.tiles.bundles = u.tiles.bundles ∧
      t.spareOf (w.spare - 96) = 1 + 256 * w.tile ∧ (96 ≤ w.old → t.spareOf (w.old - 96) = 0xFF02) ∧ t.tiles.swap.state = 4 ∧ t.tiles.swap.running = false ∧
      (t.cab (cabOf w.tile)).draining = false ∧ t.cmd 0x5700 0 = { state := 2 }) ∧
  (∀ (s : State), s.tiles.swap.running = true → s.cabDrained (cabOf s.tiles.swap.tile) = false → exec .swapRemap s = .next s)

/-! ### Chapter 9: queues, classes and requests -/

/-- R262, while no write of the staging aperture holds the port's BAR 0: a good tail doorbell makes the descriptors up to the index
before the tail eligible, and a good head doorbell releases entries up to the index before the head; one of bad form, or a head that
passes the completion index, changes nothing of the queue and counts in BAD_DOORBELLS. The descriptor reads of a queue (R264 to R267). A
fetch reads the next eligible position, and counts. A read that is to be ignored goes. A descriptor that comes back with the tag of its
stream position, unpoisoned, ends any schedule and is ready to be policed; one with a reserved bit set completes MALFORMED, and counts. A
wrong tag, poison or an error starts the schedule of re-reads at f, with every later read to be ignored, or is one more failure of it; a
re-read that is due reads the position again; the schedule's end stalls the queue, counts in STALLS and is recorded. QUEUE_RESUME reads
the descriptor afresh, or else lets the next entry be written. Parts of it rest on choices and readings of the model (log 52). -/
def Obligations.QueuesFetchDescriptors : Prop :=
  (∀ (s : State) (p : Fin 2) (n : Fin 128) (v : BitVec 32) (q : Nat) (x : Queue), q = 128 * p.val + n.val → x = s.queue q →
    s.barHeld p = false → s.bellOk q 32 v.toNat = true →
    ∃ t : State, ∃ last : Nat, exec (.sqTailDoorbell p n 32 v) s = .next t ∧ x.pos ≤ last ∧ last < x.pos + s.sqSize q ∧
      last % s.sqSize q = v.toNat ∧ t.queue q = { x with tail := v.toNat, avail := max x.avail last } ∧
      (∀ j, j ≠ q → t.queue j = s.queue j) ∧ t = { s with sqe := { s.sqe with queues := t.sqe.queues }, pcs := t.pcs, ctr := t.ctr }) ∧
  (∀ (s : State) (p : Fin 2) (n : Fin 128) (v : BitVec 32) (w q : Nat), q = 128 * p.val + n.val → s.barHeld p = false → s.bellOk q w v.toNat = false →
    ∃ t : State, exec (.sqTailDoorbell p n w v) s = .next t ∧ s.wakeUp.counts t 0x2803 q 2 ∧ t = { s with pcs := t.pcs, ctr := t.ctr } ∧
      exec (.cqHeadDoorbell p n w v) s = .next t) ∧
  (∀ (s : State) (p : Fin 2) (n : Fin 128) (v : BitVec 32) (q head : Nat) (x : Queue), q = 128 * p.val + n.val → x = s.queue q →
    s.barHeld p = false → s.bellOk q 32 v.toNat = true → x.cqHead ≤ head → head < x.cqHead + s.sqSize q → head % s.sqSize q = v.toNat →
    ∃ t : State, exec (.cqHeadDoorbell p n 32 v) s = .next t ∧ (∀ j, j ≠ q → t.queue j = s.queue j) ∧
      t.queue q = (if head ≤ x.cqPos then { x with cqHead := head } else x) ∧
      (x.cqPos < head → s.wakeUp.counts t 0x2803 q 2) ∧ (head ≤ x.cqPos → t.ctr = s.wakeUp.ctr) ∧
      t = { s with sqe := { s.sqe with queues := t.sqe.queues }, pcs := t.pcs, ctr := t.ctr }) ∧
  (∀ (s : State) (q : Fin 256) (x : Queue), x = s.queue q → s.frozen = false → s.fetchHeld (q.val / 128) = false → x.enabled = true →
    x.stalled = false → x.retry = none → x.fetchPos < x.avail → x.reads.length < 8 → s.readsInFlight < 512 →
    x.fetchPos + 1 - x.cqHead < s.sqSize q →
    ∃ (t : State) (n : Nat), exec (.descriptorFetch q) s = .next t ∧
      t.queue q = { x with reads := x.reads ++ [{ pos := x.fetchPos, num := n }], fetchPos := x.fetchPos + 1 } ∧
      s.counts t 0x2803 q 0 ∧ (∀ j, j ≠ q.val → t.queue j = s.queue j)) ∧
  (∀ (s : State) (q : Fin 256) (r : DescRead) (rest : List DescRead), s.frozen = false → (s.queue q).reads = r :: rest → r.stale = true →
    exec (.descriptorReadReturn q) s = .next ((s.setQueue q { s.queue q with reads := rest }).endJob (.desc r.num))) ∧
  (∀ (s u : State) (q : Fin 256) (r : DescRead) (rest : List DescRead) (b : Bytes) (x : Queue), s.frozen = false →
    (s.queue q).reads = r :: rest → r.stale = false → x = u.queue q →
    (s.asJob (.desc r.num)).vread (.sqe q) .ctl (s.sqAcid q) (s.sqBase q + 64 * (r.pos % s.sqSize q)) 64 = (u, b, false, .none) →
    u.coh.need = [] → u.descTagOk q r.pos b = true →
    ∃ t : State, exec (.descriptorReadReturn q) s = .next t ∧
      (fld b 448 55 = 0 →
        t.queue q = { x with reads := if x.retry.isSome then rest.map (fun r => { r with stale := true }) else rest, retry := none,
                             fetchPos := max x.fetchPos (r.pos + 1), ready := x.ready ++ [b] } ∧
        t = State.endJob { u with sqe := { u.sqe with queues := t.sqe.queues } } (.desc r.num)) ∧
      (fld b 448 55 ≠ 0 → u.counts t 0x2803 q 1 ∧
        t.req u.sqe.nextReq = { q := q.val, pos := r.pos, desc := b, cls := u.sqClass q, phase := 4, status := stMalformed } ∧
        (t.queue q).order = x.order ++ [u.sqe.nextReq] ∧ (t.queue q).retry = none)) ∧
  (∀ (s u v : State) (q : Fin 256) (r : DescRead) (rest : List DescRead) (b : Bytes) (poison : Bool) (e : VErr) (ty l a : Nat), s.frozen = false →
    (s.queue q).reads = r :: rest → r.stale = false →
    (s.asJob (.desc r.num)).vread (.sqe q) .ctl (s.sqAcid q) (s.sqBase q + 64 * (r.pos % s.sqSize q)) 64 = (u, b, poison, e) →
    (e = .none ∧ (poison = true ∨ u.descTagOk q r.pos b = false) ∧ v = u ∨ e = .hostLost ∧ v = u ∨
      e = .fault ty l a ∧ v = u.engineFault (u.sqAcid q) ty l a .read 5 0) → v.coh.need = [] →
    exec (.descriptorReadReturn q) s = .next (State.endJob (match (v.queue q).retry with
      | none => v.setQueue q { v.queue q with reads := rest.map (fun r => { r with stale := true }), fetchPos := r.pos,
                                              retry := some { f := v.now } }
      | some z => v.setQueue q { v.queue q with reads := rest, retry := some { z with returned := z.returned + 1 } }) (.desc r.num))) ∧
  (∀ (s : State) (q : Fin 256) (x : Queue) (r : Retry), x = s.queue q → x.retry = some r → s.frozen = false →
    s.fetchHeld (q.val / 128) = false → x.stalled = false → r.issued < 6 → 1000 * (2 ^ (r.issued + 1) - 1) ≤ since s.now r.f →
    ∃ (t : State) (n : Nat), exec (.descriptorReread q) s = .next t ∧ (∀ j, j ≠ q.val → t.queue j = s.queue j) ∧
      t.queue q = { x with reads := x.reads ++ [{ pos := x.fetchPos, num := n }], retry := some { r with issued := r.issued + 1 } }) ∧
  (∀ (s : State) (q : Fin 256) (x : Queue) (r : Retry), x = s.queue q → (x.retry = some r ∨ x.cqRetry = some r) → s.frozen = false →
    x.stalled = false → 6 ≤ r.returned → 64000 ≤ since s.now r.f →
    ∃ t : State, exec (.queueStall q) s = .next t ∧ t.queue q = { x with stalled := true } ∧ (∀ j, j ≠ q.val → t.queue j = s.queue j) ∧
      s.counts t 0x2803 q 3 ∧ (t.faultInst uSqe 0).status.getLsbD 0 = true) ∧
  Executes .queueResume .queueResume State.cmdDone (fun s q w =>
    let n := le q.data 0 1
    let x := s.queue n
    (x.retry ≠ none → (∀ j, j ≠ n → w.queue j = s.queue j) ∧ ∃ k, w.queue n = { x with
      stalled := false, retry := none, cqRetry := none, fetchPos := x.fetchPos + 1,
      reads := x.reads ++ [{ pos := x.fetchPos, num := k }] }) ∧
    (x.retry = none → w = (s.setQueue n { x with stalled := false, retry := none, cqRetry := none }).direct (.entry n)
      (fun s => s.writeEntry n)))

/-- Policing (R24, R275, R276): the head descriptor of the queue whose turn it is takes a token of its class and is admitted, with the
snapshot of the generation and the class's DEADLINE, onto the next serving cabinet, which is awake; where the bucket holds no token it is
SHED, whatever the cabinets do. A queue whose turn it is not stays. An uncorrectable error in the storage of SQE is recorded as SQE_UE. A
request's frame and record (R246, R247, R272). The oldest queued request of a program takes its lowest free frame, every lane's context
takes it at its ENTRY segment, and its record is written: the first 56 bytes of the descriptor, zero beyond. With the record written, the
lanes run: a lane whose first segment's GATE is met is ready, and the others wait; where no lane's is met the task ends with BAD_SEGMENT.
Parts of it rest on choices and readings of the model (log 52). -/
def Obligations.RequestsAdmitAndBind : Prop :=
  (∀ (s : State) (q : Fin 256) (b : Bytes) (rest : List Bytes) (c k : Nat) (r : Nat), s.frozen = false → s.policeTurn = some q.val →
    (s.queue q).ready = b :: rest → c = s.sqClass q → s.nextCab c = some k → sget 0 s.pcs.cabLevel k = 0 → s.hasToken c = true →
    r = s.sqe.nextReq →
    ∃ t : State, exec (.requestPolice q .clean) s = .next t ∧
      t.req r = { q := q.val, pos := (s.queue q).pos, desc := b, cls := c, prog := s.clsProg c, cab := k, acid := s.clsAcid c,
                  prio := s.clsPriority c, admitted := true, admitAt := s.now, deadline := s.clsDeadline c, order := r, snapshot := s.epm.gen, phase := 1,
                  counted := true, recVa := fld (s.rd 0x7801 c) 448 64 } ∧
      (t.cls c).z = s.bucket c - 1000000000 ∧ (t.cls c).rr = (k + 1) % 12 ∧ t.sqe.nextReq = r + 1 ∧ t.sqe.polRound = (q.val + 1) % 256 ∧
      (t.cab k).dispatch = (s.cab k).dispatch ++ [r] ∧ (t.queue q).order = (s.queue q).order ++ [r] ∧
      sget 0 t.epm.readers (s.epm.gen % 16) = sget 0 s.epm.readers (s.epm.gen % 16) + 1 ∧ s.counts t 0x7802 c 0 ∧
      t = { s with sqe := t.sqe, sched := t.sched, epm := { s.epm with readers := t.epm.readers }, pcs := t.pcs, ctr := t.ctr }) ∧
  (∀ (s : State) (q : Fin 256) (b : Bytes) (rest : List Bytes) (c : Nat), s.frozen = false → s.policeTurn = some q.val →
    (s.queue q).ready = b :: rest → c = s.sqClass q → s.hasToken c = false →
    ∃ t : State, exec (.requestPolice q .clean) s = .next t ∧
      t.req s.sqe.nextReq = { q := q.val, pos := (s.queue q).pos, desc := b, cls := c, phase := 4, status := stShed } ∧
      (t.cls c).z = (s.cls c).z ∧ s.counts t 0x7802 c 1 ∧
      t = { s with sqe := t.sqe, ctr := t.ctr }) ∧
  (∀ (s : State) (q : Fin 256), s.frozen = false → s.policeTurn ≠ some q.val → exec (.requestPolice q .clean) s = .next s) ∧
  (∀ (s : State) (q : Fin 256), s.frozen = false →
    ∃ t : State, exec (.requestPolice q .uncorrectable) s = .next t ∧ (t.faultInst uSqe 0).status.getLsbD 2 = true) ∧
  (∀ (s : State) (k : Fin 12) (p : Fin 64) (r cn : Nat) (f : FrameSt) (w : State), s.frozen = false → sget 0 s.pcs.cabLevel k = 0 →
    s.sched.lock.phase ≠ 1 → (s.cab k).dispatch.find? (fun r => (s.req r).prog = p.val && !(s.req r).ending) = some r →
    s.freeFrame k p = some (cn, f) → (s.req r).cab = k.val → w = ((s.asJob (.bind k)).bindTo r cn f).cabCount k 0 →
    (w.writeRecord r (w.req r).recVa).coh.need = [] →
    exec (.requestBind k p) s = .next ((w.writeRecord r (w.req r).recVa).endJob (.bind k)) ∧
    w.req r = { s.req r with phase := 2, ctx := cn, lanes := f.mask, recVa := (s.req r).recVa + 64 * (16 * k.val + f.idx) } ∧
    (w.cab k).dispatch = (s.cab k).dispatch.filter (fun x => x ≠ r) ∧ sfind (w.cab k).frames cn = some { f with req := some r } ∧
    (∀ n, n < 8 → (w.tile (8 * k.val + n)).ctx cn = if f.mask.testBit n then
      { phase := 1, req := r, seg := imgEntry (s.prog (s.req r).prog).image n, prog := (s.req r).prog, frame := cn }
      else (s.tile (8 * k.val + n)).ctx cn)) ∧
  (∀ (w u v : State) (r va a : Nat) (pg : TlbEnt), w.xlateNow .ctl (w.req r).acid va true = (u, .go (.dev a) pg) →
    u.devWrite (.sqe (w.req r).q) (w.req r).acid a ((w.req r).desc.take 56 ++ zeros 8) false = (v, .none) → w.writeRecord r va = v) ∧
  (∀ (s : State) (r m : Nat) (q : Request) (gate : Nat → Nat), q = s.req r → s.frozen = false → q.phase = 2 → q.ending = false →
    gate = (fun n => ((segFind (s.prog q.prog).image ((s.tile (8 * q.cab + n)).ctx q.ctx).seg).map segGate).getD 0) →
    m < 8 → q.lanes.testBit m = true → ((s.tile (8 * q.cab + m)).ctx q.ctx).req = r → gate m ≤ sget 0 q.releases m →
    ∃ t : State, exec (.requestRecordAck r) s = .next t ∧ (t.req r).phase = 3 ∧
      (∀ n, n < 8 → q.lanes.testBit n = true → ((s.tile (8 * q.cab + n)).ctx q.ctx).req = r →
        ((t.tile (8 * q.cab + n)).ctx q.ctx).phase = if gate n ≤ sget 0 q.releases n then 2 else 1) ∧
      t = { s with sqe := { s.sqe with reqs := t.sqe.reqs }, tiles := { s.tiles with tile := t.tiles.tile } }) ∧
  (∀ (s : State) (r m : Nat) (q : Request) (gate : Nat → Nat), q = s.req r → sfind s.sqe.reqs r = some q → s.frozen = false →
    q.phase = 2 → q.causes = [] → gate = (fun n => ((segFind (s.prog q.prog).image ((s.tile (8 * q.cab + n)).ctx q.ctx).seg).map segGate).getD 0) →
    m < 8 → q.lanes.testBit m = true →
    (∀ n, n < 8 → q.lanes.testBit n = true → ((s.tile (8 * q.cab + n)).ctx q.ctx).req = r ∧ sget 0 q.releases n < gate n) →
    ∃ t : State, exec (.requestRecordAck r) s = .next t ∧ (t.req r).causes.map (fun c => c.status) = [stBadSegment])

/-- A task's end and its completion (R249, R268, R377). A task whose lanes are all FINAL, with nothing outstanding, ends OK, and its
frame is free at once; one that ends early, with no context or transfer left and every cause decided, takes its first cause's status. The
entry of the request that comes next in ring order is written at the completion index, on the schedule of failed reads once a write has
failed; one written to a shelf of the device is there. Once the write is acknowledged the queue's vector is raised where it is enabled;
one that was refused is recorded and is to be written again. A request that has ended leaves: the reader counter of its snapshot and the
pins of its drawer drop. A completion entry (Table 9.3): each field reads back what it was made of. Parts of it rest on choices and
readings of the model (log 53). -/
def Obligations.CompletionsAreWritten : Prop :=
  (∀ (s : State) (r : Nat) (q : Request), q = s.req r → s.frozen = false → q.phase = 3 → q.causes = [] → q.finals = q.lanes →
    s.taskBusy r = false → q.discard = false → q.locked = false →
    ∃ t : State, exec (.taskComplete r) s = .next t ∧ t.req r = { q with phase := 4, status := stOk } ∧
      (∀ f ∈ (t.cab q.cab).frames, f.2.req ≠ some r) ∧ s.counts t 0x5003 q.cab 5 ∧
      t = { s with sqe := { s.sqe with reqs := t.sqe.reqs }, sched := { s.sched with cabs := t.sched.cabs },
                   tiles := { s.tiles with tile := t.tiles.tile }, pcs := { s.pcs with idleSince := t.pcs.idleSince }, ctr := t.ctr }) ∧
  (∀ (s : State) (r : Nat) (q : Request) (c : Cause), q = s.req r → s.frozen = false → q.live = true → firstCause q.causes = some c →
    s.holdsCtx r = false → s.taskBusy r = false → (∀ x ∈ q.causes, x.open_ = false) → q.discard = false → q.locked = false →
    ∃ t : State, exec (.taskComplete r) s = .next t ∧ t.req r = { q with phase := 4, status := c.status }) ∧
  (∀ (s u v : State) (q : Fin 256) (c : Instr) (r va dt : Nat) (x : Queue) (y : Request) (b : Bytes) (late : Bool) (ids : List Nat),
    x = s.queue q → s.frozen = false → s.fetchHeld (q.val / 128) = false → x.redo = none →
    (c = .completionWrite q ∧ x.enabled = true ∧ x.cqRetry = none ∧ v = s.asJob (.entry q) ∨
      c = .completionWriteRetry q ∧ x.cqRetry.any s.retryDue = true ∧
        v = (s.asJob (.entry q)).setQueue q { x with cqRetry := x.cqRetry.map (fun z => { z with issued := z.issued + 1 }) }) →
    s.nextEntry q = some r → y = s.req r → dt = (if y.admitted then since s.now y.admitAt else 0) →
    late = (y.admitted && decide (1000 * y.deadline < dt)) → va = s.cqBase q + 16 * (x.cqPos % s.sqSize q) →
    b = cqEntry (le y.desc 0 8) (dt / 1000) y.status ((y.pos + 1) % s.sqSize q) late y.vary (x.cqPos / s.sqSize q % 2 = 0) →
    v.issueEntry q va (le y.desc 0 8) b = (u, some ids) → u.coh.need = [] →
    ∃ (t : State) (w : CqWrite), exec c s = .next t ∧ w = { va := va, bytes := b, ids := ids, again := x.cqRetry.isSome } ∧
      t.queue q = { u.queue q with order := (u.queue q).order.filter (fun y => y ≠ r), cqPos := (u.queue q).cqPos + 1, redo := none,
                                   acks := if x.cqRetry.isSome then w :: (u.queue q).acks else (u.queue q).acks ++ [w] } ∧
      (y.admitted = true → t.req r = { u.req r with phase := 5, late := late }) ∧ (y.admitted = false → sfind t.sqe.reqs r = none)) ∧
  (∀ (s u v : State) (q : Fin 256) (x : Queue) (z : Retry) (w : CqWrite) (ids : List Nat), x = s.queue q → s.frozen = false →
    s.fetchHeld (q.val / 128) = false → x.redo = some w → x.cqRetry = some z → s.retryDue z = true →
    v = (s.asJob (.entry q)).setQueue q { x with cqRetry := some { z with issued := z.issued + 1 } } →
    v.issueEntry q w.va (le w.bytes 8 8) w.bytes = (u, some ids) → u.coh.need = [] →
    exec (.completionWriteRetry q) s = .next ((u.setQueue q { u.queue q with
      acks := { w with ids := ids, again := true } :: (u.queue q).acks, redo := none }).endJob (.entry q))) ∧
  (∀ (s u v : State) (q va a rid : Nat) (t : Target) (pg : TlbEnt) (b : Bytes), s.xlateNow .ctl (s.sqAcid q) va true = (u, .go t pg) →
    Agent.route (.sqe q) t = .dev a → u.devWrite (.sqe q) (u.sqAcid q) a b false = (v, .none) →
    s.issueEntry q va rid b = (v, some [])) ∧
  (∀ (s v : State) (q : Fin 256) (x : Queue) (w : CqWrite) (rest : List CqWrite), x = s.queue q → x.acks = w :: rest →
    s.writesDone w.ids = some .none →
    v = (s.setQueue q { x with acks := rest, cqRetry := if w.again then none else x.cqRetry }).forget w.ids →
    exec (.completionWriteAck q) s = .next (if v.sqIrqEn q then v.raise (q.val / 128) (v.sqVector q) else v)) ∧
  (∀ (s : State) (q : Fin 256) (x : Queue) (w : CqWrite) (rest : List CqWrite) (e : MemErr), x = s.queue q → x.acks = w :: rest →
    s.writesDone w.ids = some e → e ≠ .none → x.redo = none →
    ∃ t : State, exec (.completionWriteAck q) s = .next t ∧ (t.queue q).acks = rest ∧ (t.queue q).redo = some w ∧
      (t.queue q).cqRetry ≠ none) ∧
  (∀ (s : State) (r : Nat) (q : Request), q = s.req r → s.frozen = false → q.phase = 5 → q.counted = true → s.epm.retreats = [] →
    ∃ t : State, exec (.requestEnd r) s = .next t ∧ sfind t.sqe.reqs r = none ∧
      sget 0 t.epm.readers (q.snapshot % 16) = sget 0 s.epm.readers (q.snapshot % 16) - 1 ∧
      (∀ b, q.binding = some b → b.live = true → t.drawer b.slot = { s.drawer b.slot with pins := (s.drawer b.slot).pins - 1 }) ∧
      t = { s.endJobs (fun j => j = .bindReq r) with
            sqe := { s.sqe with reqs := t.sqe.reqs }, epm := { s.epm with readers := t.epm.readers },
            ssu := { s.ssu with drawers := t.ssu.drawers } }) ∧
  (∀ (rid elapsed status head : Nat) (late vary phase : Bool), rid < 2 ^ 64 → elapsed < 2 ^ 24 → status < 256 → head < 65536 →
     (cqEntry rid elapsed status head late vary phase).length = 16 ∧
     bit (cqEntry rid elapsed status head late vary phase) 0 = phase ∧ bit (cqEntry rid elapsed status head late vary phase) 1 = vary ∧
     bit (cqEntry rid elapsed status head late vary phase) 2 = late ∧ fld (cqEntry rid elapsed status head late vary phase) 16 16 = head ∧
     fld (cqEntry rid elapsed status head late vary phase) 32 8 = status ∧
     fld (cqEntry rid elapsed status head late vary phase) 40 24 = elapsed ∧
     le (cqEntry rid elapsed status head late vary phase) 8 8 = rid)

/-! ### Chapter 10: the shelves -/

/-- Background slots (R307, R308, R311, R312), on a shelf that is trained and not in self-refresh. A REF slot that falls due starts on a
bank with no foreground request waiting; with one it is postponed into the bank's debt below its bound, and at the bound is forced before
a request that came after, or is owed; a REF slot owed starts before any other. A wheel slot starts the next kind of the wheel with work
pending, its work begins, and the wheel moves on past it; a make-up slot pays a debt. A slot's end keeps its time for the window. A
training step that passes in a REF slot clears the part's failures, and the second failure in a row marks the part FAILED; without such a
slot nothing happens. Parts of it rest on choices and readings of the model (log 48). -/
def Obligations.SlotsStart : Prop :=
  (∀ (s : State) (ctl : Fin 20) (bank : Nat), s.selfRefresh = false → s.shelves.trained ctl = true →
    (s.slotFits ctl bank 0 true = true → ∃ t : State, exec (.refDue ctl bank .none) s = .next t ∧
      sfind t.shelves.slots (bankKey ctl bank) = some { kind := 0, start := s.now, len := 350, due := true } ∧ s.counts t 0x3300 2 0 ∧
      t.shelves.debt = s.shelves.debt) ∧
    (∀ fg, fg ≠ .none → s.debtOf ctl bank 0 < 8 → ∃ t : State, exec (.refDue ctl bank fg) s = .next t ∧
      t.debtOf ctl bank 0 = s.debtOf ctl bank 0 + 1 ∧ t.shelves.slots = s.shelves.slots ∧ t.ctr = s.ctr) ∧
    (8 ≤ s.debtOf ctl bank 0 → s.slotFits ctl bank 0 true = true → ∃ t : State, exec (.refDue ctl bank .new) s = .next t ∧
      sfind t.shelves.slots (bankKey ctl bank) = some { kind := 0, start := s.now, len := 350, due := true } ∧ s.counts t 0x3300 2 0 ∧
      s.counts t 0x3300 2 6 ∧ t.shelves.debt = s.shelves.debt) ∧
    (8 ≤ s.debtOf ctl bank 0 → ∃ t : State, exec (.refDue ctl bank .old) s = .next t ∧ bankKey ctl bank ∈ t.shelves.owed ∧
      t.shelves.slots = s.shelves.slots ∧ t.shelves.debt = s.shelves.debt)) ∧
  (∀ (s : State) (ctl : Fin 20) (bank : Nat) (fg : FgWait), (s.selfRefresh = true ∨ s.shelves.trained ctl = false) →
    exec (.refDue ctl bank fg) s = .next s) ∧
  (∀ (s : State) (ctl : Fin 20) (bank : Nat) (k : Option (Fin 6)), s.selfRefresh = false → s.shelves.trained ctl = true →
    bankKey ctl bank ∈ s.shelves.owed → s.slotFits ctl bank 0 true = true →
    ∃ t : State, exec (.bgSlotStart ctl bank .none k) s = .next t ∧ bankKey ctl bank ∉ t.shelves.owed ∧
      sfind t.shelves.slots (bankKey ctl bank) = some { kind := 0, start := s.now, len := 350, due := true }) ∧
  (∀ (s : State) (ctl : Fin 20) (bank pos i k : Nat), s.selfRefresh = false → s.shelves.trained ctl = true →
    bankKey ctl bank ∉ s.shelves.owed → pos = sget 0 s.shelves.wheelPos (if ctl.val < 8 then 0 else 1) →
    (List.range 16).find? (fun i => s.bgPending ctl (s.wheelAt ctl (pos + i))) = some i → k = s.wheelAt ctl (pos + i) →
    s.slotFits ctl bank k false = true →
    ∃ w : State, exec (.bgSlotStart ctl bank .none none) s = .next (w.bgWork ctl k) ∧
      sfind w.shelves.slots (bankKey ctl bank) = some { kind := k, start := s.now, len := slotLen k } ∧ s.counts w 0x3300 2 k ∧
      sget 0 w.shelves.wheelPos (if ctl.val < 8 then 0 else 1) = (pos + i + 1) % 16) ∧
  (∀ (s : State) (ctl : Fin 20) (bank : Nat) (k : Fin 6), s.selfRefresh = false → s.shelves.trained ctl = true →
    bankKey ctl bank ∉ s.shelves.owed → s.debtOf ctl bank k ≠ 0 → s.slotFits ctl bank k false = true →
    ∃ w : State, exec (.bgSlotStart ctl bank .none (some k)) s = .next (w.bgWork ctl k) ∧ w.debtOf ctl bank k = s.debtOf ctl bank k - 1 ∧
      sfind w.shelves.slots (bankKey ctl bank) = some { kind := k, start := s.now, len := slotLen k } ∧ s.counts w 0x3300 2 k) ∧
  (∀ (s : State) (ctl : Fin 20) (bank : Nat) (x : BgSlot), sfind s.shelves.slots (bankKey ctl bank) = some x →
    ∃ t : State, exec (.bgSlotEnd ctl bank) s = .next t ∧ t.shelves.slots = sdel s.shelves.slots (bankKey ctl bank) ∧
      { x with len := min x.len (since s.now x.start) } ∈ sget [] t.shelves.lastSlots (bankKey ctl bank)) ∧
  (∀ (s : State) (ctl : Fin 20) (part key n : Nat) (ok : Bool) (x : BgSlot),
    s.shelves.slots.find? (fun p => p.1 % 32 = ctl.val && p.2.kind = 0 && !p.2.recal) = some (key, x) →
    n = (if ok then 0 else sget 0 s.shelves.recal (partKey ctl part) + 1) →
    ∃ t : State, exec (.phyRecalDue ctl part ok) s = .next t ∧ sget 0 t.shelves.recal (partKey ctl part) = n ∧
      sfind t.shelves.slots key = some { x with recal := true } ∧ (n < 2 → t.shelves.parts = s.shelves.parts) ∧
      (2 ≤ n → t.shelves.part ctl part = 4)) ∧
  (∀ (s : State) (ctl : Fin 20) (part : Nat) (ok : Bool),
    s.shelves.slots.find? (fun p => p.1 % 32 = ctl.val && p.2.kind = 0 && !p.2.recal) = none → exec (.phyRecalDue ctl part ok) s = .next s)

/-- A line read returns from its controller, with no tag read of the carve-out open on it (R294, R301, R303, R309). The line that fills a
miss reaches it. Outside the carve-out a corrected scrub read is counted in CE and rewritten, and an uncorrectable one is counted in UE
and poisons its line. A line that a copy reads is copied and counted: the pointer moves on, and past the last line the part is SPARED.
The carve-out's tags answer a fill that they hit with the way's bytes, in place of the read that went on, count in HITS and raise the
page's reuse; where they miss, the fill takes the read's line, once that has come. Sparing and the carve-out's flush (R298, R303, R304).
PC_SPARE and RANK_SPARE start the part's copy; CARVE_FLUSH runs, and at its end the carve-out is empty and every dirty way's line is in
the memory devices, where their part has not failed, with its poison. Parts of it rest on choices and readings of the model (log 11 and
48). -/
def Obligations.LinesReturnAndSparesCopy : Prop :=
  (∀ (s : State) (ctl : Fin 20) (id i m : Nat) (c : CtlRead), sfind s.shelves.reads id = some c → c.ctl = ctl → c.got = none →
    (∀ p ∈ s.shelves.tagReads, p.2.read ≠ id) → c.why = .fill i m →
    exec (.lineReadReturn ctl id .clean) s =
      .next (State.fillReady { s with shelves := { s.shelves with reads := sdel s.shelves.reads id } } i m (s.backRead c.line).1
        ((s.backRead c.line).2 || c.bad)).settleInbound) ∧
  (∀ (s : State) (ctl : Fin 20) (id : Nat) (c : CtlRead), sfind s.shelves.reads id = some c → c.ctl = ctl → c.got = none →
    (∀ p ∈ s.shelves.tagReads, p.2.read ≠ id) → c.why = .scrub → c.written = false → s.inCarve (c.line * 64) = false →
    s.shelves.part (ctlOf (c.line * 64)) (s.shelves.partOf (c.line * 64)) ≠ 4 →
    ∃ w : State, exec (.lineReadReturn ctl id .corrected) s = .next w.settleInbound ∧ w.shelves.reads = sdel s.shelves.reads id ∧
      w.shelves.mem = mwrite s.shelves.mem (c.line * 64) (s.shelves.rawRead c.line).1 ∧
      s.counts w (ctlCounts (ctlOf (c.line * 64))).1 (ctlCounts (ctlOf (c.line * 64))).2 0) ∧
  (∀ (s : State) (ctl : Fin 20) (id : Nat) (c : CtlRead), sfind s.shelves.reads id = some c → c.ctl = ctl → c.got = none →
    (∀ p ∈ s.shelves.tagReads, p.2.read ≠ id) → c.why = .scrub → c.written = false → s.inCarve (c.line * 64) = false →
    s.shelves.part (ctlOf (c.line * 64)) (s.shelves.partOf (c.line * 64)) ≠ 4 →
    ∃ w : State, exec (.lineReadReturn ctl id .uncorrectable) s = .next w.settleInbound ∧ (w.shelves.rawRead c.line).2 = true ∧
      s.counts w (ctlCounts (ctlOf (c.line * 64))).1 (ctlCounts (ctlOf (c.line * 64))).2 1) ∧
  (∀ (s : State) (ctl : Fin 20) (id : Nat) (c : CtlRead) (x : Copy), sfind s.shelves.reads id = some c → c.ctl = ctl → c.got = none →
    (∀ p ∈ s.shelves.tagReads, p.2.read ≠ id) → c.why = .copy → s.shelves.copies.find? (fun y => y.ctl = ctl.val) = some x →
    ∃ w : State, exec (.lineReadReturn ctl id .clean) s = .next w.retryHeld.settleInbound ∧
      w.shelves.reads = sdel s.shelves.reads id ∧ s.counts w (ctlCounts ctl).1 (ctlCounts ctl).2 3 ∧
      (if x.pointer + 1 < s.shelves.partLines ctl then { x with pointer := x.pointer + 1 } ∈ w.shelves.copies
       else w.shelves.part ctl x.part = 3)) ∧
  (∀ (s : State) (id k i m : Nat) (t : TagRead) (c : CtlRead), sfind s.shelves.tagReads id = some t → s.carveFind (carveLine t.line) = some k →
    sfind s.shelves.reads t.read = some c → c.why = .fill i m →
    ∃ w : State, exec (.carveTagReturn id .clean) s =
        .next (w.fillReady i m (s.carveWay k).data ((s.carveWay k).poison || s.carveLost t.line)).settleInbound ∧
      (w.carveWay k).hit = true ∧ (w.carveWay k).data = (s.carveWay k).data ∧
      w.reuseOf (carveLine t.line) = min 3 (s.reuseOf (carveLine t.line) + 1) ∧ s.counts w 0x3000 4 0 ∧
      w.shelves.tagReads = sdel s.shelves.tagReads id ∧ w.shelves.reads = sdel s.shelves.reads t.read) ∧
  (∀ (s u : State) (id i m : Nat) (t : TagRead) (c : CtlRead) (lost : Bool), sfind s.shelves.tagReads id = some t →
    s.carveFind (carveLine t.line) = none → sfind s.shelves.reads t.read = some c → c.why = .fill i m → c.got = some lost →
    u = { s with shelves := { s.shelves with tagReads := sdel s.shelves.tagReads id } } →
    exec (.carveTagReturn id .clean) s =
      .next (State.fillReady { u with shelves := { u.shelves with reads := sdel s.shelves.reads t.read } } i m (u.backRead t.line).1
        ((u.backRead t.line).2 || lost)).settleInbound) ∧
  Executes .pcSpare .pcSpare State.cmdDone (fun s q w =>
    w.shelves.part (le q.data 0 1) (le q.data 1 1) = 2 ∧
    w.shelves.copies = s.shelves.copies ++ [{ ctl := le q.data 0 1, part := le q.data 1 1, pointer := 0 }] ∧
    w = { s with shelves := { s.shelves with parts := w.shelves.parts, copies := w.shelves.copies } }) ∧
  Executes .rankSpare .rankSpare State.cmdDone (fun s q w =>
    w.shelves.part (8 + le q.data 0 1) (le q.data 1 1) = 2 ∧
    w.shelves.copies = s.shelves.copies ++ [{ ctl := 8 + le q.data 0 1, part := le q.data 1 1, pointer := 0 }] ∧
    w = { s with shelves := { s.shelves with parts := w.shelves.parts, copies := w.shelves.copies } }) ∧
  Executes .carveFlush .carveFlush State.cmdStart (fun s _ w => w = { s with shelves := { s.shelves with flushing := true } }) ∧
  (∀ (s : State), s.shelves.flushing = true →
    (∀ x ∈ s.shelves.carve, ∀ y ∈ s.shelves.carve, x.2.valid = true → y.2.valid = true → x.2.line = y.2.line → x = y) →
    (∀ x ∈ s.shelves.carve, x.2.data.length = 64) →
    ∃ t : State, exec .carveFlushDone s = .next t ∧ t.shelves.flushing = false ∧ t.shelves.carve = [] ∧ t.cmd 0x3000 3 = { state := 2 } ∧
      ∀ x ∈ s.shelves.carve, x.2.valid = true → x.2.dirty = true →
        s.shelves.part (ctlOf ((shelf2Base / 64 + x.2.line) * 64)) (s.shelves.partOf ((shelf2Base / 64 + x.2.line) * 64)) ≠ 4 →
        t.shelves.rawRead (shelf2Base / 64 + x.2.line) = (x.2.data, x.2.poison || s.carveDead (x.1 / 3)))

/-! ### Chapters 11 and 12: the DCA, coherence and ordering -/

namespace Sys2Proof.Machine

/-- The request heads the input of slice `i`, and no host request is held for its line and no write of the line is on its way to a host
(R318). -/
abbrev State.heads (s : State) (i : Nat) (r : MemReq) (rest : List MemReq) : Prop :=
  s.faults.grave = false ∧ (s.slice i).inq = r :: rest ∧ s.heldLines.contains r.tgt.key = false ∧ r.sent.any s.staleSent = false ∧
  s.hostWriting r.tgt.key = false

/-- Request `id` is answered; the answer has its place in the order of its slice. -/
abbrev State.answers (w : State) (id : Nat) (m : MemRsp) : Prop := ∃ n, sfind w.rsps id = some { m with num := n }

/-- No access at its controller, no back-invalidate and no host holds the device line. -/
abbrev State.lineFree (s : State) (line : Nat) : Prop :=
  s.shelves.reads.any (fun p => p.2.line = line && p.2.why.holdsLine) = false ∧
  s.biOpen line = false ∧ s.snfFind line = none

end Sys2Proof.Machine

/-- A line's key, home slice and sets (R316), on each of the three shelves. A line has one home among the sixteen slices and one set among its
8,192, and the host lines of the two ports are distinct lines. -/
def Obligations.LinesHaveHomes : Prop :=
  (∀ a : Nat, (Target.dev a).key = a >>> 6) ∧
  (∀ a : Nat, inShelf2 a = false → (Target.dev a).slice = 2 * stackOf a + ((a.testBit 6).toNat ^^^ (a.testBit 7).toNat)) ∧
  (∀ a : Nat, inShelf2 a = true →
    (Target.dev a).slice = ((a >>> 6) ^^^ (a >>> 10) ^^^ (a >>> 14) ^^^ (a >>> 18)) % 16) ∧
  (∀ p h : Nat, p < 2 → h < 2 ^ 64 → (Target.host p h).key = ((1 + p) <<< 58) ||| (h >>> 6) ∧
    (Target.host p h).slice = ((h >>> 6) ^^^ (h >>> 10) ^^^ (h >>> 14) ^^^ (h >>> 18)) % 16) ∧
  (∀ key : Nat, dcaSet key = reduce (mix key 0) 8192 ∧ snfSet key = reduce (mix key 1) 4096 ∧ dcaSet key < 8192 ∧ snfSet key < 4096) ∧
  (∀ t : Target, (∀ a, t ≠ .fab a) → t.slice < 16) ∧
  (∀ h k : Nat, h < 2 ^ 64 → k < 2 ^ 64 → (Target.host 0 h).key ≠ (Target.host 1 k).key)

/-- SLICE_ACCESS on a device line of the requester's own granule that the DCA holds (R318, R319, R322, R337, R354): a read answers with
its bytes and the line's poison; a write puts its bytes into the way, which is modified, and ends the reservations of others on them; an
LDR of a context of the device answers and sets the reservation; an STC whose reservation stands writes, answers 0 and ends it; a
fetch-atomic that stays near answers with the old bytes, and the way holds the new. The request leaves the input, and the access is a
hit. SLICE_ACCESS in other cases (R318 to R320, R356, R357, R375). A read that misses opens a miss register and asks the line's
controller, and counts as a miss; a request of another owner is refused and counted; a store-conditional whose reservation is gone
answers 1, writes nothing and counts in STC_FAIL. Parts of it rest on choices and readings of the model (log 9). -/
def Obligations.SlicesServe : Prop :=
  (∀ (s : State) (i : Fin 16) (r : MemReq) (rest : List MemReq) (a k : Nat) (x : Way), s.heads i r rest → r.tgt = .dev a → a < 2 ^ 64 →
     s.ownerOk r.acid a = true → s.lineFree (a / 64) → (∀ p ∈ (s.slice i).misses, p.2.key ≠ a / 64) →
     (s.slice i).lookup (a / 64) = some k → x = (s.slice i).way k → (x.st = .cl ∨ x.st = .ml) →
     (r.op = .read → ∃ w : State, exec (.sliceAccess i .clean) s = .next w.retryHeld.settleInbound ∧ (w.slice i).inq = rest ∧
       w.answers r.id { performed := true, data := r.cut x.data, poison := x.poison } ∧ (w.slice i).way k = x ∧ s.counts w 0x3201 i 0) ∧
     (r.op = .write → r.answered = false → ∃ w : State, exec (.sliceAccess i .clean) s = .next w.retryHeld.settleInbound ∧
       (w.slice i).inq = rest ∧ w.answers r.id { performed := true } ∧ s.counts w 0x3201 i 0 ∧
       (w.slice i).way k = { x with st := .ml, data := patch x.data r.tgt.off r.data,
                                    poison := if r.full then r.poison else x.poison || r.poison } ∧
       (∀ v ∈ w.coh.resv, v ∈ s.coh.resv ∧ (v.agent = r.src ∨ ∀ b, v.base = .dev b → b + v.size ≤ a ∨ a + r.len ≤ b))) ∧
     (r.op = .ldr → r.src.remote = false → ∃ w : State, exec (.sliceAccess i .clean) s = .next w.retryHeld.settleInbound ∧
       (w.slice i).inq = rest ∧ w.answers r.id { performed := true, data := r.cut x.data, poison := x.poison } ∧ s.counts w 0x3201 i 0 ∧
       w.coh.resv = s.coh.resv.filter (fun v => v.agent ≠ r.src) ++
         [{ agent := r.src, base := r.tgt.align (r.tgt.granule r.gran), size := r.tgt.granule r.gran, since := s.now }]) ∧
     (r.op = .stc → r.answered = false → s.resvStands r.src r.tgt = true →
       ∃ w : State, exec (.sliceAccess i .clean) s = .next w.retryHeld.settleInbound ∧
       (w.slice i).inq = rest ∧ w.answers r.id { performed := true, data := [0] } ∧ s.counts w 0x3201 i 0 ∧ s.counts w 0x40F1 1 0 ∧
       (w.slice i).way k = { x with st := .ml, data := patch x.data r.tgt.off r.data } ∧ (∀ v ∈ w.coh.resv, v.agent ≠ r.src)) ∧
     (∀ code new, r.op = .atomic code → s.dcaOn = true → r.device = false → r.far = false → x.poison = false →
       atomicApply code (r.cut x.data) r.data r.cmp = some new →
       ∃ w : State, exec (.sliceAccess i .clean) s = .next w.retryHeld.settleInbound ∧ (w.slice i).inq = rest ∧
         w.answers r.id { performed := true, data := r.cut x.data } ∧ s.counts w 0x3201 i 0 ∧ s.counts w 0x3800 4 0 ∧
         (w.slice i).way k = { x with st := .ml, data := patch x.data r.tgt.off new })) ∧
  (∀ (s : State) (i : Fin 16) (r : MemReq) (rest : List MemReq) (a m : Nat), s.heads i r rest → r.tgt = .dev a → r.op = .read →
    s.ownerOk r.acid a = true → s.lineFree (a / 64) → (∀ p ∈ (s.slice i).misses, p.2.key ≠ a / 64) →
    (s.slice i).lookup (a / 64) = none → sfind (s.slice i).victims (a / 64) = none →
    (s.slice i).freeMiss (s.allocates r) r.crit = some m →
    ∃ w : State, exec (.sliceAccess i .clean) s = .next w.retryHeld.settleInbound ∧ (w.slice i).inq = rest ∧ s.counts w 0x3201 i 1 ∧
      sfind (w.slice i).misses m = some { key := a / 64, tgt := r.tgt.align 64, alloc := s.allocates r, crit := r.crit, own := false,
                                          half := if r.crit then r.tgt.off / 32 else 0, waiters := [r] } ∧
      sfind w.shelves.reads s.nextId = some { ctl := ctlOf (r.tgt.align 64).addr, line := (r.tgt.align 64).addr / 64, why := .fill i m }) ∧
  (∀ (s : State) (i : Fin 16) (r : MemReq) (rest : List MemReq) (a : Nat), s.heads i r rest → r.tgt = .dev a → s.ownerOk r.acid a = false →
    ∃ w : State, exec (.sliceAccess i .clean) s = .next w.retryHeld.settleInbound ∧ (w.slice i).inq = rest ∧
      w.answers r.id { performed := true, err := .owner } ∧ s.counts w 0x4000 1 6 ∧ w.shelves = s.shelves ∧
      (w.slice i).ways = (s.slice i).ways) ∧
  (∀ (s : State) (i : Fin 16) (r : MemReq) (rest : List MemReq) (a : Nat), s.heads i r rest → r.tgt = .dev a → s.ownerOk r.acid a = true →
    s.lineFree (a / 64) → r.op = .stc → s.resvStands r.src r.tgt = false →
    ∃ w : State, exec (.sliceAccess i .clean) s = .next w.retryHeld.settleInbound ∧ (w.slice i).inq = rest ∧
      w.answers r.id { performed := true, data := [1] } ∧ s.counts w 0x40F1 1 1 ∧ w.shelves = s.shelves ∧
      (w.slice i).ways = (s.slice i).ways)

/-- Fills and victims (R321, R323, R325). A whole device line that came answers its waiters in their order and enters the DCA, modified
where one wrote it or an atomic took it, or, where it is not to be kept, a read's answer is all it does; a critical half answers the read
that lies in it. A victim whose eviction the host has not acknowledged stays; any other leaves. Host lines (R327, R328). The host's
answer to a fill's request is the line; its answer to a write performs it; its answer to an eviction ends it. A snoop of a line that a
way holds, with no fill of it granted and no snoop of it waiting, is answered with its modified data, if any: SnpInv takes the line away,
SnpData leaves it shared, SnpCur leaves it as it is. A snoop of a line that nobody holds is a miss, and one that meets a granted fill
waits. Parts of it rest on choices and readings of the model (log 10). -/
def Obligations.FillsAndHosts : Prop :=
  (∀ (s u v z : State) (i : Fin 16) (m : Nat) (x : Miss) (d : Bytes) (p wrote : Bool), sfind (s.slice i).misses m = some x → x.ready = true →
    x.lost = false → x.key < 2 ^ 58 → x.alloc = true → s.dcaOn = true →
    u = s.setSlice i { s.slice i with misses := sdel (s.slice i).misses m } → u.handOut x.data x.poison x.waiters = (v, d, p, wrote) →
    v.install i x.key (if wrote || x.waiters.any (fun r => r.op.isAtomic) then .ml else .cl) d p = some z →
    exec (.missFillReturn i m true) s = .next z.answerSnoops.retryHeld.settleStores.settleInbound) ∧
  (∀ (s : State) (i : Fin 16) (m : Nat) (x : Miss) (r : MemReq), sfind (s.slice i).misses m = some x → x.ready = true → x.lost = false →
    x.key < 2 ^ 58 → x.alloc = false → x.waiters = [r] → r.op = .read →
    ∃ w : State, exec (.missFillReturn i m true) s = .next w.answerSnoops.retryHeld.settleStores.settleInbound ∧
      w.slice i = { s.slice i with misses := sdel (s.slice i).misses m } ∧
      w.answers r.id { performed := true, data := r.cut x.data, poison := x.poison }) ∧
  (∀ (s : State) (i : Fin 16) (m : Nat) (x : Miss) (r : MemReq), sfind (s.slice i).misses m = some x → x.ready = true →
    x.got = 0 → x.lost = false → x.waiters = [r] → r.op = .read → r.crit = true → r.tgt.off / 32 = x.half →
    (r.tgt.off + r.len - 1) / 32 = x.half →
    ∃ w : State, exec (.missFillReturn i m false) s = .next w.settleInbound ∧ s.counts w 0x3201 i 3 ∧
      sfind (w.slice i).misses m = some { x with got := 1, waiters := [] } ∧
      w.answers r.id { performed := true, data := r.cut x.data, poison := x.poison }) ∧
  (∀ (s : State) (i : Fin 16) (key : Nat), s.coh.hostReqs.any (fun q => q.2.why = .evict i key) = false →
    exec (.victimWritebackDone i key) s = .next (s.setSlice i { s.slice i with victims := sdel (s.slice i).victims key })) ∧
  (∀ (s : State) (i : Fin 16) (key : Nat), s.coh.hostReqs.any (fun q => q.2.why = .evict i key) = true →
    exec (.victimWritebackDone i key) s = .next s) ∧
  (∀ (s : State) (p : Fin 2) (id i m : Nat) (q : HostReq) (ext : ExtData), sfind s.coh.hostReqs id = some q → q.port = p →
    q.why = .fill i m → exec (.hostCacheResponse p id ext) s =
      .next (State.fillReady { s with coh := { s.coh with hostReqs := sdel s.coh.hostReqs id } } i m
        (bytesAt ext.bytes 0 64) ext.poison).settleStores) ∧
  (∀ (s : State) (p : Fin 2) (id : Nat) (r : MemReq) (q : HostReq) (ext : ExtData), sfind s.coh.hostReqs id = some q → q.port = p →
    q.why = .write r → ∃ t : State, exec (.hostCacheResponse p id ext) s = .next t.settleStores ∧
      t.coh.hostReqs = sdel s.coh.hostReqs id ∧ t.answers r.id { performed := true }) ∧
  (∀ (s : State) (p : Fin 2) (id i key : Nat) (q : HostReq) (ext : ExtData), sfind s.coh.hostReqs id = some q → q.port = p →
    q.why = .evict i key → exec (.hostCacheResponse p id ext) s =
      .next (State.settleStores { s with coh := { s.coh with hostReqs := sdel s.coh.hostReqs id } })) ∧
  (∀ (s u : State) (p : Fin 2) (addr : BitVec 64) (a i k : Nat) (t : Target) (x : Way) (data : Option Bytes), s.linkUp p = true →
    u = s.wakeUp → a = addr.toNat → t = .host p (a / 64 * 64) → i = t.slice →
    (∀ m ∈ (u.slice i).misses, m.2.key = t.key → m.2.ready = false) → u.coh.snoops = [] →
    (u.slice i).lookup t.key = some k → x = (u.slice i).way k → data = (if x.st = .mh then some x.data else none) →
    (∃ v : State, exec (.hostSnoop p addr .inv) s = .next v ∧ (∀ y ∈ (v.slice i).ways, y.2.key ≠ t.key) ∧
      v.out = u.out ++ [.snoopRsp p a false data]) ∧
    exec (.hostSnoop p addr .data) s =
      .next ((u.setSlice i ((u.slice i).setWay k { x with st := .sh })).emit (.snoopRsp p a true data)) ∧
    exec (.hostSnoop p addr .cur) s = .next (u.emit (.snoopRsp p a true data))) ∧
  (∀ (s u : State) (p : Fin 2) (addr : BitVec 64) (kind : SnoopKind) (t : Target), s.linkUp p = true → u = s.wakeUp →
    t = .host p (addr.toNat / 64 * 64) → (∀ m ∈ (u.slice t.slice).misses, m.2.key = t.key → m.2.ready = false) → u.coh.snoops = [] →
    (u.slice t.slice).lookup t.key = none → sfind (u.slice t.slice).victims t.key = none →
    exec (.hostSnoop p addr kind) s = .next (u.emit (.snoopRsp p addr.toNat false none))) ∧
  (∀ (s u : State) (p : Fin 2) (addr : BitVec 64) (kind : SnoopKind) (t : Target), s.linkUp p = true → u = s.wakeUp →
    t = .host p (addr.toNat / 64 * 64) → (∃ m ∈ (u.slice t.slice).misses, m.2.key = t.key ∧ m.2.ready = true) →
    exec (.hostSnoop p addr kind) s = .next { u with coh := { u.coh with
      snoops := u.coh.snoops ++ [{ port := p, addr := addr.toNat, kind := kind }] } })

/-- HDM requests of a host and their back-invalidates (R330, R331, R334, R404), of a port whose link is up, in its decoder and no moving
window. A read for ownership that nothing holds back, and whose line is at hand, makes the host the line's only holder and returns the
line; one whose line must be read waits for it. A write-back of the exclusive holder writes the line, and takes its presence away; a read
of another owner's granule returns poison, and is counted. A response to a back-invalidate that gave a line up writes its data and clears
the port's presence; a back-invalidate past its limit counts, and the host is dead for coherence; before its limit nothing happens. The
DCA's switch (R324, R325). DCA_ENABLE takes its value, and 0 starts a flush; the flush goes on as the victim buffers have room, and has
ended where no way then holds a device line or a line of a host whose link is up. DCA_INVALIDATE runs; each slice loses its ways, and
with the last one the command is done. Parts of it rest on choices and readings of the model (log 9 and 10). -/
def Obligations.HoldersAndFlushes : Prop :=
  (∀ (s u v x y : State) (p : Fin 2) (hpa : BitVec 64) (a line n k : Nat) (w : HdmWait) (b : Bytes) (bad : Bool) (o : Option Nat),
    s.wakeUp.fresh = (n, u) → u.linkUp p = true → u.inDecoder p hpa.toNat = true → u.moveHolds p hpa.toNat = false →
    a = u.hdmDpa p hpa.toNat → line = a / 64 → w = { port := p, num := n, req := .rdA hpa } → u.ownerOk (u.winAcid p) a = true →
    u.hdmBusy w line = false → u.prepare line true .inv (some p.val) = (v, true) → v.hdmData w line = (x, some (b, bad)) →
    x.snfEntry line none = (y, some k, o) →
    ∃ c : State, c = (y.cleanCopy line false).setSnf line k { line := line, p0 := p = 0, p1 := p = 1, e := true } ∧
      exec (.hdmHostRequest p (.rdA hpa)) s =
        .next ((c.dropAccs (.hdm n)).emit (.memRsp p hpa.toNat (c.backRead line).1 ((c.backRead line).2 || bad))) ∧
      sfind (c.slice (Target.dev (line * 64)).slice).snf k = some { line := line, p0 := p = 0, p1 := p = 1, e := true }) ∧
  (∀ (s u v x : State) (p : Fin 2) (hpa : BitVec 64) (a line n : Nat) (w : HdmWait), s.wakeUp.fresh = (n, u) → u.linkUp p = true →
    u.inDecoder p hpa.toNat = true → u.moveHolds p hpa.toNat = false → a = u.hdmDpa p hpa.toNat → line = a / 64 →
    w = { port := p, num := n, req := .rdA hpa } → u.ownerOk (u.winAcid p) a = true → u.hdmBusy w line = false →
    u.prepare line true .inv (some p.val) = (v, true) → v.hdmData w line = (x, none) →
    exec (.hdmHostRequest p (.rdA hpa)) s = .next { x with coh := { x.coh with held := x.coh.held ++ [w] } }) ∧
  (∀ (s u : State) (p : Fin 2) (hpa : BitVec 64) (data : Bytes) (a line n k : Nat) (e : SnfEnt), s.wakeUp.fresh = (n, u) →
    u.linkUp p = true → u.inDecoder p hpa.toNat = true → u.moveHolds p hpa.toNat = false → a = u.hdmDpa p hpa.toNat → line = a / 64 →
    u.ownerOk (u.winAcid p) a = true → u.hdmBusy { port := p, num := n, req := .wb hpa data false } line = false →
    sfind (u.slice (Target.dev a).slice).victims line = none → u.snfFind line = some (k, e) → e.e = true → e.holders = [p.val] →
    exec (.hdmHostRequest p (.wb hpa data false)) s =
      .next ((((u.setSnf line k (e.clear p)).killResv (.host p) (.dev (line * 64)) 64).backWrite line (bytesAt data 0 64) false).emit
        (.memRsp p hpa.toNat [] false))) ∧
  (∀ (s u : State) (p : Fin 2) (hpa : BitVec 64) (a n : Nat), s.wakeUp.fresh = (n, u) → u.linkUp p = true →
    u.inDecoder p hpa.toNat = true → u.moveHolds p hpa.toNat = false → a = u.hdmDpa p hpa.toNat → u.ownerOk (u.winAcid p) a = false →
    ∃ w : State, exec (.hdmHostRequest p (.rdA hpa)) s = .next (w.emit (.memRsp p hpa.toNat (zeros 64) true)) ∧ u.counts w 0x4000 1 6 ∧
      u.counts w (portIx p 0x2000) 1 5 ∧ w.shelves = u.shelves) ∧
  (∀ (s : State) (p : Fin 2) (line : Nat) (b : BackInv) (r : BiRsp) (d : Bytes), sfind s.coh.bis (biKey p line) = some b → b.kind ≠ .cur →
    r.data = some d → r.keepShared = false →
    exec (.birspReceive p line r) s = .next (((((s.dropVictim line).killResv (.host p) (.dev (line * 64)) 64).backWrite line
      (bytesAt d 0 64) false).biEnd p line (fun e => e.clear p)).retryHeld)) ∧
  (∀ (s : State) (p : Fin 2) (line : Nat) (b : BackInv), sfind s.coh.bis (biKey p line) = some b → 1000000 * b.limit ≤ since s.now b.sent →
    ∃ w : State, exec (.biTimeout p line) s = .next w.retryHeld ∧ (s.counts w 0x3800 2 1) ∧ w.coh.dead = sset false s.coh.dead p true ∧
      w.coh.deadAt = s.now ∧ w.coh.bis = sdel s.coh.bis (biKey p line)) ∧
  (∀ (s : State) (p : Fin 2) (line : Nat) (b : BackInv), sfind s.coh.bis (biKey p line) = some b → since s.now b.sent < 1000000 * b.limit →
    exec (.biTimeout p line) s = .next s) ∧
  Puts .dcaEnableWrite .dcaEnable (fun _ q w => w.rd q.index q.sub = q.data ∧ (w.dcaOn = false → w.coh.flushing = true)) ∧
  (∀ (s u : State), s.coh.flushing = true → s.pcs.blk = 0 → u = s.flushOn s.flushes →
    (u.flushed u.flushes = true → exec .dcaFlushDone s = .next { u with coh := { u.coh with flushing := false } } ∧
      ∀ i k, i < 16 → ((u.slice i).way k).st = .i ∨ ∃ p a, keyTarget ((u.slice i).way k).key = .host p a ∧ u.linkUp p = false) ∧
    (u.flushed u.flushes = false → exec .dcaFlushDone s = .next u)) ∧
  Executes .dcaInvalidate .dcaInvalidate State.cmdStart (fun s _ w => w = { s with coh := { s.coh with invLeft := List.range 16 } }) ∧
  (∀ (s : State) (i : Fin 16), s.coh.invLeft.contains i.val = true → ∃ t : State, exec (.dcaInvalidateDone i) s = .next t ∧
    (t.slice i).ways = [] ∧ (t.slice i).invDone = true ∧ t.coh.invLeft = s.coh.invLeft.filter (fun n => n ≠ i.val) ∧
    (∀ n, n ≠ i.val → t.slice n = s.slice n) ∧
    (t.coh.invLeft = [] → t.cmd 0x3200 1 = { state := 2 }) ∧ (t.coh.invLeft ≠ [] → t.ods = s.ods))

/-! ### Chapter 13: translation -/

/-- Walks (R366, R369 to R371, R373, R374). A waiting walk takes a free walker, from the deepest walk-cache entry or ROOT, and counts. A
step that reads a TABLE entry goes down one level and is kept in the walk cache; one that reads a leaf ends the walk, and the caches of
its waiters take it; one that reads an entry that is poisoned, of another owner, not present or bad ends it in a fault of that type at
that level, which every waiter meets. An ATS answer enters the cache of its one waiter's path. Parts of it rest on choices and readings
of the model (log 58). -/
def Obligations.WalksTranslate : Prop :=
  (∀ (s : State) (w : Walk) (rest : List Walk) (k : Nat), s.mtu.waiting = w :: rest → sfree s.mtu.walkers 64 = some k →
    ∃ t : State, exec .walkStart s = .next t ∧ t.mtu.waiting = rest ∧
      sfind t.mtu.walkers k = some { w with level := (s.walkFrom w.acid w.va).1, table := (s.walkFrom w.acid w.va).2 } ∧
      s.counts t 0x4000 1 0) ∧
  (∀ (s u d : State) (k : Fin 64) (w : Walk) (b : Bytes) (poison : Bool) (e : MemErr), sfind s.mtu.walkers k = some w →
    s.faults.grave = false → s.faults.resets.contains (uMtu * 256) = false →
    ((s.asJob (.walk k)).mtuCount 1).devRead .mtu w.acid (w.table + 8 * ((w.va >>> (12 + 9 * w.level)) % 512)) 8 = (u, b, poison, e) →
    u.coh.need = [] → d = { u with mtu := { u.mtu with walkers := sdel u.mtu.walkers k } } →
    (∀ a, e = .none → poison = false → u.ptDecode w.acid w.va w.level (leNat b) = .table a →
      ∃ t : State, exec (.walkStep k .clean) s = .next t ∧ sfind t.mtu.walkers k = some { w with level := w.level - 1, table := a } ∧
        { acid := w.acid, level := w.level, base := w.va / 2 ^ (12 + 9 * w.level) * 2 ^ (12 + 9 * w.level), table := a } ∈ t.mtu.walkC) ∧
    (∀ l, e = .none → poison = false → u.ptDecode w.acid w.va w.level (leNat b) = .leaf l →
      (∀ x ∈ w.waiters, (∀ c n, x.who ≠ .hse c n) ∧ ∀ id, x.who ≠ .eng id) →
      exec (.walkStep k .clean) s = .next ((w.waiters.foldl (fun s x => s.tlbInstall x.who.path l) d).endJob (.walk k))) ∧
    (∀ ty v, (e = .owner ∧ ty = ftOwner ∨ e = .none ∧ poison = true ∧ ty = ftWalkPoison ∨
        e = .none ∧ poison = false ∧ u.ptDecode w.acid w.va w.level (leNat b) = .absent ∧ ty = ftNotPresent ∨
        e = .none ∧ poison = false ∧ u.ptDecode w.acid w.va w.level (leNat b) = .bad ∧ ty = ftBadEntry) →
      v = w.waiters.foldl (fun s x => s.waiterFault x ty w.level) d → v.coh.need = [] →
      exec (.walkStep k .clean) s = .next (v.endJob (.walk k)))) ∧
  (∀ (s : State) (p : Fin 2) (acid : Fin 4096) (iova target : BitVec 64) (r w : Bool) (x : Waiter) (y : Walk) (e : TlbEnt),
    s.mtu.atsWait = [y] → y.acid = acid → y.ats = some e → e.tgt = .host p iova.toNat → y.waiters = [x] →
    exec (.atsResponse p acid iova target r w) s = .next (State.tlbInstall { s with mtu := { s.mtu with atsWait := [] } } x.who.path
      { e with ats := some { addr := target.toNat, read := r, write := w } }))

/-- Invalidations (R383 to R387). INV_SLOT takes every matching translation out of every cache and waits for the transfers under them;
with PAGES and FLAGS zero it is done at once. Once the stores that it waited for have been sent and nothing is left to wait for, it
completes, and raises INV_VECTOR where its port asked for it. An ATS invalidation drops the matching results from the control TLB, and is
answered at once where no transfer is in flight under them. A line of a GPE or an HSE that holds an invalidation up for 50 us is
cancelled and counted: its task ends with XLATE_DRAIN; the batch of a ring that does so ends with FAULT. Before that time nothing
happens. Parts of it rest on choices and readings of the model (log 10 and 58). -/
def Obligations.InvalidationsDrain : Prop :=
  Executes .invSlot .invSlot (fun w _ _ => w) (fun s q w => ∀ v : Inval,
    v = { acid := le q.data 16 2, lo := le q.data 0 8, hi := le q.data 0 8 + 4096 * le q.data 8 8, all := (le q.data 18 1).testBit 0,
          global := (le q.data 18 1).testBit 1, fromPort := match q.who.path with
                                                             | .h0 => some 0
                                                             | .h1 => some 1
                                                             | _ => none } →
    if le q.data 18 1 = 0 ∧ le q.data 8 8 = 0 then
      sget {} w.mtu.inv q.sub = { v with running := false, doneAt := s.now } ∧ w.cmd 0x4001 q.sub = { state := 2 }
    else
      sget {} w.mtu.inv q.sub = { v with running := true, since := s.now, waits := s.matching (fun a g => v.takes a g.base g.size) } ∧
      w.cmd 0x4001 q.sub = { state := 1 } ∧ (∀ e ∈ w.mtu.ctl, v.takes e.acid e.base e.size = false) ∧
      (∀ l ∈ w.mtu.cab, ∀ e ∈ l.2, v.takes e.acid e.base e.size = false) ∧
      (∀ l ∈ w.mtu.micro, ∀ e ∈ l.2, v.takes e.acid e.base e.size = false) ∧ (∀ x ∈ w.mtu.walkC, v.takesWalk x = false)) ∧
  (∀ (s z : State) (k : Fin 8) (v : Inval), z = s.settleStores → v = sget {} z.mtu.inv k → v.running = true → v.waits = [] →
    ∃ u : State, sget {} u.mtu.inv k = { v with running := false, doneAt := z.now } ∧ u.cmd 0x4001 k = { state := 2 } ∧
      exec (.invalidationComplete k) s = .next (match v.fromPort with
        | some p => if (u.fqN p 9 1).testBit 1 then u.raise p (u.fqN p 11 1) else u
        | none => u)) ∧
  (∀ (s : State) (k : Fin 8), (sget {} s.settleStores.mtu.inv k).waits ≠ [] →
    exec (.invalidationComplete k) s = .next s.settleStores) ∧
  (∀ (s : State) (p : Fin 2) (pasid : Option (BitVec 20)) (lo : BitVec 64) (n : Nat), ∃ t : State,
    exec (.atsInvalidateRequest p pasid lo n) s = .next t ∧
    (∀ e ∈ t.mtu.ctl, e ∈ s.mtu.ctl ∧ ¬ (e.ats.isSome = true ∧ s.ctxAts e.acid = true ∧ s.ctxPort e.acid = p ∧
      s.ctxPasid e.acid = pasid.map (fun x => x.toNat) ∧ e.tgt.onHost p = true ∧ e.tgt.addr < lo.toNat + n ∧
      lo.toNat < e.tgt.addr + e.size)) ∧
    (t.out = s.out ++ [.atsDone p] ∨ ∃ v : Inval, t.mtu.atsInv = s.mtu.atsInv ++ [(p.val, v)] ∧ v.running = true ∧ v.waits ≠ [])) ∧
  (∀ (s : State) (g : Fin 48) (n id : Nat) (t : GTag) (c : GCmd), s.faults.grave = false → sfind (s.gpe g).tags n = some t → t.id = some id →
    50000 ≤ since s.now t.since → s.heldByInv (.gpe g n) = true → sfind (s.gpe g).cmds t.cmd = some c → c.pd = none →
    ∃ w : State, exec (.matchingTransferCancel (.gpe g n)) s =
        .next (w.endTask c.req stXlateDrain c.tile (w.postPos c.tile c.xtag)) ∧
      (w.gpe g).tags = sdel (s.gpe g).tags n ∧ s.counts w 0x4000 1 7 ∧
      ∀ v ∈ w.mtu.inv, v.2.running = true → .gpe g n ∉ v.2.waits) ∧
  (∀ (s : State) (c : Fin 12) (n id : Nat) (t : HTag) (q : Scan), s.faults.grave = false → sfind (s.hse c).tags n = some t → t.id = some id →
    50000 ≤ since s.now t.since → s.heldByInv (.hse c n) = true → (s.hse c).queue.head? = some q → q.num = t.scan →
    ∃ w : State, exec (.matchingTransferCancel (.hse c n)) s =
        .next (w.endTask q.req stXlateDrain q.tile (w.postPos q.tile q.xtag)) ∧
      (w.hse c).tags = sdel (s.hse c).tags n ∧ s.counts w 0x4000 1 7) ∧
  (∀ (s : State) (r : Fin 8) (b : Batch) (at_ acid : Nat) (g : Page), s.faults.grave = false → (s.ring r).batch = some b →
    b.held = some (at_, acid, g) → b.status = none → 50000 ≤ since s.now at_ → s.heldByInv (.epm r) = true →
    ∃ t : State, exec (.matchingTransferCancel (.epm r)) s = .next t ∧ s.counts t 0x4000 1 7 ∧
      (t.ring r).batch = some { b with held := none, status := some bsFault }) ∧
  (∀ (s : State) (r : Fin 8) (b : Batch) (at_ acid : Nat) (g : Page), s.faults.grave = false → (s.evRing r).batch = some b →
    b.held = some (at_, acid, g) → b.status = none → 50000 ≤ since s.now at_ → s.heldByInv (.ssu r) = true →
    ∃ t : State, exec (.matchingTransferCancel (.ssu r)) s = .next t ∧ s.counts t 0x4000 1 7 ∧
      (t.evRing r).batch = some { b with held := none, paused := false, holding := false, status := some (esOf bsFault) }) ∧
  (∀ (s : State) (g : Fin 48) (n : Nat) (t : GTag), sfind (s.gpe g).tags n = some t → since s.now t.since < 50000 →
    exec (.matchingTransferCancel (.gpe g n)) s = .next s)

/-- Fault records (R378 to R382, R392). A due batch of one record, not hot, is written: where the queue is on, its host is there and it
has room, the write of the record goes to the queue's tail in the host's memory, with the phase of its pass, and the tail moves; else the
record is dropped and counted. A batch that is not due stays. The batch that the host has performed raises VECTOR, and none before it
has. FQ_HEAD clears the overflow mark. Granules and access counters (R376, R389, R392). GRANULE_SET gives every granule of its range the
mode and the ACID, leaves every other granule as it was, and runs until it is done; with a count of 0 it is done at once. GRANULE_QUERY
leaves the granule's tag in its result. A counter sweep falls due once its period has passed, and not before. Parts of it rest on choices
and readings of the model (log 10 and 30). -/
def Obligations.RecordsAndGranules : Prop :=
  (∀ (s v : State) (p : Fin 2) (q : FaultQ) (r : FaultRec) (ids : List Nat), q = s.fq p → s.hostHeld p = false → q.batch = [r] →
    r.type ≠ ftHot → 1000 * s.fqN p 12 4 ≤ since s.now q.batchAt → s.fqOn p = true → s.hostOk p = true →
    (q.tail + s.fqSize p - s.fqHead p) % s.fqSize p ≠ s.fqSize p - 1 →
    (s.setFq p { q with batch := [], flying := q.flying ++ [[]] }).postWrites .mtu 0 (.host p (s.fqN p 0 8 + 32 * q.tail))
      (r.bytes (q.pass % 2 = 0)) = (v, ids) →
    ∃ t : State, exec (.faultBatchWrite p) s = .next t ∧ t.out = v.out ∧ t.coh = v.coh ∧
      t.fq p = { q with batch := [], tail := (q.tail + 1) % s.fqSize p, written := q.written + 1,
                        flying := (q.flying ++ [ids]).filter (fun l => !l.isEmpty),
                        pass := if q.tail + 1 = s.fqSize p then q.pass + 1 else q.pass } ∧
      (t.ctxFault r.acid).faults = min 0xFFFF_FFFF ((s.ctxFault r.acid).faults + 1)) ∧
  (∀ (s : State) (p : Fin 2) (q : FaultQ) (r : FaultRec), q = s.fq p → s.hostHeld p = false → q.batch = [r] → r.type ≠ ftHot →
    1000 * s.fqN p 12 4 ≤ since s.now q.batchAt → (s.fqOn p = false ∨ s.hostOk p = false ∨
      (q.tail + s.fqSize p - s.fqHead p) % s.fqSize p = s.fqSize p - 1) →
    ∃ t : State, exec (.faultBatchWrite p) s = .next t ∧ s.counts t 0x4000 1 3 ∧
      t.fq p = { q with batch := [], overflow := true, flying := q.flying.filter (fun l => !l.isEmpty) } ∧
      t.ctxFault r.acid = { s.ctxFault r.acid with dropped := min (2 ^ 64 - 1) ((s.ctxFault r.acid).dropped + r.count), overflow := true }) ∧
  (∀ (s : State) (p : Fin 2), (s.fq p).batch.length < 32 → since s.now (s.fq p).batchAt < 1000 * s.fqN p 12 4 →
    exec (.faultBatchWrite p) s = .next s) ∧
  (∀ (s : State) (p : Fin 2) (ids : List Nat) (rest : List (List Nat)), (s.fq p).flying = ids :: rest →
    ((∀ id ∈ ids, s.unperformed id = false) → exec (.faultBatchPerformed p) s =
      .next (((s.setFq p { s.fq p with flying := rest }).forget ids).raise p (s.fqN p 10 1))) ∧
    ((∃ id ∈ ids, s.unperformed id = true) → exec (.faultBatchPerformed p) s = .next s)) ∧
  Puts .fqHeadWrite .fqHead (fun _ q w => w.rd q.index q.sub = q.data ∧ (w.fq q.sub).overflow = false) ∧
  Executes .granuleSet .granuleSet (fun w _ _ => w) (fun s q w =>
    (∀ g, sget {} w.mtu.owners g = if le q.data 0 4 ≤ g ∧ g < le q.data 0 4 + le q.data 4 4 then
        { mode := le q.data 10 1, acid := le q.data 8 2 } else sget {} s.mtu.owners g) ∧
    w.cmd 0x4000 4 = (if le q.data 4 4 = 0 then { state := 2 } else { state := 1 })) ∧
  (∀ (s : State), s.cmdRunning 0x4000 4 = true → exec .granuleSetDone s = .next (s.cmdDone 0x4000 4)) ∧
  Executes .granuleQuery .granuleQuery State.cmdDone (fun s q w =>
    w = { s with mtu := { s.mtu with result := w.mtu.result } } ∧
    w.mtu.result = natLe (sget {} s.mtu.owners (le q.data 0 4)).acid 2 ++ natLe (sget {} s.mtu.owners (le q.data 0 4)).mode 1 ++ zeros 13) ∧
  (∀ (s : State), s.migEntries ≠ 0 → 1000000 * s.rdN 0x4000 3 12 4 ≤ since s.now s.mtu.sweepAt →
    exec .counterSweepDue s = .next { s with mtu := { s.mtu with sweepAt := s.now, sweeps := s.mtu.sweeps + 1 } }) ∧
  (∀ (s : State), (s.migEntries = 0 ∨ since s.now s.mtu.sweepAt < 1000000 * s.rdN 0x4000 3 12 4) → exec .counterSweepDue s = .next s)

/-! ### Chapter 14: the host link ports -/

/-- Resets of a port (R413, R414, R416). FLR clears Bus Master Enable, the interrupt enables and what was pending, takes the port's
queues and its claims, and counts; FLR_DONE ends it: every entry of class FLRx is at its default, every other as it was, and the function
is in D0 with PME and the ROM offset cleared. HLx takes a link that is up down with all the host configured, the port's queues and its
fault queue; it counts, and the lines lost with it await their log; PERST_N keeps the link down, and has the effects of HLx on a link
that is down as well, once. A clear of Bus Master Enable with no fault record gathered clears that alone. On a link that is down, FLR,
the clear of Bus Master Enable and every other HLx cause do nothing. The lost-write log (R417): the lines lost with an HLx are entered
once, in runs of consecutive lines of which each line is in one, as far as the log has room for the runs; the lines are counted (R34),
and runs that found no room set the overflow. Parts of it rest on choices and readings of the model (log 10 and 59). -/
def Obligations.PortsResetAndLog : Prop :=
  (∀ (s : State) (p : Fin 2), s.linkUp p = true → ∃ t : State, exec (.flr p) s = .next t ∧ (t.port p).bme = false ∧ (t.port p).msix = false ∧
    (t.port p).msi = 0 ∧ (t.port p).pend = [] ∧ (t.port p).flrAt = some s.now ∧ s.counts t (portIx p 0x2000) 1 3 ∧
    (∀ q ∈ t.sqe.queues, q.1 / 128 ≠ p) ∧ (∀ c ∈ t.ods.claims, c.2.owner.path ≠ hPath p)) ∧
  (∀ (s : State) (p : Fin 2) (f : Nat), (s.port p).flrAt = some f → ∃ t : State, exec (.flrDone p) s = .next t ∧
    t.port p = { s.port p with flrAt := none, dstate := 0, pmeEn := false, romOffset := 0 } ∧
    (∀ ix sub r, sub < 256 → entAt ix sub = some r → r.rst = .flr p → sfind t.ods.store (entKey ix sub) = none) ∧
    (∀ ix sub r, sub < 256 → entAt ix sub = some r → r.rst ≠ .flr p → sfind t.ods.store (entKey ix sub) = sfind s.ods.store (entKey ix sub))) ∧
  (∀ (s : State) (p : Fin 2) (cause : LinkResetCause), (s.port p).link ≠ 0 → (cause = .perst → (s.port p).perst = false) → ∃ t : State, exec (.hostLinkReset p cause) s = .next t ∧
    (t.port p).link = 0 ∧ (t.port p).bme = false ∧ (t.port p).cacheEn = false ∧ (t.port p).memEn = false ∧ (t.port p).ide = false ∧
    (t.port p).decoded = false ∧ (t.port p).hlxAt = s.now ∧ (t.port p).lostHlx = min (2 ^ 32 - 1) ((s.port p).lostHlx + 1) ∧
    (t.port p).lostDue = some (s.lostWrites p) ∧ (cause = .perst → (t.port p).perst = true) ∧
    s.counts t (portIx p 0x2000) 1 2 ∧ t.fq p = {} ∧ (∀ q ∈ t.sqe.queues, q.1 / 128 ≠ p)) ∧
  (∀ (s : State) (p : Fin 2), (s.port p).perst = false → ∃ t : State, exec (.hostLinkReset p .perst) s = .next t ∧
    (t.port p).perst = true ∧ (t.port p).link = 0 ∧ (t.port p).bme = false ∧ t.fq p = {} ∧ (∀ q ∈ t.sqe.queues, q.1 / 128 ≠ p) ∧
    (∀ ix sub r, sub < 256 → entAt ix sub = some r → (r.rst = .flr p ∨ r.rst = .hl p) → sfind t.ods.store (entKey ix sub) = none)) ∧
  (∀ (s : State) (p : Fin 2), (s.port p).perst = true → exec (.hostLinkReset p .perst) s = .next s) ∧
  (∀ (s : State) (p : Fin 2) (cause : LinkResetCause), (s.port p).link = 0 → cause ≠ .perst → exec (.hostLinkReset p cause) s = .next s) ∧
  (∀ (s : State) (p : Fin 2), s.linkUp p = false → exec (.flr p) s = .next s ∧ exec (.busMasterEnableClear p) s = .next s) ∧
  (∀ (s : State) (p : Fin 2), s.linkUp p = true → (s.fq p).batch = [] →
    exec (.busMasterEnableClear p) s = .next (s.setPort p { s.port p with bme := false })) ∧
  (∀ (s : State) (p : Fin 2) (l : List Nat), (s.port p).lostDue = some l → ∃ t : State, exec (.lostWriteLogAppend p) s = .next t ∧
    t = s.setPort p (t.port p) ∧ (t.port p).lostDue = none ∧ (t.port p).lostLines = min (2 ^ 64 - 1) ((s.port p).lostLines + (sortNat l).length) ∧
    (t.port p).lostOver = ((s.port p).lostOver || decide (256 - (s.port p).lostLog.length < (lineRuns (sortNat l)).length)) ∧
    (t.port p).lostLog = (s.port p).lostLog ++ ((lineRuns (sortNat l)).map (fun r => (r.1 * 64, r.2))).take (256 - (s.port p).lostLog.length) ∧
    (∀ n, n ∈ sortNat l ↔ n ∈ l) ∧ (sortNat l).Pairwise (· < ·) ∧
    (∀ n, n ∈ l ↔ ∃ r ∈ lineRuns (sortNat l), r.1 ≤ n ∧ n < r.1 + r.2) ∧ (∀ r ∈ lineRuns (sortNat l), r.2 ≤ 65535)) ∧
  (∀ (s : State) (p : Fin 2), (s.port p).lostDue = none → exec (.lostWriteLogAppend p) s = .next s)

/-- The HDM decoder and window moves (R404 to R406). A commit whose size and ways fit the window takes its base; any other reports the
error. A move begins by recalling; with the last recall answered and no request of the port before it, a move without a copy is done at
once, and one with a copy begins to copy; a step copies the line at the pointer, as the aperture reads and writes; the last one ends the
move. From its end DPA_BASE in force is the new one. A step that has nothing to do leaves the state. The staging aperture (R408, R409).
An access is one to device memory by the port under STAGE_CFG's ACID at DPA plus the offset, and it ends when that is done: a write that
is refused is counted, a read that is refused is aborted, and one that is not answers with the bytes. A write to a line that the DCA
holds and nobody else has business with reads back. A write while the aperture is disabled is dropped and counted, and a read is aborted.
While another access of the function waits, none is taken (R410). Parts of it rest on choices and readings of the model (log 65). -/
def Obligations.WindowsHoldBytes : Prop :=
  (∀ (s : State) (p : Fin 2) (base : BitVec 64) (size ways : Nat), s.linkUp p = true → exec (.hdmDecoderCommit p base size ways) s =
    .next (s.setPort p (if s.winSize p ≠ 0 ∧ size = s.winSize p ∧ ways = 1 then
      { s.port p with decoded := true, decErr := false, decBase := base.toNat } else { s.port p with decErr := true }))) ∧
  Executes .hdmMove .hdmMove (fun w _ _ => w) (fun s q w =>
    (w.port (q.index / 0x200 % 2)).move = { phase := 1, copy := bit q.data 64, old := s.winBase (q.index / 0x200 % 2), new := le q.data 0 8,
                                            pointer := 0, moved := (s.port (q.index / 0x200 % 2)).move.moved } ∧
    w.cmd (portIx (q.index / 0x200 % 2) 0x2010) 1 = { state := 1 }) ∧
  (∀ (s u : State) (p : Fin 2) (m : MoveSt), m = (s.port p).move → m.phase = 1 → m.copy = false → (s.port p).held = [] → u = s.recall p →
    u.recallsOut p = false → u.toRecall p = [] → u.coh.held.any (fun w => w.port = p) = false →
    ∃ t : State, exec (.hdmMoveRecallDone p) s = .next t ∧ t.winBase p = m.new ∧ t.winSize p = s.winSize p ∧
      (t.port p).move.phase = 0 ∧ t.cmd (portIx p 0x2010) 1 = { state := 2 }) ∧
  (∀ (s u : State) (p : Fin 2) (m : MoveSt), m = (s.port p).move → m.phase = 1 → m.copy = true → (s.port p).held = [] → u = s.recall p →
    u.recallsOut p = false → u.toRecall p = [] → u.coh.held.any (fun w => w.port = p) = false →
    ∃ t : State, exec (.hdmMoveRecallDone p) s = .next t ∧
      (t.port p).move = { m with phase := 2, pointer := 0 } ∧ t.winBase p = s.winBase p) ∧
  (∀ (s u v : State) (p : Fin 2) (m : MoveSt) (b : Bytes) (q : Bool) (e e' : MemErr), m = (s.port p).move → m.phase = 2 →
    s.faults.grave = false → (s.port p).held = [] →
    (s.asJob (.move p)).devRead (.host p) (s.winAcid p) (m.old + m.pointer * 64) 64 = (u, b, q, e) →
    u.devWrite (.host p) (s.winAcid p) (m.new + m.pointer * 64) b q = (v, e') → v.coh.need = [] → v.port p = s.port p →
    ∃ t : State, exec (.hdmMoveCopyStep p) s = .next (t.endJob (.move p)) ∧ t.shelves = v.shelves ∧ t.coh = v.coh ∧
      (if m.pointer + 1 = v.winSize p / 64 then (t.port p).move = { m with phase := 0, pointer := m.pointer + 1, moved := some m.new } ∧
          t.winBase p = m.new ∧ t.cmd (portIx p 0x2010) 1 = { state := 2 }
        else (t.port p).move = { m with pointer := m.pointer + 1 } ∧ t.winBase p = v.winBase p)) ∧
  (∀ (s : State) (p : Fin 2), ((s.port p).move.phase ≠ 1 → exec (.hdmMoveRecallDone p) s = .next s) ∧
    ((s.port p).move.phase ≠ 2 → exec (.hdmMoveCopyStep p) s = .next s)) ∧
  (∀ (s u : State) (p : Fin 2) (off : BitVec 32) (data : Bytes) (e : MemErr), s.linkUp p = true → s.stageOn p = true → s.faults.grave = false →
    (∀ c, (s.port p).stage = some c → c = { write := true, off := off.toNat, len := data.length, data := data }) →
    (s.asJob (.stage p)).writeAt (.host p) (s.stageN p 8 2 % 4096) (.dev (s.stageN p 0 8 + off.toNat)) data = (u, e) → u.coh.need = [] →
    ∃ t : State, t = (if e = .none then u else u.portCount p 6).endJob (.stage p) ∧
      exec (.stagingApertureWrite p off data) s = .next (t.setPort p { t.port p with stage := none })) ∧
  (∀ (s u : State) (p : Fin 2) (off : BitVec 32) (n : Nat) (b : Bytes) (q : Bool) (e : MemErr), s.linkUp p = true → s.stageOn p = true →
    (∀ c, (s.port p).stage = some c → c = { off := off.toNat, len := n }) →
    (s.asJob (.stage p)).readAt (.host p) (s.stageN p 8 2 % 4096) (.dev (s.stageN p 0 8 + off.toNat)) n = (u, b, q, e) → u.coh.need = [] →
    ∃ t : State, t = (u.emit (if e = .none then .barRsp p (some b) q else .barRsp p none false)).endJob (.stage p) ∧
      exec (.stagingApertureRead p off n) s = .next (t.setPort p { t.port p with stage := none })) ∧
  (∀ (s : State) (p : Fin 2) (off : BitVec 32) (data : Bytes) (a k : Nat) (x : Way), s.linkUp p = true → s.stageOn p = true →
    s.faults.grave = false → s.coh.need = [] → (s.port p).stage = none → a = s.stageN p 0 8 + off.toNat → data ≠ [] →
    a % 64 + data.length ≤ 64 → s.ownerOk (s.stageN p 8 2 % 4096) a = true → s.lineFree (a / 64) → s.lineBusy (a / 64) = false →
    sfind (s.slice (Target.dev a).slice).victims (a / 64) = none → (s.slice (Target.dev a).slice).lookup (a / 64) = some k →
    x = (s.slice (Target.dev a).slice).way k → x.data.length = 64 → s.coh.eng.any (fun e => e.job = .stage p) = false →
    ∃ t u : State, exec (.stagingApertureWrite p off data) s = .next t ∧ exec (.stagingApertureRead p off data.length) t = .next u ∧
      u.out = t.out ++ [.barRsp p (some data) (x.poison && decide (data.length ≠ 64))] ∧
      (t.slice (Target.dev a).slice).way k = { x with st := .ml, data := patch x.data (a % 64) data,
                                                      poison := x.poison && decide (data.length ≠ 64) }) ∧
  (∀ (s : State) (p : Fin 2) (off : BitVec 32) (data : Bytes), s.linkUp p = true → s.stageOn p = false →
    exec (.stagingApertureWrite p off data) s = .next (s.portCount p 6)) ∧
  (∀ (s : State) (p : Fin 2) (off : BitVec 32) (n : Nat), s.linkUp p = true → s.stageOn p = false →
    exec (.stagingApertureRead p off n) s = .next (s.emit (.barRsp p none false))) ∧
  (∀ (s : State) (p : Fin 2) (off : BitVec 32) (data : Bytes) (n : Nat) (c : StageReq), s.linkUp p = true → s.stageOn p = true →
    s.faults.grave = false → (s.port p).stage = some c →
    (c ≠ { write := true, off := off.toNat, len := data.length, data := data } → exec (.stagingApertureWrite p off data) s = .next s) ∧
    (c ≠ { off := off.toNat, len := n } → exec (.stagingApertureRead p off n) s = .next s))

/-- Links (R394 to R396, R402, R415, R466, R470). A fitted port that is down comes up in a legal mode with the host's configuration, and
configuration space answers with the part's identification, the window's size and the ROM word that the host selects; with no such port
or mode, nothing happens; on a link that is up the host configures the function anew. A recovery that loses nothing counts itself and its
replays; the link, the caches, the queues and the tiles are as before. L1 and D-states are held, and the write that enters D3hot waits
for the stores to the port. Interrupts and the DOE mailbox (R397, R398, R402). A vector that is unmasked while it was pending is sent,
once, where MSI-X and Bus Master Enable are on, and is pending no more; one that was not is unmasked alone. A request for measurements,
or for CDAT, is answered with them; a key exchange and its finish open a session, and END_SESSION closes it; on a link that is down
nothing is answered. Parts of it rest on choices and readings of the model (log 7, 63 and 64). -/
def Obligations.LinksTrainAndAnswer : Prop :=
  (∀ (s : State) (p : Fin 2) (rate : Fin 5) (width : Nat) (flit : Fin 3) (c : HostCfg), s.linkUp p = false → s.pcs.phase ≠ 0 → s.pcs.blk ≠ 3 →
    s.portFitted p = true → linkModeOk rate width flit = true → ∃ t : State, exec (.hostLinkUp p rate width flit c) s = .next t ∧
      t = (s.setPort p (t.port p)).emit (.config p
        { ident := s.pcs.ident, range1 := s.winSize p, romHead := capRom.take 64, romOffset := 4 * c.rom.toNat,
          romData := bytesAt capRom (4 * c.rom.toNat) 4 }) ∧
      (t.port p).perst = false ∧ (t.port p).romOffset = 4 * c.rom.toNat ∧ (t.port p).link = 2 ∧ (t.port p).rate = rate ∧ (t.port p).width = width ∧ (t.port p).flit = flit ∧
      (t.port p).bme = c.bme ∧ (t.port p).memEn = c.mem ∧ (t.port p).cacheEn = c.cache ∧ (t.port p).msix = c.msix ∧ (t.port p).ide = c.ide) ∧
  (∀ (s : State) (p : Fin 2) (rate : Fin 5) (width : Nat) (flit : Fin 3) (c : HostCfg), s.linkUp p = false →
    (s.pcs.phase = 0 ∨ s.portFitted p = false ∨ linkModeOk rate width flit = false) → exec (.hostLinkUp p rate width flit c) s = .next s) ∧
  (∀ (s : State) (p : Fin 2) (rate : Fin 5) (width : Nat) (flit : Fin 3) (c : HostCfg), s.linkUp p = true → (s.port p).flrAt = none →
    ∃ t : State, exec (.hostLinkUp p rate width flit c) s = .next t ∧ (t.port p).link = (s.port p).link ∧ (t.port p).bme = c.bme ∧
      (t.port p).memEn = c.mem ∧ (t.port p).cacheEn = c.cache ∧ (t.port p).msix = c.msix ∧ (t.port p).ide = c.ide) ∧
  (∀ (s : State) (p : Fin 2) (n : Nat), s.linkUp p = true → ∃ t : State, exec (.linkRecovery p n false) s = .next t ∧
    s.counts t (portIx p 0x2000) 1 1 ∧ s.counts t (portIx p 0x2000) 1 0 n ∧ (t.port p).link = (s.port p).link ∧ t.coh = s.coh ∧
    t.sqe = s.sqe ∧ t.tiles = s.tiles) ∧
  (∀ (s : State) (p : Fin 2) (l : Fin 3), s.linkUp p = true → exec (.linkL1Change p l) s =
    .next (s.setPort p { s.port p with l1 := l, link := if l.val = 0 then 2 else 4 })) ∧
  (∀ (s : State) (p : Fin 2) (e : Bool), s.linkUp p = true → exec (.d3hotEntry p e) s = .next (s.setPort p (if s.storesDrained p then
    { s.port p with pmeEn := e, dstate := 3, d3req := false } else { s.port p with pmeEn := e, d3req := true }))) ∧
  (∀ (s : State) (p : Fin 2) (e : Bool), s.linkUp p = true → exec (.d0Return p e) s =
    .next (s.setPort p { s.port p with dstate := 0, d3req := false, pmeEn := e })) ∧
  (∀ (s : State) (p : Fin 2) (v : Fin 256), s.linkUp p = true → sget false (s.port p).pend v = true → (s.port p).bme = true →
    (s.port p).msix = true → ∃ t : State, exec (.msixVectorUnmask p v) s = .next t ∧ t.out = s.out ++ [.irq p v] ∧
      sget false (t.port p).pend v = false ∧ sget false (t.port p).unmasked v = true) ∧
  (∀ (s : State) (p : Fin 2) (v : Fin 256), s.linkUp p = true → sget false (s.port p).pend v = false →
    ∃ t : State, exec (.msixVectorUnmask p v) s = .next t ∧ t.out = s.out ∧ sget false (t.port p).unmasked v = true) ∧
  (∀ (s : State) (p : Fin 2) (b : Bytes), s.linkUp p = true →
    exec (.spdmRequest p (.spdm .getMeasurements b)) s = .next (s.emit (.doe p s.measurements)) ∧
    exec (.spdmRequest p .cdat) s = .next (s.emit (.doe p (s.cdat p))) ∧
    (∃ t : State, exec (.spdmRequest p (.spdm .keyExchange b)) s = .next t ∧ t.port p = { s.port p with spdm := 1 }) ∧
    ((s.port p).spdm = 1 → ∃ t : State, exec (.spdmRequest p (.spdm .finish b)) s = .next t ∧
      t.port p = { s.port p with session := true, spdm := 0 }) ∧
    (∃ t : State, exec (.spdmRequest p (.spdm .endSession b)) s = .next t ∧ t.port p = { s.port p with session := false })) ∧
  (∀ (s : State) (p : Fin 2) (v : Fin 256) (q : DoeReq), s.linkUp p = false →
    exec (.msixVectorUnmask p v) s = .next s ∧ exec (.spdmRequest p q) s = .next s)

/-! ### Chapter 15: the Golo fabric and global time -/

/-- Links (R433, R434, R455). Sixteen replays, or 10 µs without an ACK, retrain the link; a retrained link comes up with nothing lost,
and one that does not in time goes DOWN; a link that trains afresh begins anew, held. The spare lane takes the place of one that lost
lock, and a second loss takes the port DOWN; LANE_SPARE swaps by command; a recalibration runs each of the eight lanes to the spare and
back, which counts as sixteen swaps. Ports (R433, R454 to R456). A port whose link was up goes DOWN with its entries held and a
LINK_QUERY to the neighbour, and counts; PORT_RESET does the same by command. The button is latched; a module that leaves takes the port
DOWN; HP_CTL switches the slot's power, and training starts 100 ms after it. Parts of it rest on choices and readings of the model (log
10 and 69). -/
def Obligations.PortsChangeState : Prop :=
  (∀ (s : State) (p : Fin 6), (s.fport p).state = fpUp →
    (16 ≤ (s.fport p).replays ∨ ((s.fport p).inFlight ≠ 0 ∧ 10000 ≤ since s.now (s.fport p).ackAt)) →
    ∃ t : State, exec (.linkRetrain p) s = .next t ∧
      t.fport p = { s.fport p with retrainAt := s.now, state := fpRetrain, changed := s.now } ∧ s.counts t (fportIx p) 2 3) ∧
  (∀ (s : State) (p : Fin 6), (s.fport p).state = fpRetrain → s.retrainLimit ≤ since s.now (s.fport p).retrainAt →
    ∃ t : State, exec (.retrainLimitExpiry p) s = .next t ∧ (t.fport p).state = fpDown ∧ s.counts t (fportIx p) 2 4) ∧
  (∀ (s : State) (p : Fin 6), (s.fport p).state = fpRetrain → since s.now (s.fport p).retrainAt < s.retrainLimit →
    exec (.retrainLimitExpiry p) s = .next s) ∧
  (∀ (s : State) (p n : Fin 6) (node delay : BitVec 16), (s.fport p).state = fpRetrain →
    ∃ w : State, exec (.portTrained p node n delay) s = .next (w.resend p (s.fport p).txAck) ∧
      w.fport p = { s.fport p with replays := 0, ackAt := s.now, state := fpUp, changed := s.now }) ∧
  (∀ (s : State) (p n : Fin 6) (node delay : BitVec 16), ((s.fport p).state = fpTraining ∨ (s.fport p).state = fpDown) →
    s.fenabled p = true → (s.fport p).pwren = true → (s.fport p).holdTill = none →
    ∃ t : State, exec (.portTrained p node n delay) s = .next t ∧ (t.fport p).state = fpUp ∧ (t.fport p).nbrNode = node.toNat ∧
      (t.fport p).nbrPort = n ∧ (t.fport p).delay = delay.toNat ∧ (t.fport p).txSeq = 0xFFF ∧ (t.fport p).rxSeq = 0xFFF ∧
      (t.fport p).replay = [] ∧ (t.fport p).spent = [] ∧ (t.fport p).holdTill = some (s.now + s.failHold)) ∧
  (∀ (s : State) (p : Fin 6) (l : Fin 8), ((s.fport p).state = fpUp ∨ (s.fport p).state = fpRetrain) →
    ((s.fport p).spare = none → ∃ t : State, exec (.laneLossOfLock p l) s = .next t ∧ (t.fport p).spare = some l.val ∧
      (t.fport p).failed = true ∧ s.counts t (fportIx p) 2 5) ∧
    ((s.fport p).spare ≠ none → ∃ t : State, exec (.laneLossOfLock p l) s = .next t ∧ (t.fport p).state = fpDown)) ∧
  (∀ (s : State) (p : Fin 6), (s.fport p).state = fpUp → (s.fport p).spare = none →
    1000000000 * s.fcfg p 4 4 ≤ since s.now (s.fport p).recalAt → ∃ t : State, exec (.laneRecalDue p) s = .next t ∧
      t.fport p = { s.fport p with recalAt := s.now } ∧ s.counts t (fportIx p) 2 5 16) ∧
  Executes .laneSpare .laneSpare State.cmdDone (fun s q w =>
    (w.fport (q.index / 0x100 - 0x81)).spare = some (le q.data 0 1) ∧ (w.fport (q.index / 0x100 - 0x81)).failed = false ∧
    s.counts w (fportIx (q.index / 0x100 - 0x81)) 2 5) ∧
  (∀ (s : State) (p : Fin 6), ((s.fport p).state = fpUp ∨ (s.fport p).state = fpRetrain) →
    ∃ t : State, exec (.portDown p) s = .next t ∧ (t.fport p).state = fpDown ∧ (t.fport p).holdTill = some (s.now + s.failHold) ∧
      (t.fport p).query = 1 ∧ (t.fport p).replay = (s.fport p).replay ∧ s.counts t (fportIx p) 2 4 ∧
      ∃ k w, sfind t.fab.msgs k = some w ∧ w.msg.op = 0xE ∧ w.msg.subtype = 3 ∧ w.msg.dst = BitVec.ofNat 16 (s.fport p).nbrNode) ∧
  Executes .portReset .portReset State.cmdDone (fun s q w => ∀ p, p = q.index / 0x100 - 0x81 → (s.fport p).state = fpUp →
    (w.fport p).state = fpDown ∧ (w.fport p).holdTill = some (s.now + s.failHold) ∧ s.counts w (fportIx p) 2 4) ∧
  (∀ (s : State) (p : Fin 6), s.pcs.cold = false → ∃ t : State, exec (.attnButtonPress p) s = .next t ∧
    t.fport p = { s.fport p with button := true } ∧ ((s.hpCtl p).testBit 5 = true → (t.faultInst uFab p).status.getLsbD 2 = true)) ∧
  (∀ (s : State) (p : Fin 6), s.pcs.cold = false → (s.fport p).present = true → (s.fport p).state = fpUp →
    ∃ t : State, exec (.presenceChange p false) s = .next t ∧ (t.fport p).present = false ∧ (t.fport p).presChg = true ∧
      (t.fport p).state = fpDown) ∧
  (∀ (s : State) (p : Fin 6) (v : Bool), (s.fport p).present = v → exec (.presenceChange p v) s = .next s) ∧
  Puts .hpCtlWrite .hpCtl (fun _ q w => w.rd q.index q.sub = q.data ∧
    (w.fport (q.index / 0x100 - 0x81)).pwren = (le q.data 0 1).testBit 0) ∧
  (∀ (s : State) (p : Fin 6), (s.fport p).state = fpPowering → (s.fport p).pwren = true →
    100000000 ≤ since s.now (s.fport p).pwrenAt →
    exec (.pwrenTrainingStart p) s = .next (s.setFport p { s.fport p with state := fpTraining, changed := s.now })) ∧
  (∀ (s : State) (p : Fin 6), since s.now (s.fport p).pwrenAt < 100000000 → exec (.pwrenTrainingStart p) s = .next s)

/-- Flits (R432). A good flit in order moves the receiver's SEQ, and its ACK frees what it acknowledges; a message for another node waits
at the router under the port it came on. A data flit out of order changes nothing. A damaged one is counted, and answered with a NAK of
the last good SEQ. A NAK from the neighbour counts a replay. After 32 flits the ACK leaves, with the credits owed. Forwarding (R429 to
R431, R435 to R439). A message that may leave through the port of its route, whose channel it is that the port serves next, leaves in the
class the port gives it, and its flits count; with no credits or replay room it stays, and the port counts a stall; a held one stays; a
request that has no way is answered with a NAK, and anything else is dropped and counted. A request that is stale by its stamp is
discarded and counted, and so is one that has waited 50 µs here. Parts of it rest on choices and readings of the model (log 10 and 68). -/
def Obligations.FlitsAndMessages : Prop :=
  (∀ (s : State) (p : Fin 6) (f : Flit) (m : FabMsg) (x : FabPort), x = s.fport p → x.state = fpUp → f.ok = true → f.kind.toNat = 0 →
    f.seq.toNat = (x.rxSeq + 1) % 4096 → f.corrected = [] → f.msgs = [m] → m.dst ≠ s.node → m.op.toNat ≤ 0xA →
    ∃ t : State, exec (.flitReceive p f .clean) s = .next t ∧ (t.fport p).rxSeq = f.seq.toNat ∧ (t.fport p).rxEnd = f.seq.toNat ∧
      (t.fport p).rxSince = x.rxSince + 1 ∧ (t.fport p).txAck = (if seqIn x.txAck x.txSeq f.ack.toNat then f.ack.toNat else x.txAck) ∧
      (t.fport p).replay = (if seqIn x.txAck x.txSeq f.ack.toNat then x.replay.filter (fun y => !seqIn x.txAck f.ack.toNat y.seq) else x.replay) ∧
      sfind t.fab.msgs s.nextId = some { msg := m, src := some p.val, since := s.now } ∧ t.out = s.out) ∧
  (∀ (s : State) (p : Fin 6) (f : Flit), (s.fport p).state = fpUp → f.ok = true → f.kind.toNat = 0 →
    f.seq.toNat ≠ ((s.fport p).rxSeq + 1) % 4096 → exec (.flitReceive p f .clean) s = .next s) ∧
  (∀ (s : State) (p : Fin 6) (f : Flit), (s.fport p).state = fpUp → f.ok = false →
    exec (.flitReceive p f .clean) s = .next ((s.fportCount p 2).emit (.flitNak p (s.fport p).rxSeq))) ∧
  (∀ (s : State) (p : Fin 6) (f : Flit), (s.fport p).state = fpUp → f.ok = true → f.kind.toNat = 2 → f.corrected = [] →
    ∃ w : State, exec (.flitReceive p f .clean) s = .next (w.resend p f.ack.toNat) ∧ s.counts w (fportIx p) 2 1 ∧
      ∀ r ∈ (w.fport p).replay, r ∈ (s.fport p).replay) ∧
  (∀ (s : State) (p : Fin 6), (s.fport p).state = fpUp → 32 ≤ (s.fport p).rxSince → ∃ t : State, exec (.flitAckDue p) s = .next t ∧
    t.out = s.out ++ [.flitAck p (s.fport p).rxSeq (s.creditsOut p)] ∧ (t.fport p).rxSince = 0) ∧
  (∀ (s : State) (k p : Nat) (w : Waiting) (c : Bool) (m : FabMsg), sfind s.fab.msgs k = some w → w.msg.op ≠ 0xF → w.msg.dst ≠ s.node →
    (w.msg.isReq = true → s.staleSent w.msg.sent = false) → s.hopOf w = .port p c → s.mayExit k w (p, c) = true → s.nextVc p = w.msg.vc →
    p < 6 → m = s.leaving p c w.msg →
    ∃ t : State, exec (.gfrForward k .clean) s = .next t ∧ sfind t.fab.msgs k = none ∧ s.counts t (fportIx p) 2 0 m.flits ∧
      t.out = s.out ++ [.fabSend p (((s.fport p).txSeq + m.flits) % 4096) (s.fport p).rxSeq (s.creditsOut p) m] ∧
      (t.fport p).txSeq = ((s.fport p).txSeq + m.flits) % 4096 ∧
      sget 0 (t.fport p).spent m.cls = sget 0 (s.fport p).spent m.cls + m.units) ∧
  (∀ (s : State) (k : Nat) (w : Waiting), sfind s.fab.msgs k = some w → w.msg.op ≠ 0xF → w.msg.dst ≠ s.node →
    (w.msg.isReq = true → s.staleSent w.msg.sent = false) →
    (∀ p c, s.hopOf w = .port p c → s.hasRoom p (s.leaving p c w.msg) = false →
      exec (.gfrForward k .clean) s = .next (s.fportCount p 7)) ∧
    (s.hopOf w = .held → exec (.gfrForward k .clean) s = .next s) ∧
    (s.hopOf w = .nowhere → exec (.gfrForward k .clean) s = .next (if w.msg.isReq then (s.dropMsg k).fabAnswer w.msg 0xA 2 false 0 []
      else (s.dropMsg k).gfrCount 1))) ∧
  (∀ (s : State) (k : Nat) (w : Waiting), sfind s.fab.msgs k = some w → w.msg.isReq = true → w.msg.dst ≠ s.node →
    s.staleSent w.msg.sent = true → ∃ t : State, exec (.gfrForward k .clean) s = .next t ∧ sfind t.fab.msgs k = none ∧
      s.counts t 0x8000 3 0) ∧
  (∀ (s : State) (k : Nat) (w : Waiting), sfind s.fab.msgs k = some w → w.msg.isReq = true → 50000 ≤ since s.now w.since →
    ∃ t : State, exec (.gfrStaleDiscard k) s = .next t ∧ sfind t.fab.msgs k = none ∧ s.counts t 0x8000 3 0) ∧
  (∀ (s : State) (k : Nat) (w : Waiting), sfind s.fab.msgs k = some w → since s.now w.since < 50000 →
    exec (.gfrStaleDiscard k) s = .next s)

/-- Requests and responses at their device (R423, R424, R440, R441). A read of one line that the window it met on arrival admits goes to
the line's home slice under the window's ACID, and waits there; one that the window does not admit is answered with a NAK, and counted; a
request of another form than Table 15.4's is answered with a NAK of status 3; a stale one is discarded and counted. A response completes
the request of its tag; a NAK ends it with OWNER; without the tag a response is late. Parts of it rest on choices and readings of the
model (log 70). -/
def Obligations.RemoteRequestsServe : Prop :=
  (∀ (s v : State) (k a : Nat) (m : FabMsg) (w : Waiting) (r : MemReq), sfind s.fab.msgs k = some w → s.localMsg k = some m → m.op = 0 →
    s.faults.grave = false → s.staleSent m.sent = false → m.formed = true → m.admitted w.win = true →
    a = wnBase w.win + m.addr.toNat % 2 ^ 36 → a % 64 + m.len ≤ 64 → v = (s.dropMsg k).wakeUp →
    r = { id := v.nextId, src := .fabric m.src.toNat (2 * (a / 2 ^ v.resGranule)), acid := wnAcid w.win, op := .read, tgt := .dev a,
          len := m.len, issued := v.now, sent := some m.sent, gran := v.resGranule } →
    ∃ t : State, exec (.fabricRequestReceive k) s = .next t ∧
      (t.slice (Target.dev a).slice).inq = (v.slice (Target.dev a).slice).inq ++ [r] ∧
      sfind t.fab.inbound (v.nextId + 1) = some { msg := m, lines := [v.nextId] }) ∧
  (∀ (s : State) (k : Nat) (m : FabMsg) (w : Waiting), sfind s.fab.msgs k = some w → s.localMsg k = some m → m.op.toNat < 5 →
    s.faults.grave = false →
    (s.staleSent m.sent = true → exec (.fabricRequestReceive k) s = .next ((s.dropMsg k).countStale m)) ∧
    (s.staleSent m.sent = false → m.formed = false →
      exec (.fabricRequestReceive k) s = .next ((s.dropMsg k).fabAnswer m 0xA 3 false 0 [])) ∧
    (s.staleSent m.sent = false → m.formed = true → m.admitted w.win = false →
      exec (.fabricRequestReceive k) s = .next (((s.dropMsg k).bump 0x4000 1 6).fabAnswer m 0xA 1 false 0 []))) ∧
  (∀ (s : State) (k id : Nat) (m : FabMsg), s.localMsg k = some m → m.op = 6 → sfind s.fab.tags m.tag.toNat = some (.mem id .read) →
    ∃ t : State, exec (.fabricResponseReceive k) s = .next t ∧ t.fab.tags = sdel s.fab.tags m.tag.toNat ∧
      t.answers id { performed := true, data := m.payload, poison := m.poison }) ∧
  (∀ (s : State) (k id : Nat) (m : FabMsg), s.localMsg k = some m → m.op = 0xA → sfind s.fab.tags m.tag.toNat = some (.mem id .read) →
    ∃ t : State, exec (.fabricResponseReceive k) s = .next t ∧ t.fab.tags = sdel s.fab.tags m.tag.toNat ∧
      t.answers id { performed := true, err := .owner }) ∧
  (∀ (s : State) (k : Nat) (m : FabMsg), s.localMsg k = some m → m.isRsp = true → m.op ≠ 9 → sfind s.fab.tags m.tag.toNat = none →
    ∃ t : State, exec (.fabricResponseReceive k) s = .next t ∧ s.counts t 0x8000 3 3 ∧ sfind t.fab.msgs k = none)

/-- Failover (R437). A query is answered with the SEQ of the last whole message, to the neighbour of the link only; a valid reply is
kept; a query without its answer in time gives up what was unacknowledged, and counts it. After the hold the entries return, and an
unacknowledged message (but a TIME message) that the neighbour does not hold goes again, before what waits. Broadcasts (R390, R444,
R445). An ANNOUNCE of another node is noted with its instant and waits to be forwarded on its port's mask; an unknown subtype is dropped
and counted; each second this device announces itself; a node not heard for 3 s is forgotten. Counter mode is forced while more than 256
nodes are within reach. Parts of it rest on choices and readings of the model (log 10, 68 and 69). -/
def Obligations.FailoverAndReach : Prop :=
  (∀ (s : State) (src : BitVec 16) (p : Fin 6), exec (.linkQueryReceive src p) s = .next (s.unicast src 4
    (natLe (s.fport p).nbrPort 1 ++ (if (s.fport p).nbrNode = src.toNat then natLe 1 1 ++ natLe (s.fport p).rxEnd 2
      else natLe 0 1 ++ natLe 0 2)))) ∧
  (∀ (s : State) (p : Fin 6) (seq : BitVec 12), (s.fport p).query = 1 →
    exec (.linkReplyReceive p true seq) s = .next (s.setFport p { s.fport p with query := 2, reply := seq.toNat }) ∧
    exec (.linkReplyReceive p false seq) s = .next s) ∧
  (∀ (s : State) (p : Fin 6), (s.fport p).query = 1 → s.lqTimeout ≤ since s.now (s.fport p).queryAt → (s.fport p).replay ≠ [] →
    ∃ t : State, exec (.lqTimeout p) s = .next t ∧ t.fport p = { s.fport p with query := 3, replay := [] } ∧
      s.counts t 0x8000 3 2 (s.fport p).replay.length) ∧
  (∀ (s : State) (p : Fin 6) (h : Nat), (s.fport p).holdTill = some h → h ≤ s.now → (s.fport p).query = 0 →
    exec (.failoverHoldExpiry p) s = .next (s.setFport p { s.fport p with
      holdTill := none, query := 0, replay := if (s.fport p).state = fpDown then [] else (s.fport p).replay })) ∧
  (∀ (s : State) (p : Fin 6) (h : Nat) (r : Sent), (s.fport p).holdTill = some h → h ≤ s.now → (s.fport p).query = 2 →
    (s.fport p).replay = [r] → r.msg.cls ≠ 5 → r.seq < 4096 → (s.fport p).reply < 4096 → r.seq ≠ (s.fport p).reply →
    (4096 + r.seq - (s.fport p).reply) % 4096 ≤ 2048 →
    ∃ t : State, exec (.failoverHoldExpiry p) s = .next t ∧ (t.fport p).holdTill = none ∧
      sfind t.fab.msgs s.nextId = some { msg := { r.msg with dl := r.dl }, first := true, since := s.now } ∧
      ∀ x ∈ t.fab.msgs, s.nextId ≤ x.1) ∧
  (∀ (s : State) (p : Fin 6) (h : Nat), (s.fport p).holdTill = some h → s.now < h → exec (.failoverHoldExpiry p) s = .next s) ∧
  (∀ (s : State) (p : Fin 6) (src : BitVec 16) (b : Bytes), (s.fport p).state = fpUp → src ≠ s.node →
    ∃ t : State, exec (.mgtBroadcastReceive p src 0x11 b) s = .next t ∧ sfind t.fab.heard src.toNat = some s.now ∧
      (∃ w, sfind t.fab.msgs s.nextId = some w ∧ w.via = p ∧ w.msg.op = 0xF ∧ w.msg.payload = b) ∧
      t.mtu.forced = decide (256 < t.reachNodes)) ∧
  (∀ (s : State) (p : Fin 6) (src : BitVec 16) (b : Bytes) (k : BitVec 8), (s.fport p).state = fpUp → k ≠ 0x10 → k ≠ 0x11 →
    exec (.mgtBroadcastReceive p src k b) s = .next (s.gfrCount 4)) ∧
  (∀ (s : State), 1000000000 ≤ since s.now s.fab.annAt → ∃ t : State, exec .announce s = .next t ∧ t.fab.annAt = s.now ∧
    ∃ w, sfind t.fab.msgs s.nextId = some w ∧ w.msg.op = 0xF ∧ w.msg.src = s.node ∧ w.msg.subtype = 0x11) ∧
  (∀ (s : State), since s.now s.fab.annAt < 1000000000 → exec .announce s = .next s) ∧
  (∀ (s : State) (n : BitVec 16) (h : Nat), sfind s.fab.heard n.toNat = some h → 3000000000 < since s.now h →
    ∃ t : State, exec (.reachNodeExpiry n) s = .next t ∧ t.fab.heard = sdel s.fab.heard n.toNat ∧
      t.mtu.forced = decide (256 < t.reachNodes)) ∧
  (∀ (s : State) (n : BitVec 16) (h : Nat), sfind s.fab.heard n.toNat = some h → since s.now h ≤ 3000000000 →
    exec (.reachNodeExpiry n) s = .next s)

/-- Global time (R448 to R451). SYNC leaves on a served port at its interval, stamped, where the port has room for it; its receiver keeps
t1 and t2 and asks at t3; the request's arrival goes back; the answer completes the exchange, with the offset and delay of the four
stamps, one that shows the count behind in the states that step moves it forward, and the state follows. Without an exchange for four
intervals the count holds over. A grandmaster with GM_PPS whose count is behind the second aligns it, and the pulse is high for 1 µs of
each second. (What a TIME message carries beside its stamp is laid out by the model: log 102; the state after an exchange: log 27.) Parts
of it rest on choices and readings of the model (log 10, 27 and 28). -/
def Obligations.TimeIsExchanged : Prop :=
  (∀ (s : State) (p : Fin 6) (x : FabPort) (t1 : Nat), x = s.fport p → t1 = s.now + s.txFixed p → s.timeRole p = 2 → x.state = fpUp →
    s.syncInterval ≤ since s.now x.t1 → s.timeRoom p 0 t1 = true → ∃ t : State, exec (.syncSend p) s = .next t ∧ (t.fport p).t1 = t1 ∧
      t.out = s.out ++ [.fabSend p ((x.txSeq + 1) % 4096) x.rxSeq (s.creditsOut p) (s.timeMsg p 0 t1)]) ∧
  (∀ (s : State) (p : Fin 6) (x : FabPort) (t1 t2 : BitVec 64) (t3 : Nat), x = s.fport p → t3 = s.now + s.txFixed p → s.timeRole p = 1 →
    x.state = fpUp → s.timeRoom p 1 t3 = true → ∃ t : State, exec (.syncReceive p t1 t2) s = .next t ∧ (t.fport p).t1 = t1.toNat ∧
      (t.fport p).t2 = t2.toNat - s.rxFixed p ∧ (t.fport p).t3 = t3 ∧ (t.fport p).exch = true ∧
      t.out = s.out ++ [.fabSend p ((x.txSeq + 1) % 4096) x.rxSeq (s.creditsOut p) (s.timeMsg p 1 t3)]) ∧
  (∀ (s : State) (p : Fin 6) (x : FabPort) (t4 : BitVec 64) (at_ : Nat), x = s.fport p → at_ = t4.toNat - s.rxFixed p → s.timeRole p = 2 →
    x.state = fpUp → s.timeRoom p 2 at_ = true → ∃ t : State, exec (.delayReqReceive p t4) s = .next t ∧
      t.out = s.out ++ [.fabSend p ((x.txSeq + 1) % 4096) x.rxSeq (s.creditsOut p) (s.timeMsg p 2 at_)]) ∧
  (∀ (s : State) (p : Fin 6) (t4 : BitVec 64) (hops : Nat) (gm : BitVec 16) (x : FabPort) (off : Int), x = s.fport p → s.timeRole p = 1 →
    x.state = fpUp → x.exch = true → s.isGm = false → off = timeOffset x.t1 x.t2 x.t3 t4.toNat →
    ∃ t : State, exec (.delayRspReceive p t4 hops gm) s = .next t ∧ t.gtc.offset = off ∧ t.gtc.hops = hops + 1 ∧ t.gtc.gm = gm.toNat ∧
      t.gtc.delay = timeDelay x.t1 x.t2 x.t3 t4.toNat ∧ t.gtc.good = (if off.natAbs < 5 then s.gtc.good + 1 else 0) ∧
      t.fport p = { x with exch := false } ∧ s.counts t 0x9800 3 0 ∧ t.gtc.state = gtcAfter s.gtc.state t.gtc.good off ∧
      t.gtc.lastAt = t.now ∧
      t.gtc.count = (if off < 0 ∧ (s.gtc.state = gtcFree ∨ s.gtc.state = gtcAcquiring ∨
        (s.gtc.state = gtcHoldover ∧ s.stepLimit < off.natAbs)) then s.gtc.count + BitVec.ofNat 64 off.natAbs else s.gtc.count)) ∧
  (∀ (s : State), s.isGm = false → s.gtc.state ≠ gtcFree → s.gtc.state ≠ gtcHoldover → 4 * s.syncInterval ≤ since s.now s.gtc.lastAt →
    ∃ t : State, exec .holdover s = .next t ∧ t.gtc = { s.gtc with state := gtcHoldover, good := 0 } ∧ s.counts t 0x9800 3 2) ∧
  (∀ (s : State) (m : Nat), s.isGm = true → s.gmPps = true → m = 1000000000 * ((500000000 + s.now) / 1000000000) → s.now < m → m < 2 ^ 64 →
    ∃ t : State, exec .timepulseInEdge s = .next t ∧ t.gtc.count = BitVec.ofNat 64 m ∧ s.counts t 0x9800 3 1) ∧
  (∀ (s : State), decide (s.now % 1000000000 < 1000) ≠ s.gtc.pulse → ∃ t : State, exec .timepulseOut s = .next t ∧
    t.gtc = { s.gtc with pulse := decide (s.now % 1000000000 < 1000) } ∧
    t.out = s.out ++ [.pin "TIMEPULSE_OUT" (b2n (decide (s.now % 1000000000 < 1000)))]) ∧
  (∀ (s : State), decide (s.now % 1000000000 < 1000) = s.gtc.pulse → exec .timepulseOut s = .next s)

/-! ### Chapter 16: power, clocks and reset -/

/-- Operating points (R462 to R465, R481, R483). The largest code in force holds at once: a rise of a limit lowers the point and makes
the admission test due; a fall asks for the rail first. VF_ACK asks for the clock where a rise of the point waits for it; the clock's
acknowledgement changes the point, and counts; a missing VF_ACK leaves it. The thermal code follows the sensors: 2 from 105 °C, 0 again
below 95 °C; 95 °C warns. CAP_POINT holds its value, and the point is no lower a code. The due test drops the classes that no longer fit,
and counts them. Parts of it rest on choices and readings of the model (log 10 and 71). -/
def Obligations.PointsFollowLimits : Prop :=
  (∀ (s : State) (code : BitVec 2), ∃ t : State, exec (.vfLimitChange code) s = .next t ∧ t.pcs.vfLimit = min 2 code.toNat ∧
    t.pcs.point = max s.pcs.point (max s.capPoint (max (min 2 code.toNat) s.pcs.thermal)) ∧
    (s.pcs.point < max s.capPoint (max (min 2 code.toNat) s.pcs.thermal) → t.pcs.testDue = some 2 ∧ .arith ∈ t.pcs.clkReq) ∧
    (max s.capPoint (max (min 2 code.toNat) s.pcs.thermal) < s.pcs.point → s.pcs.raising = false → t.pcs.vfWait = true ∧
      t.pcs.vfReq = max s.capPoint (max (min 2 code.toNat) s.pcs.thermal))) ∧
  (∀ (s : State) (i : Fin 17) (v : BitVec 16), 840 ≤ v.toInt → s.pcs.thermal = 0 → ∃ t : State,
    exec (.thermalLimitChange i v) s = .next t ∧ t.pcs.thermal = 2 ∧ 2 ≤ t.pcs.point ∧ t.sensor i = v ∧
    (t.faultInst uPcs 0).status.getLsbD 1 = true) ∧
  (∀ (s : State) (i : Fin 17) (v : BitVec 16), (s.sense i v).hotter 95 = false → s.pcs.thermal ≠ 0 → ∃ t : State,
    exec (.thermalLimitChange i v) s = .next t ∧ t.pcs.thermal = 0 ∧ t.sensor i = v) ∧
  (∀ (s : State) (i : Fin 17) (v : BitVec 16), ∃ t : State, exec (.thermalWarn i v) s = .next t ∧ t.sensor i = v ∧
    (760 ≤ v.toInt → (t.faultInst uPcs 0).status.getLsbD 0 = true) ∧
    (v.toInt < 760 → (s.sense i v).hotter 105 = false → t.faults = s.faults)) ∧
  Puts .capPointWrite .capPoint (fun _ q w => w.rd q.index q.sub = q.data ∧ le q.data 0 1 ≤ w.pcs.point) ∧
  (∀ (s : State), s.pcs.vfWait = true → ∃ t : State, exec .vfAck s = .next t ∧ t.pcs.vfWait = false ∧
    (s.pcs.raising = true → t.pcs.retune = some s.pcs.vfReq ∧ .arith ∈ t.pcs.clkReq) ∧ (s.pcs.raising = false → t.out = s.out)) ∧
  (∀ (s : State), s.pcs.vfWait = true → 500000 ≤ since s.now s.pcs.vfAt → ∃ t : State, exec .vfAckTimeout s = .next t ∧
    t.pcs.vfWait = false ∧ t.pcs.point = s.pcs.point ∧ (t.faultInst uPcs 0).status.getLsbD 5 = true) ∧
  (∀ (s : State), s.pcs.vfWait = true → since s.now s.pcs.vfAt < 500000 → exec .vfAckTimeout s = .next s) ∧
  (∀ (s : State) (n : Nat), s.pcs.clkReq.contains .arith = true → s.pcs.halted = false → s.pcs.retune = some n → ∃ t : State,
    exec (.clkAck .arith) s = .next t ∧ t.pcs.fPoint = n ∧ s.counts t 0x9006 0 5 ∧
    (s.pointWanted = n → t.pcs.point = n ∧ t.pcs.retune = none ∧ t.pcs.raising = false)) ∧
  (∀ (s : State) (cause pd : Nat) (out : List Nat) (b : List (Nat × Bound)), s.pcs.testDue = some cause → s.frozen = false →
    s.pcs.retune = none → s.admForced s.pcs.point [] s.dropOrder = (out, .pass b pd) → cause ≠ 1 → out ≠ [] → ∃ t : State,
    exec .forcedAdmissionTest s = .next t ∧ t.pcs.testDue = none ∧ (∀ c ∈ out, (t.cls c).dropped = true) ∧
    (∀ c, c ∉ out → (t.cls c).dropped = (s.cls c).dropped) ∧ s.counts t 0x9006 0 6 out.length ∧ t.sqe.inb.bound = pd) ∧
  (∀ (s : State), s.pcs.testDue = none → exec .forcedAdmissionTest s = .next s)

/-- Idle levels and rails (R466 to R469, R480). Where no level of the block can be entered, a cabinet with nothing on it for IDLE_HOLD
begins level 1, and from there, empty, level 2, whose rail is told to open; the shelves' level 3 and the mesh's level 4 begin in turn.
The end of the handshake enters the level and counts it; a wake leaves the level of the block, or a cabinet's, whose rail first closes
again. A switch's answer ends what it was told; one that does not answer takes its cabinet, or spare, out of service, where the source's
reaction says so. Parts of it rest on choices and readings of the model (log 72). -/
def Obligations.LevelsEnterAndWake : Prop :=
  (∀ (s : State) (k : Fin 12), s.frozen = false → sget 0 s.pcs.railReq k ≠ 3 →
    (s.pcs.entryBlock = 0 → (s.levelOk 4 = true → s.pcs.level = 3 → s.meshIdle = false) ∧
      (s.levelOk 3 = true → s.pcs.level = 0 → s.shelvesIdle = false)) →
    sget 0 s.pcs.entering k = 0 → s.cabIdle k = true →
    (s.levelOk 1 = true → sget 0 s.pcs.cabLevel k = 0 →
      exec (.idleEntry k) s = .next { s with pcs := { s.pcs with entering := sput s.pcs.entering k 1 } }) ∧
    (s.levelOk 2 = true → sget 0 s.pcs.cabLevel k = 1 → s.cabEmpty k = true → ∃ t : State, exec (.idleEntry k) s = .next t ∧
      sget 0 t.pcs.entering k = 2 ∧ sget 0 t.pcs.railReq k = 1)) ∧
  (∀ (s : State) (k : Fin 12), s.frozen = false → sget 0 s.pcs.railReq k ≠ 3 → s.pcs.entryBlock = 0 →
    (s.levelOk 3 = true → s.pcs.level = 0 → s.shelvesIdle = true →
      exec (.idleEntry k) s = .next { s with pcs := { s.pcs with entryBlock := 3 } }) ∧
    (s.levelOk 4 = true → s.pcs.level = 3 → s.meshIdle = true →
      exec (.idleEntry k) s = .next { s with pcs := { s.pcs with entryBlock := 4 } })) ∧
  (∀ (s : State) (k : Fin 12) (n : Nat), sget 0 s.pcs.entering k = n → n ≠ 0 → s.cabQuiet k = true → (n = 1 ∨ sget 0 s.pcs.railReq k = 2) →
    ∃ t : State, exec (.idleEntryComplete k) s = .next t ∧ sget 0 t.pcs.cabLevel k = n ∧ sget 0 t.pcs.entering k = 0 ∧
      s.counts t 0x9006 0 (n - 1)) ∧
  (∀ (s : State) (k : Fin 12), sget 0 s.pcs.entering k = 0 → s.pcs.entryBlock ≠ 0 → s.meshQuiet = true →
    s.shelvesQuiet = true → ∃ t : State,
    exec (.idleEntryComplete k) s = .next t ∧ t.pcs.level = s.pcs.entryBlock ∧ t.pcs.entryBlock = 0 ∧
      s.counts t 0x9006 0 (s.pcs.entryBlock - 1)) ∧
  (∀ (s : State), s.pcs.level ≠ 0 → ∃ t : State, exec (.wake .doorbell) s = .next t ∧ t.pcs.level = 0 ∧ t.pcs.entryBlock = 0 ∧
    s.counts t 0x9006 0 4) ∧
  (∀ (s : State) (w : WakeSource), (∀ c, w ≠ .cabinet c) → ∃ t : State, exec (.wake w) s = .next t ∧ t.pcs.level = 0 ∧ t.pcs.entryBlock = 0) ∧
  (∀ (s : State) (k : Fin 12), sget 0 s.pcs.cabLevel k = 2 → sget 0 s.pcs.railReq k = 2 → ∃ t : State,
    exec (.wake (.cabinet k)) s = .next t ∧ sget 0 t.pcs.railReq k = 3 ∧ sget 0 t.pcs.cabLevel k = 2 ∧ s.counts t 0x9006 0 4) ∧
  (∀ (s : State) (k : Fin 12), sget 0 s.pcs.cabLevel k = 1 → sget 0 s.pcs.railReq k = 0 → ∃ t : State,
    exec (.wake (.cabinet k)) s = .next t ∧ sget 0 t.pcs.cabLevel k = 0 ∧ sget 0 t.pcs.entering k = 0 ∧ s.counts t 0x9006 0 4) ∧
  (∀ (s : State) (w : Fin 16),
    (sget 0 s.pcs.railReq w = 1 → ∃ t : State, exec (.cabPswAck w) s = .next t ∧ sget 0 t.pcs.railReq w = 2) ∧
    (sget 0 s.pcs.railReq w = 3 → ∃ t : State, exec (.cabPswAck w) s = .next t ∧ sget 0 t.pcs.railReq w = 0 ∧ sget 0 t.pcs.cabLevel w = 0)) ∧
  (∀ (s : State) (w : Fin 16) (c : Nat), (sget 0 s.pcs.railReq w = 1 ∨ sget 0 s.pcs.railReq w = 3) →
    100000 ≤ since s.now (sget 0 s.pcs.railAt w) → c = (if w.val < 12 then 3 else 4) → (s.reactionOf uPcs c).testBit 3 = true →
    s.faults.resets.contains (uPcs * 256) = false → ∃ t : State, exec (.cabPswTimeout w) s = .next t ∧ sget 0 t.pcs.railReq w = 4 ∧
      (w.val < 12 → (t.cab w).out = true) ∧ (12 ≤ w.val → t.spareOf (w.val - 12) = 0xFF02))

/-- Start-up (R473 to R476). POR leaves every entry at its default and the straps sampled (the limit's pins stay as they are), and
releases the pins; the main rails' rise asks for the clocks, and with the last of them the ROM is read; a good ROM gives the identity and
goes on to the trim, which opens the dictionary and ALIVE and asks for the rails; the tiles' check replaces a failing tile by its group's
spare, and without one its cabinet stays out; trained shelves read zero, and shelf 2 is up where it is fitted and every channel has
trained; with shelf 2 filled the block is READY. A clock that does not come, a bad ROM or a lost stack halts it. Parts of it rest on
choices and readings of the model (log 57 and 73). -/
def Obligations.StartUpRuns : Prop :=
  (∀ (s : State) (straps : BitVec 64), ∃ t : State, exec (.por straps) s = .next t ∧ t.ods.store = [] ∧ t.ctr = [] ∧
    t.pcs = { straps := straps, vfLimit := s.pcs.vfLimit } ∧ t.shelves = {} ∧ t.tiles = {} ∧ t.sqe = {} ∧ t.coh = {} ∧ t.mtu = {} ∧ t.faults = {} ∧ t.gtc = {} ∧
    t.out = s.out ++ (if s.pcs.alive then [.pin "ALIVE" 0] else []) ++ (if s.pcs.mainOffOk then [.pin "MAIN_OFF_OK" 0] else []) ++
      (if s.pcs.chipRst then [.pin "CHIP_RST_REQ" 0] else []) ++ (if s.errN then [.pin "ERR_N" 1] else []) ++ [.pin "ERR_N" 1] ∧ t.pending = s.pending) ∧
  (∀ (s : State), s.pcs.phase = 0 → s.pcs.halted = false → ∃ t : State, exec (.mainPwrgdRise true) s = .next t ∧ t.pcs.phase = 1 ∧
    t.pcs.cold = false ∧ t.pcs.startAt = s.now ∧ (∀ c ∈ startClocks, c ∈ t.pcs.clkReq)) ∧
  (∀ (s : State) (c : Clock), s.pcs.phase = 1 → s.pcs.halted = false → s.pcs.clkReq = [c] → c ≠ .arith →
    exec (.clkAck c) s = .next { s with pcs := { s.pcs with clkReq := [], phase := 2 } }) ∧
  (∀ (s : State) (c : Clock), s.pcs.clkReq.contains c = true → s.pcs.halted = false → 100000 ≤ since s.now s.pcs.clkAt → ∃ t : State,
    exec (.clkAckTimeout c) s = .next t ∧ t.pcs.halted = true ∧ (t.faultInst uPcs 0).status.getLsbD 7 = true) ∧
  (∀ (s : State), s.pcs.phase = 2 → s.pcs.halted = false →
    exec (.startupRomCheck true) s = .next { s with pcs := { s.pcs with romOk := true, phase := 3, ident :=
                                                           { revision := Config.romRevision,
                                                             subVendor := (s.pcs.straps.extractLsb' 0 16).toNat,
                                                             subId := (s.pcs.straps.extractLsb' 16 16).toNat } } } ∧
    ∃ t : State, exec (.startupRomCheck false) s = .next t ∧ t.pcs.halted = true ∧ (t.faultInst uOds 0).status.getLsbD 0 = true) ∧
  (∀ (s : State), s.pcs.phase = 3 → s.pcs.halted = false → ∃ t : State, exec .trimRecalibrationDone s = .next t ∧ t.pcs.phase = 4 ∧
    t.pcs.odsUp = true ∧ t.pcs.aliveOn = !s.faults.grave ∧ (∀ w, w < 16 → sget 0 t.pcs.railReq w = 3) ∧ t.pcs.vfWait = true ∧ t.pcs.vfReq = 0 ∧
    .arith ∈ t.pcs.clkReq) ∧
  (∀ (s : State), s.pcs.phase = 4 → s.pcs.halted = false → s.pcs.vfWait = false → s.pcs.clkReq.contains .arith = false →
    (∀ r ∈ s.pcs.railReq, r.2 ≠ 3) → (∀ k, k < 12 → (s.cab k).out = false) →
    (∃ t : State, exec (.tileSelfcheckDone []) s = .next t ∧ t.pcs.phase = 5 ∧ t.pcs.tilesBad = 0 ∧ t.pcs.outCabs = 0 ∧
      t.tiles.phys = s.tiles.phys) ∧
    (∀ x : Fin 100, x.val < 96 → s.spareOf (x.val / 24) ≠ 0xFF02 → ∃ t : State, exec (.tileSelfcheckDone [x]) s = .next t ∧ t.pcs.phase = 5 ∧
      t.physOf x.val = 96 + x.val / 24 ∧ t.spareOf (x.val / 24) = 1 + 256 * x.val ∧ t.pcs.outCabs = 0 ∧ t.pcs.sparesUsed = s.pcs.sparesUsed + 1) ∧
    (∀ x : Fin 100, x.val < 96 → s.spareOf (x.val / 24) = 0xFF02 → ∃ t : State, exec (.tileSelfcheckDone [x]) s = .next t ∧ t.pcs.phase = 5 ∧
      (t.cab (cabOf x)).out = true ∧ t.pcs.outCabs = 1 ∧ t.tiles.phys = s.tiles.phys)) ∧
  (∀ (s : State) (caps : List Nat) (r : Nat) (bad : List (Fin 20 × Nat)), s.pcs.phase = 5 → s.pcs.halted = false → ∃ t : State,
    exec (.shelfTrainingDone none caps r bad) s = .next t ∧ t.pcs.phase = 6 ∧ t.shelves.mem = [] ∧ t.shelves.poison = [] ∧ t.shelves.hbmUp = 1 ∧
    (s.pcs.straps.getLsbD 46 = true → (∀ c, c < 12 → 16 ≤ caps.getD c 0) → (r = 1 ∨ r = 2 ∨ r = 4) →
      t.shelves.capState = 1 ∧ t.shelves.ranks = r ∧ t.shelves.chanGib = chanC (caps.take 12)) ∧
    (∀ p ∈ bad, p.2 < (if p.1.val < 8 then 64 else t.shelves.ranks) → t.shelves.part p.1 p.2 = 4) ∧
    (s.pcs.straps.getLsbD 46 = true → (∃ c, c < 12 ∧ caps.getD c 0 < 16) → t.shelves.capState = 2 ∧ t.shelf2Bytes = 0) ∧
    (s.pcs.straps.getLsbD 46 = false → t.shelves.capState = 2 ∧ t.shelf2Bytes = 0)) ∧
  (∀ (s : State) (n : Fin 8) (caps : List Nat) (r : Nat) (bad : List (Fin 20 × Nat)), s.pcs.phase = 5 → s.pcs.halted = false → ∃ t : State,
    exec (.shelfTrainingDone (some n) caps r bad) s = .next t ∧ t.pcs.halted = true ∧ t.pcs.phase = 5 ∧
    (t.faultInst uHbm n).status.getLsbD 4 = true) ∧
  (∀ (s : State), s.pcs.phase = 6 → s.pcs.halted = false → exec .shelf2FillDone s = .next { s with pcs := { s.pcs with
    phase := 7, readyMs := since s.now s.pcs.startAt / 1000000, fillPtr := shelf2Base + 12 * s.shelves.chanBytes } })

/-- Block reset, chip reset and unit resets (R478, R479, R497, R499). BLK_RESET begins; its flush goes on, and has ended when no way
holds a line but one of a host whose link is down, and no store waits at a slice; with the carve-out written back every unit is afresh,
and the links are down; with the shelves retrained it ends, and counts, shelf 2 being up again where it was and no channel was lost; a
stack lost then is fatal. CHIP_RESET_REQ drives the pin. A unit reset's end lets the unit work. ALIVE toggles while the block lives.
D3cold and the manageability responder (R470, R471, R481). The last live port's PME_Turn_Off quiesces the block: no task, gather or scan
is left; with every store drained the modified lines of the live ports go home, and then the platform is told. The loss of the main rails
keeps the entries of the AON part, and of the entries nothing else, and releases MAIN_OFF_OK. A reading of a sensor is its last; the
power's is the part's own (log 61). Parts of it rest on choices and readings of the model (log 10, 73 and 74). -/
def Obligations.BlockResetsAndCold : Prop :=
  Executes .blkReset .blkReset (fun w _ _ => w) (fun s q w => w.pcs = { s.pcs with blk := 1 } ∧ w.cmd q.index q.sub = { state := 1 } ∧
    (∀ t ∈ w.tiles.tile, ∀ x ∈ t.2.xfers, x.2.phase ≠ 0) ∧ w.shelves = s.shelves) ∧
  (∀ (s u : State), s.pcs.blk = 1 → u = s.flushOn s.flushes → (u.flushed u.flushes = false ∨ u.storesHeld = true) →
    exec .blkFlushDone s = .next u) ∧
  (∀ (s u : State), s.pcs.blk = 1 → u = s.flushOn s.flushes → u.flushed u.flushes = true → u.storesHeld = false →
    ∃ t : State, exec .blkFlushDone s = .next t ∧ t.pcs.blk = 2 ∧ t.coh.flushing = false ∧
    ∀ i k, i < 16 → ((t.slice i).way k).st = .i ∨ ∃ p a, keyTarget ((t.slice i).way k).key = .host p a ∧ s.linkUp p = false) ∧
  (∀ (s : State), s.pcs.blk = 2 → ∃ t : State, exec .blkCarveWritebackDone s = .next t ∧ t.pcs.blk = 3 ∧ t.shelves.carve = [] ∧
    t.tiles.tile = [] ∧ t.sqe.reqs = [] ∧ t.gpes = [] ∧ t.hses = [] ∧ t.epm = {} ∧ t.ssu = {} ∧ t.mtu = {} ∧ t.ods.stage = [] ∧
    t.ods.claims = [] ∧ t.ods.trestle = [] ∧ (∀ p, p < 2 → (t.port p).link = 0)) ∧
  (∀ (s : State) (l : List (Fin 12)) (bad : List (Fin 20 × Nat)), s.pcs.blk = 3 → ∃ t : State, exec (.blkShelfRetrainDone none l bad) s = .next t ∧ t.pcs.blk = 0 ∧ t.shelves.hbmUp = 1 ∧
    (∀ p, p < 2 → (t.port p).memActive = true) ∧ t.shelves.mem = s.shelves.mem ∧ s.counts t 0x9006 0 7 ∧
    t.shelves.capState = (if s.shelves.capState = 0 ∧ l = [] then 1 else 2)) ∧
  (∀ (s : State) (n : Fin 8) (l : List (Fin 12)) (bad : List (Fin 20 × Nat)), s.pcs.blk = 3 → ∃ t : State,
    exec (.blkShelfRetrainDone (some n) l bad) s = .next t ∧ (t.faultInst uHbm n).status.getLsbD 4 = true ∧ t.faults.grave = true ∧
    t.shelves = s.shelves) ∧
  Executes .chipResetReq .chipResetReq State.cmdDone (fun s _ w =>
    w = { s with pcs := { s.pcs with chipRst := true }, out := s.out ++ [.pin "CHIP_RST_REQ" 1] }) ∧
  (∀ (s : State) (u : Fin 16) (n : Nat), s.faults.resets.contains (u.val * 256 + n) = true → ∃ t : State,
    exec (.unitResetEnd u n) s = .next t ∧ t.faults.resets.contains (u.val * 256 + n) = false ∧
    (u = uTile → (t.tile n).resetting = false)) ∧
  (∀ (s : State) (u : Fin 16) (n : Nat), s.faults.resets.contains (u.val * 256 + n) = false → exec (.unitResetEnd u n) s = .next s) ∧
  (∀ (s : State), s.pcs.aliveOn = true → s.faults.grave = false → s.pcs.cold = false → exec .aliveToggle s =
    .next { s with pcs := { s.pcs with alive := !s.pcs.alive }, out := s.out ++ [.pin "ALIVE" (b2n !s.pcs.alive)] }) ∧
  (∀ (s : State), s.faults.grave = true → exec .aliveToggle s = .next s) ∧
  (∀ (s : State) (p : Fin 2), s.linkUp p = true → (s.port p).dstate = 3 → s.pcs.quiesced = false →
    (∀ q, q < 2 → q ≠ p.val → s.linkUp q = false ∨ (s.port q).pmeOff = true) → ∃ t : State, exec (.pmeTurnOff p) s = .next t ∧
      t.pcs.quiesced = true ∧ (t.port p).pmeOff = true ∧ t.gpes = [] ∧ t.hses = [] ∧ (∀ y ∈ t.tiles.tile, y.2.ctxs = [] ∧ y.2.active = none)) ∧
  (∀ (s u : State) (mine : Target → Bool), s.pcs.quiesced = true → s.pcs.mainOffOk = false → s.drained = true →
    mine = (fun a => [0, 1].any (fun p => s.linkUp p && a.onHost p)) → u = s.flushOn mine →
    (u.flushed mine = false → exec .d3coldQuiesceDone s = .next u) ∧
    (u.flushed mine = true → ∃ t : State, exec .d3coldQuiesceDone s = .next t ∧ t.pcs.mainOffOk = true ∧ t.sqe.reqs = [] ∧
      .pin "MAIN_OFF_OK" 1 ∈ t.out)) ∧
  (∀ (s : State), s.pcs.quiesced = true → s.pcs.mainOffOk = false → s.drained = true → (∀ p, p < 2 → s.linkUp p = false) → ∃ t : State,
    exec .d3coldQuiesceDone s = .next t ∧ t.pcs.mainOffOk = true ∧ t.sqe.reqs = [] ∧ .pin "MAIN_OFF_OK" 1 ∈ t.out) ∧
  (∀ (s : State), ∃ t : State, exec .d3c s = .next t ∧ t.pcs = { straps := s.pcs.straps, cold := true, vfLimit := s.pcs.vfLimit } ∧
    t.shelves = {} ∧ t.tiles = {} ∧ t.sqe = {} ∧ t.faults = {} ∧ t.ctr = [] ∧ (s.pcs.mainOffOk = true → .pin "MAIN_OFF_OK" 0 ∈ t.out) ∧
    (∀ ix sub r, sub < 256 → entAt ix sub = some r → sfind t.ods.store (entKey ix sub) =
      if r.rst = .por ∨ r.rst = .porRet then sfind s.ods.store (entKey ix sub) else none)) ∧
  (∀ (s : State), s.pcs.odsUp = true → exec (.pldmRequest 18) s = .next (s.emit (.pldm 18 (Config.corePower s.now)))) ∧
  (∀ (s : State) (n : Nat), s.pcs.odsUp = true → 1 ≤ n → n ≤ 17 →
    exec (.pldmRequest n) s = .next (s.emit (.pldm n ((s.sensor (n - 1)).signExtend 32))))

/-! ### Chapter 17: faults -/

/-- A source that fires (R485, R487 to R490, R493, R498): its status bit is set; the first error is kept, and a later one merges into it;
the counter of its class counts, saturating; a source of class D puts the block into the grave state; an instance that did not fire keeps
its object. FAULT_CLEAR (R491) clears the named bits of the named instances, and the first error where none is left; counters and other
instances stay. -/
def Obligations.FaultsLatchAndClear : Prop :=
  (∀ (s t : State) (u i c : Nat) (h : Hit) (f : FaultInst) (r : FirstError), c < 64 → i < 256 → f = s.faultInst u i → t = s.fire u i c h →
     r = { valid := true, queue := h.queue, merged := 0, maxClass := sourceClass u c, cls := sourceClass u c, source := c,
           access := h.access, mNum := h.mNum, mUnit := h.mUnit, aspace := h.aspace, acid := h.acid, addr := h.addr, gtc := s.now } →
     (t.faultInst u i).status = f.status ||| (1 <<< c) ∧
     (f.first.valid = false → (t.faultInst u i).first = r) ∧
     (f.first.valid = true → (t.faultInst u i).first =
       { f.first with merged := min 65535 (f.first.merged + 1), maxClass := max f.first.maxClass (sourceClass u c) }) ∧
     (sourceClass u c = 1 → (t.faultInst u i).cntA = min (2 ^ 64 - 1) (f.cntA + 1)) ∧
     (sourceClass u c = 2 → (t.faultInst u i).cntB = min (2 ^ 64 - 1) (f.cntB + 1)) ∧
     (sourceClass u c = 3 → (t.faultInst u i).cntC = min (2 ^ 64 - 1) (f.cntC + 1)) ∧
     (sourceClass u c = 4 → (t.faultInst u i).cntD = min (2 ^ 64 - 1) (f.cntD + 1) ∧ t.faults.grave = true ∧
       (s.faults.grave = false → t.pcs.aliveOn = false)) ∧
     (sourceClass u c ≠ 4 → t.faults.grave = s.faults.grave) ∧
     (∀ u' i', i' < 256 → (u', i') ≠ (u, i) → t.faultInst u' i' = s.faultInst u' i')) ∧
  Executes .faultClear .faultClear State.cmdDone (fun s q w => ∀ u n f st, u = q.index / 0x100 % 16 → n < 256 → f = s.faultInst u n →
    st = f.status &&& ~~~(BitVec.ofNat 64 (le q.data 2 8)) →
    w.faultInst u n = (if Names q 2 0xFFFF n ∧ n < unitInstances u then { f with status := st, first := if st = 0 then {} else f.first }
      else f))

/-! ### The whole block -/

namespace Sys2Proof.Machine

/-- The kind of request that a row of the dictionary serves; none for a command that serves no request that changes the block. -/
def serveOf (c : Instr) : Option Serve :=
  match c with
  | .dictWrite => some .write
  | .dictStage => some .stage
  | .dictCommit => some .commit
  | .dictCommitArmed => some .commitArmed
  | .dictAbort => some .abort
  | .dictAbortArmed => some .abortArmed
  | .dictClaim => some .claim
  | .dictRelease => some .release
  | .dcaEnableWrite => some (.put .dcaEnable)
  | .fqHeadWrite => some (.put .fqHead)
  | .hpCtlWrite => some (.put .hpCtl)
  | .capPointWrite => some (.put .capPoint)
  | .ringTailWrite => some (.put .ringTail)
  | .evRingTailWrite => some (.put .evRingTail)
  | .clearRefusals => some (.exec .clearRefusals)
  | .queueResume => some (.exec .queueResume)
  | .queueClear => some (.exec .queueClear)
  | .classClear => some (.exec .classClear)
  | .ssuClear => some (.exec .ssuClear)
  | .ssuResume => some (.exec .ssuResume)
  | .sessionQuery => some (.exec .sessionQuery)
  | .epmFlip => some (.exec .epmFlip)
  | .epmDiscard => some (.exec .epmDiscard)
  | .ringResume => some (.exec .ringResume)
  | .epmResumeTable => some (.exec .epmResumeTable)
  | .gpeClear => some (.exec .gpeClear)
  | .tableClear => some (.exec .tableClear)
  | .tileSwap => some (.exec .tileSwap)
  | .tileClear => some (.exec .tileClear)
  | .numClear => some (.exec .numClear)
  | .histClear => some (.exec .histClear)
  | .progLoad => some (.exec .progLoad)
  | .progUnload => some (.exec .progUnload)
  | .cabClear => some (.exec .cabClear)
  | .lockRun => some (.exec .lockRun)
  | .detClear => some (.exec .detClear)
  | .dcaInvalidate => some (.exec .dcaInvalidate)
  | .dcaClear => some (.exec .dcaClear)
  | .cohClear => some (.exec .cohClear)
  | .orderClear => some (.exec .orderClear)
  | .pcSpare => some (.exec .pcSpare)
  | .rankSpare => some (.exec .rankSpare)
  | .carveFlush => some (.exec .carveFlush)
  | .hbmClear => some (.exec .hbmClear)
  | .capClear => some (.exec .capClear)
  | .bgClear => some (.exec .bgClear)
  | .invSlot => some (.exec .invSlot)
  | .granuleSet => some (.exec .granuleSet)
  | .granuleQuery => some (.exec .granuleQuery)
  | .ctxFaultClear => some (.exec .ctxFaultClear)
  | .mtuClear => some (.exec .mtuClear)
  | .hdmMove => some (.exec .hdmMove)
  | .portClear => some (.exec .portClear)
  | .lostClear => some (.exec .lostClear)
  | .laneSpare => some (.exec .laneSpare)
  | .portReset => some (.exec .portReset)
  | .hpClear => some (.exec .hpClear)
  | .gfrClear => some (.exec .gfrClear)
  | .gtcClear => some (.exec .gtcClear)
  | .pcsClear => some (.exec .pcsClear)
  | .blkReset => some (.exec .blkReset)
  | .chipResetReq => some (.exec .chipResetReq)
  | .faultClear => some (.exec .faultClear)
  | _ => none

/-- The power and start-up commands that touch no unit but the PCS. -/
def ofPower (c : Instr) : Bool :=
  match c with
  | .aliveToggle | .cabPswAck _ | .clkAck _ | .clkAckTimeout _ | .idleEntry _ | .idleEntryComplete _ | .pldmRequest _ 
  | .shelf2FillDone | .startupRomCheck _ | .thermalLimitChange _ _ | .thermalWarn _ _ | .trimRecalibrationDone | .vfAck 
  | .vfAckTimeout | .vfLimitChange _ | .wake _ => true
  | _ => false

/-- The commands of the tiles' bundles, contexts and units. -/
def ofTiles (c : Instr) : Bool :=
  match c with
  | .acas _ | .addSubMul _ | .addi _ | .andOrXor _ | .barA _ | .barL _ | .barS _ | .contextPick _ _ | .csrr _ | .cvt _ 
  | .endSeg _ | .fetchAtomic _ | .gpost _ | .gtcr _ | .histClr _ | .histRd _ | .hpost _ | .ld _ | .ldp _ | .ldr _ | .lds _ 
  | .mma _ | .mmaComplete _ _ | .reservationTimeout _ _ | .sel _ | .shlShrSra _ | .shori _ | .sltSltu _ | .st _ | .stc _ 
  | .stp _ | .streamOpComplete _ | .sts _ | .tileSelfcheckDone _ | .tnarrow _ | .trapStart _ | .twiden _ | .unitResetEnd _ _ 
  | .vaddVsubVmulVfma _ | .vcmpeqVcmpltVcmple _ | .vld _ _ | .vminVmax _ | .vrcpVrsqVsqrtVexp2Vlog2 _ | .vredaddVredmax _ 
  | .vselVmovVbcast _ | .vst _ | .waitGrp _ | .xlane _ => true
  | _ => false

/-- The commands of the fabric ports and of the GTC. -/
def ofFabric (c : Instr) : Bool :=
  match c with
  | .announce | .attnButtonPress _ | .delayReqReceive _ _ | .delayRspReceive _ _ _ _ | .failoverHoldExpiry _ | .flitAckDue _ 
  | .flitReceive _ _ _ | .gfrStaleDiscard _ | .holdover | .laneLossOfLock _ _ | .laneRecalDue _ | .linkQueryReceive _ _ 
  | .linkReplyReceive _ _ _ | .linkRetrain _ | .lqTimeout _ | .pdRequestArrive _ | .portDown _ | .portTrained _ _ _ _ 
  | .presenceChange _ _ | .pwrenTrainingStart _ | .retrainLimitExpiry _ | .syncReceive _ _ _ | .syncSend _ | .timepulseInEdge 
  | .timepulseOut => true
  | _ => false

/-- The commands of the shelves and of the slices. -/
def ofMemory (c : Instr) : Bool :=
  match c with
  | .bgSlotEnd _ _ | .bgSlotStart _ _ _ _ | .biTimeout _ _ | .birspReceive _ _ _ | .blkFlushDone | .carveTagReturn _ _ 
  | .dcaFlushDone | .fabricRequestReceive _ | .hdmHostRequest _ _ | .hostCacheResponse _ _ _ | .lineReadReturn _ _ _ 
  | .missFillReturn _ _ _ | .phyRecalDue _ _ _ | .refDue _ _ _ | .sliceAccess _ _ | .stagingApertureRead _ _ _ 
  | .stagingApertureWrite _ _ _ | .victimWritebackDone _ _ => true
  | _ => false

/-- The commands of the request queues, of the EPM and of the SSU. -/
def ofEngines (c : Instr) : Bool :=
  match c with
  | .batchComplete _ | .batchRowApply _ | .compactionEnd _ | .compactionStep _ | .completionWrite _ 
  | .completionWriteAck _ | .completionWriteRetry _ | .cqHeadDoorbell _ _ _ _ | .descriptorFetch _ 
  | .descriptorReadReturn _ | .descriptorReread _ | .discardSweepEnd _ | .drainComplete _ | .drawerReload _ | .drawerSpill 
  | .epmBatchStart | .epochRefusedReceive _ | .evBatchComplete _ | .evBatchStart | .evRingReread _ | .evRingStall _ 
  | .eventAppend _ | .forcedAdmissionTest | .queueStall _ | .requestEnd _ | .ringReread _ | .ringStall _ 
  | .sessionEndApply _ | .sessionExpire _ | .sqTailDoorbell _ _ _ _ | .summaryRebuild _ _ => true
  | _ => false

end Sys2Proof.Machine
open Sys2Proof Sys2Proof.Machine

/-- A step takes the command at the front of the queue, runs it on the state with the queue's rest, and answers its outcome. -/
def Obligations.StepTakesFront : Prop :=
  ∀ (s : State) (c : Instr) (rest : List Instr), step { s with pending := c :: rest } = exec c { s with pending := rest }

/-- The model's choice (log 8): on an empty queue a step is one count of the GTC (R438 gives its rate); nothing else changes. -/
def Obligations.EmptyQueueTicks : Prop :=
  ∀ s : State, s.pending = [] → ∃ t : State, step s = .next t ∧ t.now = (s.now + 1) % 2 ^ 64 ∧
    t = { s with gtc := { s.gtc with count := t.gtc.count } }

/-- After POR (R477, R479) every entry reads its default, every counter is zero, no entry is staged, claimed or armed, no command runs, no
fault stands, every line is invalid, the shelves read zero, every link is down, and start-up has not begun. -/
def Obligations.ResetValues : Prop :=
  State.reset.pending = [] ∧ (∀ ix sub, State.reset.rd ix sub = defaultAt ix sub) ∧ (∀ ix sub k, State.reset.count ix sub k = 0) ∧
  State.reset.ods.stage = [] ∧ State.reset.ods.stageOwner = none ∧ State.reset.ods.claims = [] ∧
  (∀ k, (sget ({} : TrestleSlot) State.reset.ods.trestle k).state = 0) ∧ (∀ ix sub, (State.reset.cmd ix sub).state = 0) ∧
  (∀ u i, (State.reset.faultInst u i).status = 0 ∧ (State.reset.faultInst u i).first.valid = false) ∧ State.reset.faults.grave = false ∧
  (∀ i k, ((State.reset.slice i).way k).st = .i) ∧ State.reset.shelves.mem = [] ∧ (∀ p, State.reset.linkUp p = false) ∧
  (∀ p, (State.reset.fport p).state = 0) ∧ State.reset.pcs.phase = 0 ∧ State.reset.odsUp = false ∧ State.reset.pcs.aliveOn = false

/-- The rules of `Inv` hold after POR. -/
def Obligations.ResetKeepsInv : Prop := Inv State.reset

/-- Every step is safe, and keeps the rules of `Inv`: memory in canonical form, every counter within its width (R34, R490), ALIVE stopped and low
in the grave state (R499). It takes exactly one command from the queue, and no command puts one there. -/
def Obligations.StepKeepsInv : Prop :=
  ∀ s : State, Inv s → ∃ t : State, step s = .next t ∧ Inv t ∧ t.pending = s.pending.tail

/-- What holds an entry (R46, R51, R57). Each row of the dictionary serves the requests of its kind. A WRITE, STAGE or EXEC of an entry in
another owner's claimed range is refused with CLAIMED; a WRITE or EXEC of a staged entry with BUSY; a WRITE, STAGE or EXEC of an entry in an
armed set with BUSY. A READ is answered through all of them, with the entry's
current value (of a RW or RWQ entry, the value in force); of a BLOB the bytes from OFFSET on, where it has them all. An entry is held exactly while it is in the stage
or in a set that is armed. -/
def Obligations.HeldEntriesRefuse : Prop :=
  (∀ (c : Instr) (k : Serve) (s : State), serveOf c = some k → exec c s = .next (s.odsServe k)) ∧
  (∀ (s : State) (i : Nat) (q : DictReq) (k : Serve) (r : EntRow), s.serves i q k → (s.taken i).sound q → entAt q.index q.sub = some r →
    r.pathOk q.index q.sub q.who.path = true → foreignQueue r.ent q.who q.data = false →
    ((q.op = 2 ∧ (r.acc = .rw ∨ r.acc = .rwq)) ∨ (q.op = 3 ∧ r.acc ≠ .ro) ∨ (q.op = 8 ∧ r.acc = .cmd)) →
    (s.ods.claimedBy q.index q.who = true → s.odsServe k = (s.taken i).refuses q isClaimed) ∧
    (s.ods.claimedBy q.index q.who = false →
      (s.ods.held q.index q.sub = 1 → q.op ≠ 3 → s.odsServe k = (s.taken i).refuses q isBusy) ∧
      (s.ods.held q.index q.sub = 2 → s.odsServe k = (s.taken i).refuses q isBusy))) ∧
  (∀ (s : State) (i : Nat) (q : DictReq) (r : EntRow) (b : Bytes), s.serves i q .read → (s.taken i).sound q → entAt q.index q.sub = some r →
    q.op = 1 → (q.offset = 0 ∨ r.ty = .blob) → b = (if q.describe then (s.taken i).describe r q.index q.sub else
      if r.ty = .blob then bytesAt ((s.taken i).value r q.index q.sub) q.offset q.length else (s.taken i).value r q.index q.sub) →
    exec (.dictRead .clean) s = .next
      (if q.describe = false ∧ r.ty = .blob ∧ q.length ≠ 0 ∧ ((s.taken i).value r q.index q.sub).length < q.offset + q.length
       then (s.taken i).refuses q badRange else (s.taken i).ok q b) ∧
    (r.acc = .rw ∨ r.acc = .rwq → (s.taken i).value r q.index q.sub = s.rd q.index q.sub)) ∧
  (∀ (o : Ods) (ix : Nat) (who : Sender), o.claimedBy ix who = true ↔
    ∃ k c, (k, c) ∈ o.claims ∧ c.owner ≠ who ∧ c.first ≤ ix ∧ ix ≤ c.last) ∧
  (∀ (o : Ods) (ix sub : Nat), (o.held ix sub = 2 ↔ ∃ k t, (k, t) ∈ o.trestle ∧ t.state = 1 ∧ ∃ i ∈ t.items, i.index = ix ∧ i.sub = sub) ∧
    (o.held ix sub ≠ 0 ↔ o.held ix sub = 2 ∨ ∃ i ∈ o.stage, i.index = ix ∧ i.sub = sub) ∧ o.noStage.held ix sub ≠ 1)

/-- An ID's shard and home (R119): the shard is reduce(mix(id, SHARD_SEED), SHARD_M1 + 1), which no entry beyond SHARD_M1 can be, and its home is
the U16 of the shard map at that shard. A shard map is a BLOB of 256 of them. -/
def Obligations.ShardsNameHomes : Prop :=
  (∀ (s : State) (d : Bytes) (id sh : Nat), sh = reduce (mix id (fld d 0 64)) (fld d 86 8 + 1) → sh ≤ fld d 86 8 ∧
    s.shardOf d id = (sh, le (s.rd 0x6200 (fld d 94 6)) (2 * sh) 2)) ∧
  (∀ (id seed n : Nat), reduce (mix id seed) n = mix id seed * n / 2 ^ 64) ∧
  (∀ m, m < 64 → ∃ r, entAt 0x6200 m = some r ∧ r.ent = .shardMap ∧ r.ty = .blob ∧ r.size = 2 * 256)

/-- The power and start-up commands (chapter 16) change the PCS, and what a fault source or a pin shows: every other unit keeps its state, and
memory every byte. -/
def Obligations.PowerKeepsRest : Prop :=
  ∀ (c : Instr) (s t : State), ofPower c = true → exec c s = .next t → t =
    { s with faults := t.faults, ctr := t.ctr, hlc := t.hlc, pcs := t.pcs, out := t.out }

/-- A bundle's slot, a context's pick, a unit's completion (chapter 7) change the tile, the cabinet and the request it belongs to, and the
ATOM words and reservations of the coherence unit: memory keeps every byte, and the dictionary, the engines, the fabric and the time theirs. -/
def Obligations.TilesKeepRest : Prop :=
  ∀ (c : Instr) (s t : State), ofTiles c = true → exec c s = .next t → t =
    { s with faults := t.faults, ctr := t.ctr, coh := t.coh, sqe := t.sqe, sched := t.sched, tiles := t.tiles, hlc := t.hlc,
             pcs := t.pcs, out := t.out }

/-- The commands of the fabric ports and of the time (chapter 15) leave every shelf, every slice, every tile, every engine and every queue as it
is. -/
def Obligations.FabricKeepsRest : Prop :=
  ∀ (c : Instr) (s t : State), ofFabric c = true → exec c s = .next t → t =
    { s with ods := t.ods, faults := t.faults, ctr := t.ctr, hlc := t.hlc, fab := t.fab, gtc := t.gtc, pcs := t.pcs,
             out := t.out, nextId := t.nextId, free := t.free }

/-- The commands of the shelves and of the slices (chapters 10 and 11) leave the dictionary, the queues, the tiles, the engines and the time as
they are. -/
def Obligations.MemoryKeepsRest : Prop :=
  ∀ (c : Instr) (s t : State), ofMemory c = true → exec c s = .next t → t =
    { s with faults := t.faults, ctr := t.ctr, shelves := t.shelves, coh := t.coh, rsps := t.rsps, mtu := t.mtu, hlc := t.hlc,
             fab := t.fab, pcs := t.pcs, out := t.out, nextId := t.nextId, free := t.free }

/-- The commands of the request queues, of the EPM and of the SSU (chapters 5, 6 and 9) leave the dictionary, the tiles, the scheduler and
the time as they are. -/
def Obligations.EnginesKeepRest : Prop :=
  ∀ (c : Instr) (s t : State), ofEngines c = true → exec c s = .next t → t =
    { s with faults := t.faults, ctr := t.ctr, shelves := t.shelves, coh := t.coh, rsps := t.rsps, mtu := t.mtu, sqe := t.sqe, epm := t.epm,
             ssu := t.ssu, hlc := t.hlc, fab := t.fab, pcs := t.pcs, out := t.out, nextId := t.nextId, free := t.free }
end

