-- ==== Sys2Proof/Laws/Memory.lean ====
section
/-! SUPPORT. Sparse maps and memories: reads after writes, and the canonical form. -/
namespace Sys2Proof.Machine

variable {α : Type}

theorem risingFrom_mono {m : SMap α} {a b : Nat} (h : risingFrom a m = true) (hb : b ≤ a) : risingFrom b m = true := by
  cases m with
  | nil => rfl
  | cons e r =>
    simp only [risingFrom, Bool.and_eq_true, decide_eq_true_eq] at h ⊢
    exact ⟨Nat.le_trans hb h.1, h.2⟩

theorem risingFrom_sput {m : SMap α} {b n : Nat} {v : α} (h : risingFrom b m = true) (hb : b ≤ n) :
    risingFrom b (sput m n v) = true := by
  induction m generalizing b with
  | nil => simp [sput, risingFrom, hb]
  | cons e r ih =>
    obtain ⟨k, w⟩ := e
    simp only [risingFrom, Bool.and_eq_true, decide_eq_true_eq] at h
    simp only [sput]
    split
    · simp [risingFrom, hb]
      exact ⟨by omega, h.2⟩
    · split
      · subst n; simp [risingFrom, h.1, h.2]
      · simp only [risingFrom, Bool.and_eq_true, decide_eq_true_eq]
        exact ⟨h.1, ih h.2 (by omega)⟩

theorem risingFrom_sdel {m : SMap α} {b n : Nat} (h : risingFrom b m = true) : risingFrom b (sdel m n) = true := by
  induction m generalizing b with
  | nil => rfl
  | cons e r ih =>
    obtain ⟨k, w⟩ := e
    simp only [risingFrom, Bool.and_eq_true, decide_eq_true_eq] at h
    simp only [sdel]
    split
    · exact ih (risingFrom_mono h.2 (by omega))
    · simp only [risingFrom, Bool.and_eq_true, decide_eq_true_eq]
      exact ⟨h.1, ih h.2⟩

theorem risingFrom_filter {m : SMap α} {b : Nat} {f : Nat × α → Bool} (h : risingFrom b m = true) :
    risingFrom b (m.filter f) = true := by
  induction m generalizing b with
  | nil => rfl
  | cons e r ih =>
    obtain ⟨k, w⟩ := e
    simp only [risingFrom, Bool.and_eq_true, decide_eq_true_eq] at h
    simp only [List.filter]
    split
    · simp only [risingFrom, Bool.and_eq_true, decide_eq_true_eq]
      exact ⟨h.1, ih h.2⟩
    · exact risingFrom_mono (ih h.2) (by omega)

theorem all_sput {m : SMap α} {n : Nat} {v : α} {f : Nat × α → Bool} (h : m.all f = true) (hv : f (n, v) = true) :
    (sput m n v).all f = true := by
  induction m with
  | nil => simp [sput, hv]
  | cons e r ih =>
    obtain ⟨k, w⟩ := e
    simp only [List.all_cons, Bool.and_eq_true] at h
    simp only [sput]
    split
    · simp [hv, h.1, h.2]
    · split
      · simp [hv, h.2]
      · simp only [List.all_cons, Bool.and_eq_true]; exact ⟨h.1, ih h.2⟩

theorem all_sdel {m : SMap α} {n : Nat} {f : Nat × α → Bool} (h : m.all f = true) : (sdel m n).all f = true := by
  induction m with
  | nil => rfl
  | cons e r ih =>
    obtain ⟨k, w⟩ := e
    simp only [List.all_cons, Bool.and_eq_true] at h
    simp only [sdel]
    split
    · exact ih h.2
    · simp only [List.all_cons, Bool.and_eq_true]; exact ⟨h.1, ih h.2⟩

theorem all_filter {m : SMap α} {f g : Nat × α → Bool} (h : m.all f = true) : (m.filter g).all f = true := by
  simp only [List.all_eq_true, List.mem_filter] at h ⊢
  exact fun x hx => h x hx.1

theorem all_sset [DecidableEq α] {d : α} {m : SMap α} {n : Nat} {v : α} {f : Nat × α → Bool} (h : m.all f = true)
    (hv : f (n, v) = true) : (sset d m n v).all f = true := by
  unfold sset
  split
  · exact all_sdel h
  · exact all_sput h hv

theorem mapWf_nil [DecidableEq α] (d : α) : mapWf d ([] : SMap α) = true := rfl

theorem mapWf_sset [DecidableEq α] {d : α} {m : SMap α} {n : Nat} {v : α} (h : mapWf d m = true) :
    mapWf d (sset d m n v) = true := by
  simp only [mapWf, Bool.and_eq_true] at h ⊢
  unfold sset
  split
  · exact ⟨risingFrom_sdel h.1, all_sdel h.2⟩
  · rename_i hv
    exact ⟨risingFrom_sput h.1 (Nat.zero_le _), all_sput h.2 (by simpa using hv)⟩

theorem mapWf_filter [DecidableEq α] {d : α} {m : SMap α} {f : Nat × α → Bool} (h : mapWf d m = true) :
    mapWf d (m.filter f) = true := by
  simp only [mapWf, Bool.and_eq_true] at h ⊢
  exact ⟨risingFrom_filter h.1, all_filter h.2⟩

/-! ### Reads after writes -/

theorem sget_sput (d : α) (m : SMap α) (n k : Nat) (v : α) : sget d (sput m n v) k = if k = n then v else sget d m k := by
  induction m with
  | nil => simp [sput, sget]
  | cons e r ih =>
    obtain ⟨j, w⟩ := e
    simp only [sput]
    split
    · simp only [sget]
    · split
      · subst n; simp only [sget]; split <;> rfl
      · simp only [sget, ih]
        by_cases h : k = j
        · rw [if_pos h, if_neg (by omega), if_pos h]
        · rw [if_neg h, if_neg h]

theorem sget_sdel (d : α) (m : SMap α) (n k : Nat) : sget d (sdel m n) k = if k = n then d else sget d m k := by
  induction m with
  | nil => simp [sdel, sget]
  | cons e r ih =>
    obtain ⟨j, w⟩ := e
    simp only [sdel]
    by_cases hn : n = j
    · subst hn
      rw [if_pos rfl, ih]
      by_cases hk : k = n
      · rw [if_pos hk, if_pos hk]
      · simp only [sget, if_neg hk]
    · rw [if_neg hn]
      simp only [sget, ih]
      by_cases hk : k = j
      · rw [if_pos hk, if_neg (by omega), if_pos hk]
      · rw [if_neg hk, if_neg hk]

/-- A map reads back what was written, and every other key as before. -/
theorem sget_sset [DecidableEq α] (d : α) (m : SMap α) (n k : Nat) (v : α) :
    sget d (sset d m n v) k = if k = n then v else sget d m k := by
  unfold sset
  split
  · next e => rw [sget_sdel, e]
  · exact sget_sput d m n k v

theorem sfind_sput (m : SMap α) (n k : Nat) (v : α) : sfind (sput m n v) k = if k = n then some v else sfind m k := by
  induction m with
  | nil => simp [sput, sfind]
  | cons e r ih =>
    obtain ⟨j, w⟩ := e
    simp only [sput]
    split
    · simp only [sfind]
    · split
      · subst n; simp only [sfind]; split <;> rfl
      · simp only [sfind, ih]
        by_cases h : k = j
        · rw [if_pos h, if_neg (by omega), if_pos h]
        · rw [if_neg h, if_neg h]

theorem sfind_sdel (m : SMap α) (n k : Nat) : sfind (sdel m n) k = if k = n then none else sfind m k := by
  induction m with
  | nil => simp [sdel, sfind]
  | cons e r ih =>
    obtain ⟨j, w⟩ := e
    simp only [sdel]
    by_cases hn : n = j
    · subst hn
      rw [if_pos rfl, ih]
      by_cases hk : k = n
      · rw [if_pos hk, if_pos hk]
      · simp only [sfind, if_neg hk]
    · rw [if_neg hn]
      simp only [sfind, ih]
      by_cases hk : k = j
      · rw [if_pos hk, if_neg (by omega), if_pos hk]
      · rw [if_neg hk, if_neg hk]

/-! ### Memories -/

theorem mset_wf {m : Memory} {a : Nat} {b : Byte} (h : Memory.wf m = true) : Memory.wf (mset m a b) = true := mapWf_sset h

theorem mwrite_wf {m : Memory} {a : Nat} {b : Bytes} (h : Memory.wf m = true) : Memory.wf (mwrite m a b) = true := by
  induction b generalizing m a with
  | nil => exact h
  | cons x r ih => exact ih (mset_wf h)

theorem mzero_wf {m : Memory} {a n : Nat} (h : Memory.wf m = true) : Memory.wf (mzero m a n) = true := by
  induction n generalizing m a with
  | zero => exact h
  | succ n ih => exact ih (mset_wf h)

theorem mget_mset (m : Memory) (a k : Nat) (b : Byte) : mget (mset m a b) k = if k = a then b else mget m k := sget_sset 0 m a k b

/-- A byte string that is written reads back at its addresses, and every other byte reads as before. -/
theorem mget_mwrite (m : Memory) (a k : Nat) (b : Bytes) :
    mget (mwrite m a b) k = if a ≤ k ∧ k < a + b.length then b.getD (k - a) 0 else mget m k := by
  induction b generalizing m a with
  | nil => simp only [mwrite, List.length_nil]; rw [if_neg (by omega)]
  | cons x r ih =>
    simp only [mwrite, ih, mget_mset, List.length_cons]
    by_cases hk : k = a
    · subst hk; rw [if_neg (by omega), if_pos rfl, if_pos (by omega)]; simp
    · by_cases hr : a + 1 ≤ k ∧ k < a + 1 + r.length
      · have e : k - a = (k - (a + 1)) + 1 := by omega
        rw [if_pos hr, if_pos (by omega), e, List.getD_cons_succ]
      · rw [if_neg hr, if_neg hk, if_neg (by omega)]

end Sys2Proof.Machine
end

