-- ==== Sys2Proof/Laws/State.lean ====
section
/-! SUPPORT. The fields of the state after each of its updates, and what the updated part then reads. -/
namespace Sys2Proof.Machine

@[simp] theorem State.emit_pending (s : State) (x) : (s.emit x).pending = s.pending := rfl
@[simp] theorem State.emit_ods (s : State) (x) : (s.emit x).ods = s.ods := rfl
@[simp] theorem State.emit_faults (s : State) (x) : (s.emit x).faults = s.faults := rfl
@[simp] theorem State.emit_ctr (s : State) (x) : (s.emit x).ctr = s.ctr := rfl
@[simp] theorem State.emit_shelves (s : State) (x) : (s.emit x).shelves = s.shelves := rfl
@[simp] theorem State.emit_coh (s : State) (x) : (s.emit x).coh = s.coh := rfl
@[simp] theorem State.emit_rsps (s : State) (x) : (s.emit x).rsps = s.rsps := rfl
@[simp] theorem State.emit_mtu (s : State) (x) : (s.emit x).mtu = s.mtu := rfl
@[simp] theorem State.emit_sqe (s : State) (x) : (s.emit x).sqe = s.sqe := rfl
@[simp] theorem State.emit_sched (s : State) (x) : (s.emit x).sched = s.sched := rfl
@[simp] theorem State.emit_tiles (s : State) (x) : (s.emit x).tiles = s.tiles := rfl
@[simp] theorem State.emit_gpes (s : State) (x) : (s.emit x).gpes = s.gpes := rfl
@[simp] theorem State.emit_epm (s : State) (x) : (s.emit x).epm = s.epm := rfl
@[simp] theorem State.emit_ssu (s : State) (x) : (s.emit x).ssu = s.ssu := rfl
@[simp] theorem State.emit_hses (s : State) (x) : (s.emit x).hses = s.hses := rfl
@[simp] theorem State.emit_hlc (s : State) (x) : (s.emit x).hlc = s.hlc := rfl
@[simp] theorem State.emit_fab (s : State) (x) : (s.emit x).fab = s.fab := rfl
@[simp] theorem State.emit_gtc (s : State) (x) : (s.emit x).gtc = s.gtc := rfl
@[simp] theorem State.emit_pcs (s : State) (x) : (s.emit x).pcs = s.pcs := rfl
@[simp] theorem State.emit_nextId (s : State) (x) : (s.emit x).nextId = s.nextId := rfl
@[simp] theorem State.emit_free (s : State) (x) : (s.emit x).free = s.free := rfl

@[simp] theorem State.setTile_pending (s : State) (t x) : (s.setTile t x).pending = s.pending := rfl
@[simp] theorem State.setTile_ods (s : State) (t x) : (s.setTile t x).ods = s.ods := rfl
@[simp] theorem State.setTile_faults (s : State) (t x) : (s.setTile t x).faults = s.faults := rfl
@[simp] theorem State.setTile_ctr (s : State) (t x) : (s.setTile t x).ctr = s.ctr := rfl
@[simp] theorem State.setTile_shelves (s : State) (t x) : (s.setTile t x).shelves = s.shelves := rfl
@[simp] theorem State.setTile_coh (s : State) (t x) : (s.setTile t x).coh = s.coh := rfl
@[simp] theorem State.setTile_rsps (s : State) (t x) : (s.setTile t x).rsps = s.rsps := rfl
@[simp] theorem State.setTile_mtu (s : State) (t x) : (s.setTile t x).mtu = s.mtu := rfl
@[simp] theorem State.setTile_sqe (s : State) (t x) : (s.setTile t x).sqe = s.sqe := rfl
@[simp] theorem State.setTile_sched (s : State) (t x) : (s.setTile t x).sched = s.sched := rfl
@[simp] theorem State.setTile_gpes (s : State) (t x) : (s.setTile t x).gpes = s.gpes := rfl
@[simp] theorem State.setTile_epm (s : State) (t x) : (s.setTile t x).epm = s.epm := rfl
@[simp] theorem State.setTile_ssu (s : State) (t x) : (s.setTile t x).ssu = s.ssu := rfl
@[simp] theorem State.setTile_hses (s : State) (t x) : (s.setTile t x).hses = s.hses := rfl
@[simp] theorem State.setTile_hlc (s : State) (t x) : (s.setTile t x).hlc = s.hlc := rfl
@[simp] theorem State.setTile_fab (s : State) (t x) : (s.setTile t x).fab = s.fab := rfl
@[simp] theorem State.setTile_gtc (s : State) (t x) : (s.setTile t x).gtc = s.gtc := rfl
@[simp] theorem State.setTile_pcs (s : State) (t x) : (s.setTile t x).pcs = s.pcs := rfl
@[simp] theorem State.setTile_out (s : State) (t x) : (s.setTile t x).out = s.out := rfl
@[simp] theorem State.setTile_nextId (s : State) (t x) : (s.setTile t x).nextId = s.nextId := rfl
@[simp] theorem State.setTile_free (s : State) (t x) : (s.setTile t x).free = s.free := rfl

@[simp] theorem State.setGpe_pending (s : State) (t x) : (s.setGpe t x).pending = s.pending := rfl
@[simp] theorem State.setGpe_ods (s : State) (t x) : (s.setGpe t x).ods = s.ods := rfl
@[simp] theorem State.setGpe_faults (s : State) (t x) : (s.setGpe t x).faults = s.faults := rfl
@[simp] theorem State.setGpe_ctr (s : State) (t x) : (s.setGpe t x).ctr = s.ctr := rfl
@[simp] theorem State.setGpe_shelves (s : State) (t x) : (s.setGpe t x).shelves = s.shelves := rfl
@[simp] theorem State.setGpe_coh (s : State) (t x) : (s.setGpe t x).coh = s.coh := rfl
@[simp] theorem State.setGpe_rsps (s : State) (t x) : (s.setGpe t x).rsps = s.rsps := rfl
@[simp] theorem State.setGpe_mtu (s : State) (t x) : (s.setGpe t x).mtu = s.mtu := rfl
@[simp] theorem State.setGpe_sqe (s : State) (t x) : (s.setGpe t x).sqe = s.sqe := rfl
@[simp] theorem State.setGpe_sched (s : State) (t x) : (s.setGpe t x).sched = s.sched := rfl
@[simp] theorem State.setGpe_tiles (s : State) (t x) : (s.setGpe t x).tiles = s.tiles := rfl
@[simp] theorem State.setGpe_epm (s : State) (t x) : (s.setGpe t x).epm = s.epm := rfl
@[simp] theorem State.setGpe_ssu (s : State) (t x) : (s.setGpe t x).ssu = s.ssu := rfl
@[simp] theorem State.setGpe_hses (s : State) (t x) : (s.setGpe t x).hses = s.hses := rfl
@[simp] theorem State.setGpe_hlc (s : State) (t x) : (s.setGpe t x).hlc = s.hlc := rfl
@[simp] theorem State.setGpe_fab (s : State) (t x) : (s.setGpe t x).fab = s.fab := rfl
@[simp] theorem State.setGpe_gtc (s : State) (t x) : (s.setGpe t x).gtc = s.gtc := rfl
@[simp] theorem State.setGpe_pcs (s : State) (t x) : (s.setGpe t x).pcs = s.pcs := rfl
@[simp] theorem State.setGpe_out (s : State) (t x) : (s.setGpe t x).out = s.out := rfl
@[simp] theorem State.setGpe_nextId (s : State) (t x) : (s.setGpe t x).nextId = s.nextId := rfl
@[simp] theorem State.setGpe_free (s : State) (t x) : (s.setGpe t x).free = s.free := rfl

@[simp] theorem State.setHse_pending (s : State) (t x) : (s.setHse t x).pending = s.pending := rfl
@[simp] theorem State.setHse_ods (s : State) (t x) : (s.setHse t x).ods = s.ods := rfl
@[simp] theorem State.setHse_faults (s : State) (t x) : (s.setHse t x).faults = s.faults := rfl
@[simp] theorem State.setHse_ctr (s : State) (t x) : (s.setHse t x).ctr = s.ctr := rfl
@[simp] theorem State.setHse_shelves (s : State) (t x) : (s.setHse t x).shelves = s.shelves := rfl
@[simp] theorem State.setHse_coh (s : State) (t x) : (s.setHse t x).coh = s.coh := rfl
@[simp] theorem State.setHse_rsps (s : State) (t x) : (s.setHse t x).rsps = s.rsps := rfl
@[simp] theorem State.setHse_mtu (s : State) (t x) : (s.setHse t x).mtu = s.mtu := rfl
@[simp] theorem State.setHse_sqe (s : State) (t x) : (s.setHse t x).sqe = s.sqe := rfl
@[simp] theorem State.setHse_sched (s : State) (t x) : (s.setHse t x).sched = s.sched := rfl
@[simp] theorem State.setHse_tiles (s : State) (t x) : (s.setHse t x).tiles = s.tiles := rfl
@[simp] theorem State.setHse_gpes (s : State) (t x) : (s.setHse t x).gpes = s.gpes := rfl
@[simp] theorem State.setHse_epm (s : State) (t x) : (s.setHse t x).epm = s.epm := rfl
@[simp] theorem State.setHse_ssu (s : State) (t x) : (s.setHse t x).ssu = s.ssu := rfl
@[simp] theorem State.setHse_hlc (s : State) (t x) : (s.setHse t x).hlc = s.hlc := rfl
@[simp] theorem State.setHse_fab (s : State) (t x) : (s.setHse t x).fab = s.fab := rfl
@[simp] theorem State.setHse_gtc (s : State) (t x) : (s.setHse t x).gtc = s.gtc := rfl
@[simp] theorem State.setHse_pcs (s : State) (t x) : (s.setHse t x).pcs = s.pcs := rfl
@[simp] theorem State.setHse_out (s : State) (t x) : (s.setHse t x).out = s.out := rfl
@[simp] theorem State.setHse_nextId (s : State) (t x) : (s.setHse t x).nextId = s.nextId := rfl
@[simp] theorem State.setHse_free (s : State) (t x) : (s.setHse t x).free = s.free := rfl

@[simp] theorem State.setPort_pending (s : State) (t x) : (s.setPort t x).pending = s.pending := rfl
@[simp] theorem State.setPort_ods (s : State) (t x) : (s.setPort t x).ods = s.ods := rfl
@[simp] theorem State.setPort_faults (s : State) (t x) : (s.setPort t x).faults = s.faults := rfl
@[simp] theorem State.setPort_ctr (s : State) (t x) : (s.setPort t x).ctr = s.ctr := rfl
@[simp] theorem State.setPort_shelves (s : State) (t x) : (s.setPort t x).shelves = s.shelves := rfl
@[simp] theorem State.setPort_coh (s : State) (t x) : (s.setPort t x).coh = s.coh := rfl
@[simp] theorem State.setPort_rsps (s : State) (t x) : (s.setPort t x).rsps = s.rsps := rfl
@[simp] theorem State.setPort_mtu (s : State) (t x) : (s.setPort t x).mtu = s.mtu := rfl
@[simp] theorem State.setPort_sqe (s : State) (t x) : (s.setPort t x).sqe = s.sqe := rfl
@[simp] theorem State.setPort_sched (s : State) (t x) : (s.setPort t x).sched = s.sched := rfl
@[simp] theorem State.setPort_tiles (s : State) (t x) : (s.setPort t x).tiles = s.tiles := rfl
@[simp] theorem State.setPort_gpes (s : State) (t x) : (s.setPort t x).gpes = s.gpes := rfl
@[simp] theorem State.setPort_epm (s : State) (t x) : (s.setPort t x).epm = s.epm := rfl
@[simp] theorem State.setPort_ssu (s : State) (t x) : (s.setPort t x).ssu = s.ssu := rfl
@[simp] theorem State.setPort_hses (s : State) (t x) : (s.setPort t x).hses = s.hses := rfl
@[simp] theorem State.setPort_fab (s : State) (t x) : (s.setPort t x).fab = s.fab := rfl
@[simp] theorem State.setPort_gtc (s : State) (t x) : (s.setPort t x).gtc = s.gtc := rfl
@[simp] theorem State.setPort_pcs (s : State) (t x) : (s.setPort t x).pcs = s.pcs := rfl
@[simp] theorem State.setPort_out (s : State) (t x) : (s.setPort t x).out = s.out := rfl
@[simp] theorem State.setPort_nextId (s : State) (t x) : (s.setPort t x).nextId = s.nextId := rfl
@[simp] theorem State.setPort_free (s : State) (t x) : (s.setPort t x).free = s.free := rfl

@[simp] theorem State.setFport_pending (s : State) (t x) : (s.setFport t x).pending = s.pending := rfl
@[simp] theorem State.setFport_ods (s : State) (t x) : (s.setFport t x).ods = s.ods := rfl
@[simp] theorem State.setFport_faults (s : State) (t x) : (s.setFport t x).faults = s.faults := rfl
@[simp] theorem State.setFport_ctr (s : State) (t x) : (s.setFport t x).ctr = s.ctr := rfl
@[simp] theorem State.setFport_shelves (s : State) (t x) : (s.setFport t x).shelves = s.shelves := rfl
@[simp] theorem State.setFport_coh (s : State) (t x) : (s.setFport t x).coh = s.coh := rfl
@[simp] theorem State.setFport_rsps (s : State) (t x) : (s.setFport t x).rsps = s.rsps := rfl
@[simp] theorem State.setFport_mtu (s : State) (t x) : (s.setFport t x).mtu = s.mtu := rfl
@[simp] theorem State.setFport_sqe (s : State) (t x) : (s.setFport t x).sqe = s.sqe := rfl
@[simp] theorem State.setFport_sched (s : State) (t x) : (s.setFport t x).sched = s.sched := rfl
@[simp] theorem State.setFport_tiles (s : State) (t x) : (s.setFport t x).tiles = s.tiles := rfl
@[simp] theorem State.setFport_gpes (s : State) (t x) : (s.setFport t x).gpes = s.gpes := rfl
@[simp] theorem State.setFport_epm (s : State) (t x) : (s.setFport t x).epm = s.epm := rfl
@[simp] theorem State.setFport_ssu (s : State) (t x) : (s.setFport t x).ssu = s.ssu := rfl
@[simp] theorem State.setFport_hses (s : State) (t x) : (s.setFport t x).hses = s.hses := rfl
@[simp] theorem State.setFport_hlc (s : State) (t x) : (s.setFport t x).hlc = s.hlc := rfl
@[simp] theorem State.setFport_gtc (s : State) (t x) : (s.setFport t x).gtc = s.gtc := rfl
@[simp] theorem State.setFport_pcs (s : State) (t x) : (s.setFport t x).pcs = s.pcs := rfl
@[simp] theorem State.setFport_out (s : State) (t x) : (s.setFport t x).out = s.out := rfl
@[simp] theorem State.setFport_nextId (s : State) (t x) : (s.setFport t x).nextId = s.nextId := rfl
@[simp] theorem State.setFport_free (s : State) (t x) : (s.setFport t x).free = s.free := rfl

@[simp] theorem State.setSlice_pending (s : State) (t x) : (s.setSlice t x).pending = s.pending := rfl
@[simp] theorem State.setSlice_ods (s : State) (t x) : (s.setSlice t x).ods = s.ods := rfl
@[simp] theorem State.setSlice_faults (s : State) (t x) : (s.setSlice t x).faults = s.faults := rfl
@[simp] theorem State.setSlice_ctr (s : State) (t x) : (s.setSlice t x).ctr = s.ctr := rfl
@[simp] theorem State.setSlice_shelves (s : State) (t x) : (s.setSlice t x).shelves = s.shelves := rfl
@[simp] theorem State.setSlice_rsps (s : State) (t x) : (s.setSlice t x).rsps = s.rsps := rfl
@[simp] theorem State.setSlice_mtu (s : State) (t x) : (s.setSlice t x).mtu = s.mtu := rfl
@[simp] theorem State.setSlice_sqe (s : State) (t x) : (s.setSlice t x).sqe = s.sqe := rfl
@[simp] theorem State.setSlice_sched (s : State) (t x) : (s.setSlice t x).sched = s.sched := rfl
@[simp] theorem State.setSlice_tiles (s : State) (t x) : (s.setSlice t x).tiles = s.tiles := rfl
@[simp] theorem State.setSlice_gpes (s : State) (t x) : (s.setSlice t x).gpes = s.gpes := rfl
@[simp] theorem State.setSlice_epm (s : State) (t x) : (s.setSlice t x).epm = s.epm := rfl
@[simp] theorem State.setSlice_ssu (s : State) (t x) : (s.setSlice t x).ssu = s.ssu := rfl
@[simp] theorem State.setSlice_hses (s : State) (t x) : (s.setSlice t x).hses = s.hses := rfl
@[simp] theorem State.setSlice_hlc (s : State) (t x) : (s.setSlice t x).hlc = s.hlc := rfl
@[simp] theorem State.setSlice_fab (s : State) (t x) : (s.setSlice t x).fab = s.fab := rfl
@[simp] theorem State.setSlice_gtc (s : State) (t x) : (s.setSlice t x).gtc = s.gtc := rfl
@[simp] theorem State.setSlice_pcs (s : State) (t x) : (s.setSlice t x).pcs = s.pcs := rfl
@[simp] theorem State.setSlice_out (s : State) (t x) : (s.setSlice t x).out = s.out := rfl
@[simp] theorem State.setSlice_nextId (s : State) (t x) : (s.setSlice t x).nextId = s.nextId := rfl
@[simp] theorem State.setSlice_free (s : State) (t x) : (s.setSlice t x).free = s.free := rfl

@[simp] theorem State.setQueue_pending (s : State) (t x) : (s.setQueue t x).pending = s.pending := rfl
@[simp] theorem State.setQueue_ods (s : State) (t x) : (s.setQueue t x).ods = s.ods := rfl
@[simp] theorem State.setQueue_faults (s : State) (t x) : (s.setQueue t x).faults = s.faults := rfl
@[simp] theorem State.setQueue_ctr (s : State) (t x) : (s.setQueue t x).ctr = s.ctr := rfl
@[simp] theorem State.setQueue_shelves (s : State) (t x) : (s.setQueue t x).shelves = s.shelves := rfl
@[simp] theorem State.setQueue_coh (s : State) (t x) : (s.setQueue t x).coh = s.coh := rfl
@[simp] theorem State.setQueue_rsps (s : State) (t x) : (s.setQueue t x).rsps = s.rsps := rfl
@[simp] theorem State.setQueue_mtu (s : State) (t x) : (s.setQueue t x).mtu = s.mtu := rfl
@[simp] theorem State.setQueue_sched (s : State) (t x) : (s.setQueue t x).sched = s.sched := rfl
@[simp] theorem State.setQueue_tiles (s : State) (t x) : (s.setQueue t x).tiles = s.tiles := rfl
@[simp] theorem State.setQueue_gpes (s : State) (t x) : (s.setQueue t x).gpes = s.gpes := rfl
@[simp] theorem State.setQueue_epm (s : State) (t x) : (s.setQueue t x).epm = s.epm := rfl
@[simp] theorem State.setQueue_ssu (s : State) (t x) : (s.setQueue t x).ssu = s.ssu := rfl
@[simp] theorem State.setQueue_hses (s : State) (t x) : (s.setQueue t x).hses = s.hses := rfl
@[simp] theorem State.setQueue_hlc (s : State) (t x) : (s.setQueue t x).hlc = s.hlc := rfl
@[simp] theorem State.setQueue_fab (s : State) (t x) : (s.setQueue t x).fab = s.fab := rfl
@[simp] theorem State.setQueue_gtc (s : State) (t x) : (s.setQueue t x).gtc = s.gtc := rfl
@[simp] theorem State.setQueue_pcs (s : State) (t x) : (s.setQueue t x).pcs = s.pcs := rfl
@[simp] theorem State.setQueue_out (s : State) (t x) : (s.setQueue t x).out = s.out := rfl
@[simp] theorem State.setQueue_nextId (s : State) (t x) : (s.setQueue t x).nextId = s.nextId := rfl
@[simp] theorem State.setQueue_free (s : State) (t x) : (s.setQueue t x).free = s.free := rfl

@[simp] theorem State.setCls_pending (s : State) (t x) : (s.setCls t x).pending = s.pending := rfl
@[simp] theorem State.setCls_ods (s : State) (t x) : (s.setCls t x).ods = s.ods := rfl
@[simp] theorem State.setCls_faults (s : State) (t x) : (s.setCls t x).faults = s.faults := rfl
@[simp] theorem State.setCls_ctr (s : State) (t x) : (s.setCls t x).ctr = s.ctr := rfl
@[simp] theorem State.setCls_shelves (s : State) (t x) : (s.setCls t x).shelves = s.shelves := rfl
@[simp] theorem State.setCls_coh (s : State) (t x) : (s.setCls t x).coh = s.coh := rfl
@[simp] theorem State.setCls_rsps (s : State) (t x) : (s.setCls t x).rsps = s.rsps := rfl
@[simp] theorem State.setCls_mtu (s : State) (t x) : (s.setCls t x).mtu = s.mtu := rfl
@[simp] theorem State.setCls_sched (s : State) (t x) : (s.setCls t x).sched = s.sched := rfl
@[simp] theorem State.setCls_tiles (s : State) (t x) : (s.setCls t x).tiles = s.tiles := rfl
@[simp] theorem State.setCls_gpes (s : State) (t x) : (s.setCls t x).gpes = s.gpes := rfl
@[simp] theorem State.setCls_epm (s : State) (t x) : (s.setCls t x).epm = s.epm := rfl
@[simp] theorem State.setCls_ssu (s : State) (t x) : (s.setCls t x).ssu = s.ssu := rfl
@[simp] theorem State.setCls_hses (s : State) (t x) : (s.setCls t x).hses = s.hses := rfl
@[simp] theorem State.setCls_hlc (s : State) (t x) : (s.setCls t x).hlc = s.hlc := rfl
@[simp] theorem State.setCls_fab (s : State) (t x) : (s.setCls t x).fab = s.fab := rfl
@[simp] theorem State.setCls_gtc (s : State) (t x) : (s.setCls t x).gtc = s.gtc := rfl
@[simp] theorem State.setCls_pcs (s : State) (t x) : (s.setCls t x).pcs = s.pcs := rfl
@[simp] theorem State.setCls_out (s : State) (t x) : (s.setCls t x).out = s.out := rfl
@[simp] theorem State.setCls_nextId (s : State) (t x) : (s.setCls t x).nextId = s.nextId := rfl
@[simp] theorem State.setCls_free (s : State) (t x) : (s.setCls t x).free = s.free := rfl

@[simp] theorem State.setReq_pending (s : State) (t x) : (s.setReq t x).pending = s.pending := rfl
@[simp] theorem State.setReq_ods (s : State) (t x) : (s.setReq t x).ods = s.ods := rfl
@[simp] theorem State.setReq_faults (s : State) (t x) : (s.setReq t x).faults = s.faults := rfl
@[simp] theorem State.setReq_ctr (s : State) (t x) : (s.setReq t x).ctr = s.ctr := rfl
@[simp] theorem State.setReq_shelves (s : State) (t x) : (s.setReq t x).shelves = s.shelves := rfl
@[simp] theorem State.setReq_coh (s : State) (t x) : (s.setReq t x).coh = s.coh := rfl
@[simp] theorem State.setReq_rsps (s : State) (t x) : (s.setReq t x).rsps = s.rsps := rfl
@[simp] theorem State.setReq_mtu (s : State) (t x) : (s.setReq t x).mtu = s.mtu := rfl
@[simp] theorem State.setReq_sched (s : State) (t x) : (s.setReq t x).sched = s.sched := rfl
@[simp] theorem State.setReq_tiles (s : State) (t x) : (s.setReq t x).tiles = s.tiles := rfl
@[simp] theorem State.setReq_gpes (s : State) (t x) : (s.setReq t x).gpes = s.gpes := rfl
@[simp] theorem State.setReq_epm (s : State) (t x) : (s.setReq t x).epm = s.epm := rfl
@[simp] theorem State.setReq_ssu (s : State) (t x) : (s.setReq t x).ssu = s.ssu := rfl
@[simp] theorem State.setReq_hses (s : State) (t x) : (s.setReq t x).hses = s.hses := rfl
@[simp] theorem State.setReq_hlc (s : State) (t x) : (s.setReq t x).hlc = s.hlc := rfl
@[simp] theorem State.setReq_fab (s : State) (t x) : (s.setReq t x).fab = s.fab := rfl
@[simp] theorem State.setReq_gtc (s : State) (t x) : (s.setReq t x).gtc = s.gtc := rfl
@[simp] theorem State.setReq_pcs (s : State) (t x) : (s.setReq t x).pcs = s.pcs := rfl
@[simp] theorem State.setReq_out (s : State) (t x) : (s.setReq t x).out = s.out := rfl
@[simp] theorem State.setReq_nextId (s : State) (t x) : (s.setReq t x).nextId = s.nextId := rfl
@[simp] theorem State.setReq_free (s : State) (t x) : (s.setReq t x).free = s.free := rfl

@[simp] theorem State.setProg_pending (s : State) (t x) : (s.setProg t x).pending = s.pending := rfl
@[simp] theorem State.setProg_ods (s : State) (t x) : (s.setProg t x).ods = s.ods := rfl
@[simp] theorem State.setProg_faults (s : State) (t x) : (s.setProg t x).faults = s.faults := rfl
@[simp] theorem State.setProg_ctr (s : State) (t x) : (s.setProg t x).ctr = s.ctr := rfl
@[simp] theorem State.setProg_shelves (s : State) (t x) : (s.setProg t x).shelves = s.shelves := rfl
@[simp] theorem State.setProg_coh (s : State) (t x) : (s.setProg t x).coh = s.coh := rfl
@[simp] theorem State.setProg_rsps (s : State) (t x) : (s.setProg t x).rsps = s.rsps := rfl
@[simp] theorem State.setProg_mtu (s : State) (t x) : (s.setProg t x).mtu = s.mtu := rfl
@[simp] theorem State.setProg_sqe (s : State) (t x) : (s.setProg t x).sqe = s.sqe := rfl
@[simp] theorem State.setProg_tiles (s : State) (t x) : (s.setProg t x).tiles = s.tiles := rfl
@[simp] theorem State.setProg_gpes (s : State) (t x) : (s.setProg t x).gpes = s.gpes := rfl
@[simp] theorem State.setProg_epm (s : State) (t x) : (s.setProg t x).epm = s.epm := rfl
@[simp] theorem State.setProg_ssu (s : State) (t x) : (s.setProg t x).ssu = s.ssu := rfl
@[simp] theorem State.setProg_hses (s : State) (t x) : (s.setProg t x).hses = s.hses := rfl
@[simp] theorem State.setProg_hlc (s : State) (t x) : (s.setProg t x).hlc = s.hlc := rfl
@[simp] theorem State.setProg_fab (s : State) (t x) : (s.setProg t x).fab = s.fab := rfl
@[simp] theorem State.setProg_gtc (s : State) (t x) : (s.setProg t x).gtc = s.gtc := rfl
@[simp] theorem State.setProg_pcs (s : State) (t x) : (s.setProg t x).pcs = s.pcs := rfl
@[simp] theorem State.setProg_out (s : State) (t x) : (s.setProg t x).out = s.out := rfl
@[simp] theorem State.setProg_nextId (s : State) (t x) : (s.setProg t x).nextId = s.nextId := rfl
@[simp] theorem State.setProg_free (s : State) (t x) : (s.setProg t x).free = s.free := rfl

@[simp] theorem State.setCab_pending (s : State) (t x) : (s.setCab t x).pending = s.pending := rfl
@[simp] theorem State.setCab_ods (s : State) (t x) : (s.setCab t x).ods = s.ods := rfl
@[simp] theorem State.setCab_faults (s : State) (t x) : (s.setCab t x).faults = s.faults := rfl
@[simp] theorem State.setCab_ctr (s : State) (t x) : (s.setCab t x).ctr = s.ctr := rfl
@[simp] theorem State.setCab_shelves (s : State) (t x) : (s.setCab t x).shelves = s.shelves := rfl
@[simp] theorem State.setCab_coh (s : State) (t x) : (s.setCab t x).coh = s.coh := rfl
@[simp] theorem State.setCab_rsps (s : State) (t x) : (s.setCab t x).rsps = s.rsps := rfl
@[simp] theorem State.setCab_mtu (s : State) (t x) : (s.setCab t x).mtu = s.mtu := rfl
@[simp] theorem State.setCab_sqe (s : State) (t x) : (s.setCab t x).sqe = s.sqe := rfl
@[simp] theorem State.setCab_tiles (s : State) (t x) : (s.setCab t x).tiles = s.tiles := rfl
@[simp] theorem State.setCab_gpes (s : State) (t x) : (s.setCab t x).gpes = s.gpes := rfl
@[simp] theorem State.setCab_epm (s : State) (t x) : (s.setCab t x).epm = s.epm := rfl
@[simp] theorem State.setCab_ssu (s : State) (t x) : (s.setCab t x).ssu = s.ssu := rfl
@[simp] theorem State.setCab_hses (s : State) (t x) : (s.setCab t x).hses = s.hses := rfl
@[simp] theorem State.setCab_hlc (s : State) (t x) : (s.setCab t x).hlc = s.hlc := rfl
@[simp] theorem State.setCab_fab (s : State) (t x) : (s.setCab t x).fab = s.fab := rfl
@[simp] theorem State.setCab_gtc (s : State) (t x) : (s.setCab t x).gtc = s.gtc := rfl
@[simp] theorem State.setCab_out (s : State) (t x) : (s.setCab t x).out = s.out := rfl
@[simp] theorem State.setCab_nextId (s : State) (t x) : (s.setCab t x).nextId = s.nextId := rfl
@[simp] theorem State.setCab_free (s : State) (t x) : (s.setCab t x).free = s.free := rfl

@[simp] theorem State.setTable_pending (s : State) (t x) : (s.setTable t x).pending = s.pending := rfl
@[simp] theorem State.setTable_ods (s : State) (t x) : (s.setTable t x).ods = s.ods := rfl
@[simp] theorem State.setTable_faults (s : State) (t x) : (s.setTable t x).faults = s.faults := rfl
@[simp] theorem State.setTable_ctr (s : State) (t x) : (s.setTable t x).ctr = s.ctr := rfl
@[simp] theorem State.setTable_shelves (s : State) (t x) : (s.setTable t x).shelves = s.shelves := rfl
@[simp] theorem State.setTable_coh (s : State) (t x) : (s.setTable t x).coh = s.coh := rfl
@[simp] theorem State.setTable_rsps (s : State) (t x) : (s.setTable t x).rsps = s.rsps := rfl
@[simp] theorem State.setTable_mtu (s : State) (t x) : (s.setTable t x).mtu = s.mtu := rfl
@[simp] theorem State.setTable_sqe (s : State) (t x) : (s.setTable t x).sqe = s.sqe := rfl
@[simp] theorem State.setTable_sched (s : State) (t x) : (s.setTable t x).sched = s.sched := rfl
@[simp] theorem State.setTable_tiles (s : State) (t x) : (s.setTable t x).tiles = s.tiles := rfl
@[simp] theorem State.setTable_gpes (s : State) (t x) : (s.setTable t x).gpes = s.gpes := rfl
@[simp] theorem State.setTable_ssu (s : State) (t x) : (s.setTable t x).ssu = s.ssu := rfl
@[simp] theorem State.setTable_hses (s : State) (t x) : (s.setTable t x).hses = s.hses := rfl
@[simp] theorem State.setTable_hlc (s : State) (t x) : (s.setTable t x).hlc = s.hlc := rfl
@[simp] theorem State.setTable_fab (s : State) (t x) : (s.setTable t x).fab = s.fab := rfl
@[simp] theorem State.setTable_gtc (s : State) (t x) : (s.setTable t x).gtc = s.gtc := rfl
@[simp] theorem State.setTable_pcs (s : State) (t x) : (s.setTable t x).pcs = s.pcs := rfl
@[simp] theorem State.setTable_out (s : State) (t x) : (s.setTable t x).out = s.out := rfl
@[simp] theorem State.setTable_nextId (s : State) (t x) : (s.setTable t x).nextId = s.nextId := rfl
@[simp] theorem State.setTable_free (s : State) (t x) : (s.setTable t x).free = s.free := rfl

@[simp] theorem State.setRing_pending (s : State) (t x) : (s.setRing t x).pending = s.pending := rfl
@[simp] theorem State.setRing_ods (s : State) (t x) : (s.setRing t x).ods = s.ods := rfl
@[simp] theorem State.setRing_faults (s : State) (t x) : (s.setRing t x).faults = s.faults := rfl
@[simp] theorem State.setRing_ctr (s : State) (t x) : (s.setRing t x).ctr = s.ctr := rfl
@[simp] theorem State.setRing_shelves (s : State) (t x) : (s.setRing t x).shelves = s.shelves := rfl
@[simp] theorem State.setRing_coh (s : State) (t x) : (s.setRing t x).coh = s.coh := rfl
@[simp] theorem State.setRing_rsps (s : State) (t x) : (s.setRing t x).rsps = s.rsps := rfl
@[simp] theorem State.setRing_mtu (s : State) (t x) : (s.setRing t x).mtu = s.mtu := rfl
@[simp] theorem State.setRing_sqe (s : State) (t x) : (s.setRing t x).sqe = s.sqe := rfl
@[simp] theorem State.setRing_sched (s : State) (t x) : (s.setRing t x).sched = s.sched := rfl
@[simp] theorem State.setRing_tiles (s : State) (t x) : (s.setRing t x).tiles = s.tiles := rfl
@[simp] theorem State.setRing_gpes (s : State) (t x) : (s.setRing t x).gpes = s.gpes := rfl
@[simp] theorem State.setRing_ssu (s : State) (t x) : (s.setRing t x).ssu = s.ssu := rfl
@[simp] theorem State.setRing_hses (s : State) (t x) : (s.setRing t x).hses = s.hses := rfl
@[simp] theorem State.setRing_hlc (s : State) (t x) : (s.setRing t x).hlc = s.hlc := rfl
@[simp] theorem State.setRing_fab (s : State) (t x) : (s.setRing t x).fab = s.fab := rfl
@[simp] theorem State.setRing_gtc (s : State) (t x) : (s.setRing t x).gtc = s.gtc := rfl
@[simp] theorem State.setRing_pcs (s : State) (t x) : (s.setRing t x).pcs = s.pcs := rfl
@[simp] theorem State.setRing_out (s : State) (t x) : (s.setRing t x).out = s.out := rfl
@[simp] theorem State.setRing_nextId (s : State) (t x) : (s.setRing t x).nextId = s.nextId := rfl
@[simp] theorem State.setRing_free (s : State) (t x) : (s.setRing t x).free = s.free := rfl

@[simp] theorem State.setEvRing_pending (s : State) (t x) : (s.setEvRing t x).pending = s.pending := rfl
@[simp] theorem State.setEvRing_ods (s : State) (t x) : (s.setEvRing t x).ods = s.ods := rfl
@[simp] theorem State.setEvRing_faults (s : State) (t x) : (s.setEvRing t x).faults = s.faults := rfl
@[simp] theorem State.setEvRing_ctr (s : State) (t x) : (s.setEvRing t x).ctr = s.ctr := rfl
@[simp] theorem State.setEvRing_shelves (s : State) (t x) : (s.setEvRing t x).shelves = s.shelves := rfl
@[simp] theorem State.setEvRing_coh (s : State) (t x) : (s.setEvRing t x).coh = s.coh := rfl
@[simp] theorem State.setEvRing_rsps (s : State) (t x) : (s.setEvRing t x).rsps = s.rsps := rfl
@[simp] theorem State.setEvRing_mtu (s : State) (t x) : (s.setEvRing t x).mtu = s.mtu := rfl
@[simp] theorem State.setEvRing_sqe (s : State) (t x) : (s.setEvRing t x).sqe = s.sqe := rfl
@[simp] theorem State.setEvRing_sched (s : State) (t x) : (s.setEvRing t x).sched = s.sched := rfl
@[simp] theorem State.setEvRing_tiles (s : State) (t x) : (s.setEvRing t x).tiles = s.tiles := rfl
@[simp] theorem State.setEvRing_gpes (s : State) (t x) : (s.setEvRing t x).gpes = s.gpes := rfl
@[simp] theorem State.setEvRing_epm (s : State) (t x) : (s.setEvRing t x).epm = s.epm := rfl
@[simp] theorem State.setEvRing_hses (s : State) (t x) : (s.setEvRing t x).hses = s.hses := rfl
@[simp] theorem State.setEvRing_hlc (s : State) (t x) : (s.setEvRing t x).hlc = s.hlc := rfl
@[simp] theorem State.setEvRing_fab (s : State) (t x) : (s.setEvRing t x).fab = s.fab := rfl
@[simp] theorem State.setEvRing_gtc (s : State) (t x) : (s.setEvRing t x).gtc = s.gtc := rfl
@[simp] theorem State.setEvRing_pcs (s : State) (t x) : (s.setEvRing t x).pcs = s.pcs := rfl
@[simp] theorem State.setEvRing_out (s : State) (t x) : (s.setEvRing t x).out = s.out := rfl
@[simp] theorem State.setEvRing_nextId (s : State) (t x) : (s.setEvRing t x).nextId = s.nextId := rfl
@[simp] theorem State.setEvRing_free (s : State) (t x) : (s.setEvRing t x).free = s.free := rfl

@[simp] theorem State.setDrawer_pending (s : State) (t x) : (s.setDrawer t x).pending = s.pending := rfl
@[simp] theorem State.setDrawer_ods (s : State) (t x) : (s.setDrawer t x).ods = s.ods := rfl
@[simp] theorem State.setDrawer_faults (s : State) (t x) : (s.setDrawer t x).faults = s.faults := rfl
@[simp] theorem State.setDrawer_ctr (s : State) (t x) : (s.setDrawer t x).ctr = s.ctr := rfl
@[simp] theorem State.setDrawer_shelves (s : State) (t x) : (s.setDrawer t x).shelves = s.shelves := rfl
@[simp] theorem State.setDrawer_coh (s : State) (t x) : (s.setDrawer t x).coh = s.coh := rfl
@[simp] theorem State.setDrawer_rsps (s : State) (t x) : (s.setDrawer t x).rsps = s.rsps := rfl
@[simp] theorem State.setDrawer_mtu (s : State) (t x) : (s.setDrawer t x).mtu = s.mtu := rfl
@[simp] theorem State.setDrawer_sqe (s : State) (t x) : (s.setDrawer t x).sqe = s.sqe := rfl
@[simp] theorem State.setDrawer_sched (s : State) (t x) : (s.setDrawer t x).sched = s.sched := rfl
@[simp] theorem State.setDrawer_tiles (s : State) (t x) : (s.setDrawer t x).tiles = s.tiles := rfl
@[simp] theorem State.setDrawer_gpes (s : State) (t x) : (s.setDrawer t x).gpes = s.gpes := rfl
@[simp] theorem State.setDrawer_epm (s : State) (t x) : (s.setDrawer t x).epm = s.epm := rfl
@[simp] theorem State.setDrawer_hses (s : State) (t x) : (s.setDrawer t x).hses = s.hses := rfl
@[simp] theorem State.setDrawer_hlc (s : State) (t x) : (s.setDrawer t x).hlc = s.hlc := rfl
@[simp] theorem State.setDrawer_fab (s : State) (t x) : (s.setDrawer t x).fab = s.fab := rfl
@[simp] theorem State.setDrawer_gtc (s : State) (t x) : (s.setDrawer t x).gtc = s.gtc := rfl
@[simp] theorem State.setDrawer_pcs (s : State) (t x) : (s.setDrawer t x).pcs = s.pcs := rfl
@[simp] theorem State.setDrawer_out (s : State) (t x) : (s.setDrawer t x).out = s.out := rfl
@[simp] theorem State.setDrawer_nextId (s : State) (t x) : (s.setDrawer t x).nextId = s.nextId := rfl
@[simp] theorem State.setDrawer_free (s : State) (t x) : (s.setDrawer t x).free = s.free := rfl

@[simp] theorem State.setFq_pending (s : State) (t x) : (s.setFq t x).pending = s.pending := rfl
@[simp] theorem State.setFq_ods (s : State) (t x) : (s.setFq t x).ods = s.ods := rfl
@[simp] theorem State.setFq_faults (s : State) (t x) : (s.setFq t x).faults = s.faults := rfl
@[simp] theorem State.setFq_ctr (s : State) (t x) : (s.setFq t x).ctr = s.ctr := rfl
@[simp] theorem State.setFq_shelves (s : State) (t x) : (s.setFq t x).shelves = s.shelves := rfl
@[simp] theorem State.setFq_coh (s : State) (t x) : (s.setFq t x).coh = s.coh := rfl
@[simp] theorem State.setFq_rsps (s : State) (t x) : (s.setFq t x).rsps = s.rsps := rfl
@[simp] theorem State.setFq_sqe (s : State) (t x) : (s.setFq t x).sqe = s.sqe := rfl
@[simp] theorem State.setFq_sched (s : State) (t x) : (s.setFq t x).sched = s.sched := rfl
@[simp] theorem State.setFq_tiles (s : State) (t x) : (s.setFq t x).tiles = s.tiles := rfl
@[simp] theorem State.setFq_gpes (s : State) (t x) : (s.setFq t x).gpes = s.gpes := rfl
@[simp] theorem State.setFq_epm (s : State) (t x) : (s.setFq t x).epm = s.epm := rfl
@[simp] theorem State.setFq_ssu (s : State) (t x) : (s.setFq t x).ssu = s.ssu := rfl
@[simp] theorem State.setFq_hses (s : State) (t x) : (s.setFq t x).hses = s.hses := rfl
@[simp] theorem State.setFq_hlc (s : State) (t x) : (s.setFq t x).hlc = s.hlc := rfl
@[simp] theorem State.setFq_fab (s : State) (t x) : (s.setFq t x).fab = s.fab := rfl
@[simp] theorem State.setFq_gtc (s : State) (t x) : (s.setFq t x).gtc = s.gtc := rfl
@[simp] theorem State.setFq_pcs (s : State) (t x) : (s.setFq t x).pcs = s.pcs := rfl
@[simp] theorem State.setFq_out (s : State) (t x) : (s.setFq t x).out = s.out := rfl
@[simp] theorem State.setFq_nextId (s : State) (t x) : (s.setFq t x).nextId = s.nextId := rfl
@[simp] theorem State.setFq_free (s : State) (t x) : (s.setFq t x).free = s.free := rfl

@[simp] theorem State.setCmd_pending (s : State) (t u x) : (s.setCmd t u x).pending = s.pending := rfl
@[simp] theorem State.setCmd_faults (s : State) (t u x) : (s.setCmd t u x).faults = s.faults := rfl
@[simp] theorem State.setCmd_ctr (s : State) (t u x) : (s.setCmd t u x).ctr = s.ctr := rfl
@[simp] theorem State.setCmd_shelves (s : State) (t u x) : (s.setCmd t u x).shelves = s.shelves := rfl
@[simp] theorem State.setCmd_coh (s : State) (t u x) : (s.setCmd t u x).coh = s.coh := rfl
@[simp] theorem State.setCmd_rsps (s : State) (t u x) : (s.setCmd t u x).rsps = s.rsps := rfl
@[simp] theorem State.setCmd_mtu (s : State) (t u x) : (s.setCmd t u x).mtu = s.mtu := rfl
@[simp] theorem State.setCmd_sqe (s : State) (t u x) : (s.setCmd t u x).sqe = s.sqe := rfl
@[simp] theorem State.setCmd_sched (s : State) (t u x) : (s.setCmd t u x).sched = s.sched := rfl
@[simp] theorem State.setCmd_tiles (s : State) (t u x) : (s.setCmd t u x).tiles = s.tiles := rfl
@[simp] theorem State.setCmd_gpes (s : State) (t u x) : (s.setCmd t u x).gpes = s.gpes := rfl
@[simp] theorem State.setCmd_epm (s : State) (t u x) : (s.setCmd t u x).epm = s.epm := rfl
@[simp] theorem State.setCmd_ssu (s : State) (t u x) : (s.setCmd t u x).ssu = s.ssu := rfl
@[simp] theorem State.setCmd_hses (s : State) (t u x) : (s.setCmd t u x).hses = s.hses := rfl
@[simp] theorem State.setCmd_hlc (s : State) (t u x) : (s.setCmd t u x).hlc = s.hlc := rfl
@[simp] theorem State.setCmd_fab (s : State) (t u x) : (s.setCmd t u x).fab = s.fab := rfl
@[simp] theorem State.setCmd_gtc (s : State) (t u x) : (s.setCmd t u x).gtc = s.gtc := rfl
@[simp] theorem State.setCmd_pcs (s : State) (t u x) : (s.setCmd t u x).pcs = s.pcs := rfl
@[simp] theorem State.setCmd_out (s : State) (t u x) : (s.setCmd t u x).out = s.out := rfl
@[simp] theorem State.setCmd_nextId (s : State) (t u x) : (s.setCmd t u x).nextId = s.nextId := rfl
@[simp] theorem State.setCmd_free (s : State) (t u x) : (s.setCmd t u x).free = s.free := rfl

@[simp] theorem State.wr_pending (s : State) (t u x) : (s.wr t u x).pending = s.pending := rfl
@[simp] theorem State.wr_faults (s : State) (t u x) : (s.wr t u x).faults = s.faults := rfl
@[simp] theorem State.wr_ctr (s : State) (t u x) : (s.wr t u x).ctr = s.ctr := rfl
@[simp] theorem State.wr_shelves (s : State) (t u x) : (s.wr t u x).shelves = s.shelves := rfl
@[simp] theorem State.wr_coh (s : State) (t u x) : (s.wr t u x).coh = s.coh := rfl
@[simp] theorem State.wr_rsps (s : State) (t u x) : (s.wr t u x).rsps = s.rsps := rfl
@[simp] theorem State.wr_mtu (s : State) (t u x) : (s.wr t u x).mtu = s.mtu := rfl
@[simp] theorem State.wr_sqe (s : State) (t u x) : (s.wr t u x).sqe = s.sqe := rfl
@[simp] theorem State.wr_sched (s : State) (t u x) : (s.wr t u x).sched = s.sched := rfl
@[simp] theorem State.wr_tiles (s : State) (t u x) : (s.wr t u x).tiles = s.tiles := rfl
@[simp] theorem State.wr_gpes (s : State) (t u x) : (s.wr t u x).gpes = s.gpes := rfl
@[simp] theorem State.wr_epm (s : State) (t u x) : (s.wr t u x).epm = s.epm := rfl
@[simp] theorem State.wr_ssu (s : State) (t u x) : (s.wr t u x).ssu = s.ssu := rfl
@[simp] theorem State.wr_hses (s : State) (t u x) : (s.wr t u x).hses = s.hses := rfl
@[simp] theorem State.wr_hlc (s : State) (t u x) : (s.wr t u x).hlc = s.hlc := rfl
@[simp] theorem State.wr_fab (s : State) (t u x) : (s.wr t u x).fab = s.fab := rfl
@[simp] theorem State.wr_gtc (s : State) (t u x) : (s.wr t u x).gtc = s.gtc := rfl
@[simp] theorem State.wr_pcs (s : State) (t u x) : (s.wr t u x).pcs = s.pcs := rfl
@[simp] theorem State.wr_out (s : State) (t u x) : (s.wr t u x).out = s.out := rfl
@[simp] theorem State.wr_nextId (s : State) (t u x) : (s.wr t u x).nextId = s.nextId := rfl
@[simp] theorem State.wr_free (s : State) (t u x) : (s.wr t u x).free = s.free := rfl

@[simp] theorem State.setFaultInst_pending (s : State) (t u x) : (s.setFaultInst t u x).pending = s.pending := rfl
@[simp] theorem State.setFaultInst_ods (s : State) (t u x) : (s.setFaultInst t u x).ods = s.ods := rfl
@[simp] theorem State.setFaultInst_ctr (s : State) (t u x) : (s.setFaultInst t u x).ctr = s.ctr := rfl
@[simp] theorem State.setFaultInst_shelves (s : State) (t u x) : (s.setFaultInst t u x).shelves = s.shelves := rfl
@[simp] theorem State.setFaultInst_coh (s : State) (t u x) : (s.setFaultInst t u x).coh = s.coh := rfl
@[simp] theorem State.setFaultInst_rsps (s : State) (t u x) : (s.setFaultInst t u x).rsps = s.rsps := rfl
@[simp] theorem State.setFaultInst_mtu (s : State) (t u x) : (s.setFaultInst t u x).mtu = s.mtu := rfl
@[simp] theorem State.setFaultInst_sqe (s : State) (t u x) : (s.setFaultInst t u x).sqe = s.sqe := rfl
@[simp] theorem State.setFaultInst_sched (s : State) (t u x) : (s.setFaultInst t u x).sched = s.sched := rfl
@[simp] theorem State.setFaultInst_tiles (s : State) (t u x) : (s.setFaultInst t u x).tiles = s.tiles := rfl
@[simp] theorem State.setFaultInst_gpes (s : State) (t u x) : (s.setFaultInst t u x).gpes = s.gpes := rfl
@[simp] theorem State.setFaultInst_epm (s : State) (t u x) : (s.setFaultInst t u x).epm = s.epm := rfl
@[simp] theorem State.setFaultInst_ssu (s : State) (t u x) : (s.setFaultInst t u x).ssu = s.ssu := rfl
@[simp] theorem State.setFaultInst_hses (s : State) (t u x) : (s.setFaultInst t u x).hses = s.hses := rfl
@[simp] theorem State.setFaultInst_hlc (s : State) (t u x) : (s.setFaultInst t u x).hlc = s.hlc := rfl
@[simp] theorem State.setFaultInst_fab (s : State) (t u x) : (s.setFaultInst t u x).fab = s.fab := rfl
@[simp] theorem State.setFaultInst_gtc (s : State) (t u x) : (s.setFaultInst t u x).gtc = s.gtc := rfl
@[simp] theorem State.setFaultInst_pcs (s : State) (t u x) : (s.setFaultInst t u x).pcs = s.pcs := rfl
@[simp] theorem State.setFaultInst_out (s : State) (t u x) : (s.setFaultInst t u x).out = s.out := rfl
@[simp] theorem State.setFaultInst_nextId (s : State) (t u x) : (s.setFaultInst t u x).nextId = s.nextId := rfl
@[simp] theorem State.setFaultInst_free (s : State) (t u x) : (s.setFaultInst t u x).free = s.free := rfl

@[simp] theorem State.setCtxFault_pending (s : State) (t x) : (s.setCtxFault t x).pending = s.pending := rfl
@[simp] theorem State.setCtxFault_ods (s : State) (t x) : (s.setCtxFault t x).ods = s.ods := rfl
@[simp] theorem State.setCtxFault_faults (s : State) (t x) : (s.setCtxFault t x).faults = s.faults := rfl
@[simp] theorem State.setCtxFault_ctr (s : State) (t x) : (s.setCtxFault t x).ctr = s.ctr := rfl
@[simp] theorem State.setCtxFault_shelves (s : State) (t x) : (s.setCtxFault t x).shelves = s.shelves := rfl
@[simp] theorem State.setCtxFault_coh (s : State) (t x) : (s.setCtxFault t x).coh = s.coh := rfl
@[simp] theorem State.setCtxFault_rsps (s : State) (t x) : (s.setCtxFault t x).rsps = s.rsps := rfl
@[simp] theorem State.setCtxFault_sqe (s : State) (t x) : (s.setCtxFault t x).sqe = s.sqe := rfl
@[simp] theorem State.setCtxFault_sched (s : State) (t x) : (s.setCtxFault t x).sched = s.sched := rfl
@[simp] theorem State.setCtxFault_tiles (s : State) (t x) : (s.setCtxFault t x).tiles = s.tiles := rfl
@[simp] theorem State.setCtxFault_gpes (s : State) (t x) : (s.setCtxFault t x).gpes = s.gpes := rfl
@[simp] theorem State.setCtxFault_epm (s : State) (t x) : (s.setCtxFault t x).epm = s.epm := rfl
@[simp] theorem State.setCtxFault_ssu (s : State) (t x) : (s.setCtxFault t x).ssu = s.ssu := rfl
@[simp] theorem State.setCtxFault_hses (s : State) (t x) : (s.setCtxFault t x).hses = s.hses := rfl
@[simp] theorem State.setCtxFault_hlc (s : State) (t x) : (s.setCtxFault t x).hlc = s.hlc := rfl
@[simp] theorem State.setCtxFault_fab (s : State) (t x) : (s.setCtxFault t x).fab = s.fab := rfl
@[simp] theorem State.setCtxFault_gtc (s : State) (t x) : (s.setCtxFault t x).gtc = s.gtc := rfl
@[simp] theorem State.setCtxFault_pcs (s : State) (t x) : (s.setCtxFault t x).pcs = s.pcs := rfl
@[simp] theorem State.setCtxFault_out (s : State) (t x) : (s.setCtxFault t x).out = s.out := rfl
@[simp] theorem State.setCtxFault_nextId (s : State) (t x) : (s.setCtxFault t x).nextId = s.nextId := rfl
@[simp] theorem State.setCtxFault_free (s : State) (t x) : (s.setCtxFault t x).free = s.free := rfl

@[simp] theorem State.setCarve_pending (s : State) (t x) : (s.setCarve t x).pending = s.pending := rfl
@[simp] theorem State.setCarve_ods (s : State) (t x) : (s.setCarve t x).ods = s.ods := rfl
@[simp] theorem State.setCarve_faults (s : State) (t x) : (s.setCarve t x).faults = s.faults := rfl
@[simp] theorem State.setCarve_ctr (s : State) (t x) : (s.setCarve t x).ctr = s.ctr := rfl
@[simp] theorem State.setCarve_coh (s : State) (t x) : (s.setCarve t x).coh = s.coh := rfl
@[simp] theorem State.setCarve_rsps (s : State) (t x) : (s.setCarve t x).rsps = s.rsps := rfl
@[simp] theorem State.setCarve_mtu (s : State) (t x) : (s.setCarve t x).mtu = s.mtu := rfl
@[simp] theorem State.setCarve_sqe (s : State) (t x) : (s.setCarve t x).sqe = s.sqe := rfl
@[simp] theorem State.setCarve_sched (s : State) (t x) : (s.setCarve t x).sched = s.sched := rfl
@[simp] theorem State.setCarve_tiles (s : State) (t x) : (s.setCarve t x).tiles = s.tiles := rfl
@[simp] theorem State.setCarve_gpes (s : State) (t x) : (s.setCarve t x).gpes = s.gpes := rfl
@[simp] theorem State.setCarve_epm (s : State) (t x) : (s.setCarve t x).epm = s.epm := rfl
@[simp] theorem State.setCarve_ssu (s : State) (t x) : (s.setCarve t x).ssu = s.ssu := rfl
@[simp] theorem State.setCarve_hses (s : State) (t x) : (s.setCarve t x).hses = s.hses := rfl
@[simp] theorem State.setCarve_hlc (s : State) (t x) : (s.setCarve t x).hlc = s.hlc := rfl
@[simp] theorem State.setCarve_fab (s : State) (t x) : (s.setCarve t x).fab = s.fab := rfl
@[simp] theorem State.setCarve_gtc (s : State) (t x) : (s.setCarve t x).gtc = s.gtc := rfl
@[simp] theorem State.setCarve_pcs (s : State) (t x) : (s.setCarve t x).pcs = s.pcs := rfl
@[simp] theorem State.setCarve_out (s : State) (t x) : (s.setCarve t x).out = s.out := rfl
@[simp] theorem State.setCarve_nextId (s : State) (t x) : (s.setCarve t x).nextId = s.nextId := rfl
@[simp] theorem State.setCarve_free (s : State) (t x) : (s.setCarve t x).free = s.free := rfl

@[simp] theorem State.bump_pending (s : State) (t u k x) : (s.bump t u k x).pending = s.pending := rfl
@[simp] theorem State.bump_ods (s : State) (t u k x) : (s.bump t u k x).ods = s.ods := rfl
@[simp] theorem State.bump_faults (s : State) (t u k x) : (s.bump t u k x).faults = s.faults := rfl
@[simp] theorem State.bump_shelves (s : State) (t u k x) : (s.bump t u k x).shelves = s.shelves := rfl
@[simp] theorem State.bump_coh (s : State) (t u k x) : (s.bump t u k x).coh = s.coh := rfl
@[simp] theorem State.bump_rsps (s : State) (t u k x) : (s.bump t u k x).rsps = s.rsps := rfl
@[simp] theorem State.bump_mtu (s : State) (t u k x) : (s.bump t u k x).mtu = s.mtu := rfl
@[simp] theorem State.bump_sqe (s : State) (t u k x) : (s.bump t u k x).sqe = s.sqe := rfl
@[simp] theorem State.bump_sched (s : State) (t u k x) : (s.bump t u k x).sched = s.sched := rfl
@[simp] theorem State.bump_tiles (s : State) (t u k x) : (s.bump t u k x).tiles = s.tiles := rfl
@[simp] theorem State.bump_gpes (s : State) (t u k x) : (s.bump t u k x).gpes = s.gpes := rfl
@[simp] theorem State.bump_epm (s : State) (t u k x) : (s.bump t u k x).epm = s.epm := rfl
@[simp] theorem State.bump_ssu (s : State) (t u k x) : (s.bump t u k x).ssu = s.ssu := rfl
@[simp] theorem State.bump_hses (s : State) (t u k x) : (s.bump t u k x).hses = s.hses := rfl
@[simp] theorem State.bump_hlc (s : State) (t u k x) : (s.bump t u k x).hlc = s.hlc := rfl
@[simp] theorem State.bump_fab (s : State) (t u k x) : (s.bump t u k x).fab = s.fab := rfl
@[simp] theorem State.bump_gtc (s : State) (t u k x) : (s.bump t u k x).gtc = s.gtc := rfl
@[simp] theorem State.bump_pcs (s : State) (t u k x) : (s.bump t u k x).pcs = s.pcs := rfl
@[simp] theorem State.bump_out (s : State) (t u k x) : (s.bump t u k x).out = s.out := rfl
@[simp] theorem State.bump_nextId (s : State) (t u k x) : (s.bump t u k x).nextId = s.nextId := rfl
@[simp] theorem State.bump_free (s : State) (t u k x) : (s.bump t u k x).free = s.free := rfl

@[simp] theorem State.clearCtr_pending (s : State) (t u k) : (s.clearCtr t u k).pending = s.pending := rfl
@[simp] theorem State.clearCtr_ods (s : State) (t u k) : (s.clearCtr t u k).ods = s.ods := rfl
@[simp] theorem State.clearCtr_faults (s : State) (t u k) : (s.clearCtr t u k).faults = s.faults := rfl
@[simp] theorem State.clearCtr_shelves (s : State) (t u k) : (s.clearCtr t u k).shelves = s.shelves := rfl
@[simp] theorem State.clearCtr_coh (s : State) (t u k) : (s.clearCtr t u k).coh = s.coh := rfl
@[simp] theorem State.clearCtr_rsps (s : State) (t u k) : (s.clearCtr t u k).rsps = s.rsps := rfl
@[simp] theorem State.clearCtr_mtu (s : State) (t u k) : (s.clearCtr t u k).mtu = s.mtu := rfl
@[simp] theorem State.clearCtr_sqe (s : State) (t u k) : (s.clearCtr t u k).sqe = s.sqe := rfl
@[simp] theorem State.clearCtr_sched (s : State) (t u k) : (s.clearCtr t u k).sched = s.sched := rfl
@[simp] theorem State.clearCtr_tiles (s : State) (t u k) : (s.clearCtr t u k).tiles = s.tiles := rfl
@[simp] theorem State.clearCtr_gpes (s : State) (t u k) : (s.clearCtr t u k).gpes = s.gpes := rfl
@[simp] theorem State.clearCtr_epm (s : State) (t u k) : (s.clearCtr t u k).epm = s.epm := rfl
@[simp] theorem State.clearCtr_ssu (s : State) (t u k) : (s.clearCtr t u k).ssu = s.ssu := rfl
@[simp] theorem State.clearCtr_hses (s : State) (t u k) : (s.clearCtr t u k).hses = s.hses := rfl
@[simp] theorem State.clearCtr_hlc (s : State) (t u k) : (s.clearCtr t u k).hlc = s.hlc := rfl
@[simp] theorem State.clearCtr_fab (s : State) (t u k) : (s.clearCtr t u k).fab = s.fab := rfl
@[simp] theorem State.clearCtr_gtc (s : State) (t u k) : (s.clearCtr t u k).gtc = s.gtc := rfl
@[simp] theorem State.clearCtr_pcs (s : State) (t u k) : (s.clearCtr t u k).pcs = s.pcs := rfl
@[simp] theorem State.clearCtr_out (s : State) (t u k) : (s.clearCtr t u k).out = s.out := rfl
@[simp] theorem State.clearCtr_nextId (s : State) (t u k) : (s.clearCtr t u k).nextId = s.nextId := rfl
@[simp] theorem State.clearCtr_free (s : State) (t u k) : (s.clearCtr t u k).free = s.free := rfl

@[simp] theorem State.draw_fst (s : State) : s.draw.1 = Config.freeNat s.free := rfl
@[simp] theorem State.fresh_fst (s : State) : s.fresh.1 = s.nextId := rfl
@[simp] theorem State.draw_pending (s : State) : s.draw.2.pending = s.pending := rfl
@[simp] theorem State.fresh_pending (s : State) : s.fresh.2.pending = s.pending := rfl
@[simp] theorem State.draw_ods (s : State) : s.draw.2.ods = s.ods := rfl
@[simp] theorem State.fresh_ods (s : State) : s.fresh.2.ods = s.ods := rfl
@[simp] theorem State.draw_faults (s : State) : s.draw.2.faults = s.faults := rfl
@[simp] theorem State.fresh_faults (s : State) : s.fresh.2.faults = s.faults := rfl
@[simp] theorem State.draw_ctr (s : State) : s.draw.2.ctr = s.ctr := rfl
@[simp] theorem State.fresh_ctr (s : State) : s.fresh.2.ctr = s.ctr := rfl
@[simp] theorem State.draw_shelves (s : State) : s.draw.2.shelves = s.shelves := rfl
@[simp] theorem State.fresh_shelves (s : State) : s.fresh.2.shelves = s.shelves := rfl
@[simp] theorem State.draw_coh (s : State) : s.draw.2.coh = s.coh := rfl
@[simp] theorem State.fresh_coh (s : State) : s.fresh.2.coh = s.coh := rfl
@[simp] theorem State.draw_rsps (s : State) : s.draw.2.rsps = s.rsps := rfl
@[simp] theorem State.fresh_rsps (s : State) : s.fresh.2.rsps = s.rsps := rfl
@[simp] theorem State.draw_mtu (s : State) : s.draw.2.mtu = s.mtu := rfl
@[simp] theorem State.fresh_mtu (s : State) : s.fresh.2.mtu = s.mtu := rfl
@[simp] theorem State.draw_sqe (s : State) : s.draw.2.sqe = s.sqe := rfl
@[simp] theorem State.fresh_sqe (s : State) : s.fresh.2.sqe = s.sqe := rfl
@[simp] theorem State.draw_sched (s : State) : s.draw.2.sched = s.sched := rfl
@[simp] theorem State.fresh_sched (s : State) : s.fresh.2.sched = s.sched := rfl
@[simp] theorem State.draw_tiles (s : State) : s.draw.2.tiles = s.tiles := rfl
@[simp] theorem State.fresh_tiles (s : State) : s.fresh.2.tiles = s.tiles := rfl
@[simp] theorem State.draw_gpes (s : State) : s.draw.2.gpes = s.gpes := rfl
@[simp] theorem State.fresh_gpes (s : State) : s.fresh.2.gpes = s.gpes := rfl
@[simp] theorem State.draw_epm (s : State) : s.draw.2.epm = s.epm := rfl
@[simp] theorem State.fresh_epm (s : State) : s.fresh.2.epm = s.epm := rfl
@[simp] theorem State.draw_ssu (s : State) : s.draw.2.ssu = s.ssu := rfl
@[simp] theorem State.fresh_ssu (s : State) : s.fresh.2.ssu = s.ssu := rfl
@[simp] theorem State.draw_hses (s : State) : s.draw.2.hses = s.hses := rfl
@[simp] theorem State.fresh_hses (s : State) : s.fresh.2.hses = s.hses := rfl
@[simp] theorem State.draw_hlc (s : State) : s.draw.2.hlc = s.hlc := rfl
@[simp] theorem State.fresh_hlc (s : State) : s.fresh.2.hlc = s.hlc := rfl
@[simp] theorem State.draw_fab (s : State) : s.draw.2.fab = s.fab := rfl
@[simp] theorem State.fresh_fab (s : State) : s.fresh.2.fab = s.fab := rfl
@[simp] theorem State.draw_gtc (s : State) : s.draw.2.gtc = s.gtc := rfl
@[simp] theorem State.fresh_gtc (s : State) : s.fresh.2.gtc = s.gtc := rfl
@[simp] theorem State.draw_pcs (s : State) : s.draw.2.pcs = s.pcs := rfl
@[simp] theorem State.fresh_pcs (s : State) : s.fresh.2.pcs = s.pcs := rfl
@[simp] theorem State.draw_out (s : State) : s.draw.2.out = s.out := rfl
@[simp] theorem State.fresh_out (s : State) : s.fresh.2.out = s.out := rfl
@[simp] theorem State.draw_nextId (s : State) : s.draw.2.nextId = s.nextId := rfl
@[simp] theorem State.fresh_free (s : State) : s.fresh.2.free = s.free := rfl

theorem State.tile_setTile (s : State) (n x k) : (s.setTile n x).tile k = if k = n then x else s.tile k := sget_sset _ _ _ _ _
theorem State.gpe_setGpe (s : State) (n x k) : (s.setGpe n x).gpe k = if k = n then x else s.gpe k := sget_sset _ _ _ _ _
theorem State.hse_setHse (s : State) (n x k) : (s.setHse n x).hse k = if k = n then x else s.hse k := sget_sset _ _ _ _ _
theorem State.port_setPort (s : State) (n x k) : (s.setPort n x).port k = if k = n then x else s.port k := sget_sset _ _ _ _ _
theorem State.fport_setFport (s : State) (n x k) : (s.setFport n x).fport k = if k = n then x else s.fport k := sget_sset _ _ _ _ _
theorem State.slice_setSlice (s : State) (n x k) : (s.setSlice n x).slice k = if k = n then x else s.slice k := sget_sset _ _ _ _ _
theorem State.queue_setQueue (s : State) (n x k) : (s.setQueue n x).queue k = if k = n then x else s.queue k := sget_sset _ _ _ _ _
theorem State.cls_setCls (s : State) (n x k) : (s.setCls n x).cls k = if k = n then x else s.cls k := sget_sset _ _ _ _ _
theorem State.req_setReq (s : State) (n x k) : (s.setReq n x).req k = if k = n then x else s.req k := sget_sset _ _ _ _ _
theorem State.prog_setProg (s : State) (n x k) : (s.setProg n x).prog k = if k = n then x else s.prog k := sget_sset _ _ _ _ _
theorem State.cab_setCab (s : State) (n x k) : (s.setCab n x).cab k = if k = n then x else s.cab k := sget_sset _ _ _ _ _
theorem State.table_setTable (s : State) (n x k) : (s.setTable n x).table k = if k = n then x else s.table k := sget_sset _ _ _ _ _
theorem State.ring_setRing (s : State) (n x k) : (s.setRing n x).ring k = if k = n then x else s.ring k := sget_sset _ _ _ _ _
theorem State.evRing_setEvRing (s : State) (n x k) : (s.setEvRing n x).evRing k = if k = n then x else s.evRing k := sget_sset _ _ _ _ _
theorem State.drawer_setDrawer (s : State) (n x k) : (s.setDrawer n x).drawer k = if k = n then x else s.drawer k := sget_sset _ _ _ _ _
theorem State.fq_setFq (s : State) (n x k) : (s.setFq n x).fq k = if k = n then x else s.fq k := sget_sset _ _ _ _ _
theorem State.ctxFault_setCtxFault (s : State) (n x k) : (s.setCtxFault n x).ctxFault k = if k = n then x else s.ctxFault k := sget_sset _ _ _ _ _

end Sys2Proof.Machine
end

