-- ==== Sys2Proof/Laws/Frames.lean ====
section
/-! SUPPORT. What the dictionary's shared operations do: a request that passes its checks is served by its row, a command's clear of counters
is a clear of the named ones, and the answer leaves the coherence unit as it is. -/
namespace Sys2Proof.Machine


theorem direct_eq {s : State} {job : EngJob} {f : State → State} (h : (f (s.asJob job)).coh.need = []) :
    s.direct job f = (f (s.asJob job)).endJob job := by
  unfold State.asJob at h
  unfold State.direct State.asJob
  dsimp only
  rw [h]; rfl

/-- Cutting bytes keeps the pieces' offsets and order. -/
theorem cutBytes_offsets (l : List (Nat × Nat)) (b : Bytes) : (cutBytes l b).map Prod.fst = l.map Prod.fst := by
  induction l generalizing b with
  | nil => rfl
  | cons oc l ih => simp [cutBytes, ih]

/-- A job that still lacks an access changes only what waiting for it does. -/
theorem direct_waits {s : State} {job : EngJob} {f : State → State} (h : (f (s.asJob job)).coh.need ≠ []) :
    s.direct job f = s.waitFor (f (s.asJob job)) job := by
  have e : (f (s.asJob job)).coh.need.isEmpty ≠ true := by simpa using h
  unfold State.direct State.asJob at *
  exact if_neg e

theorem raise_coh (s : State) (p v) : (s.raise p v).coh = s.coh := by
  unfold State.raise; dsimp only; repeat' split
  all_goals rfl
theorem unicast_coh (s : State) (a b c) : (s.unicast a b c).coh = s.coh := by
  unfold State.unicast State.toRouter; rfl
theorem respond_coh (s : State) (q st b) : (s.respondDict q st b).coh = s.coh := by
  unfold State.respondDict; dsimp only
  split
  · split
    · rfl
    · split
      · rw [raise_coh]
      · rfl
  · split
    · rfl
    · split
      · rw [raise_coh]
      · rfl
  · rfl
  · rw [unicast_coh]
theorem touch_coh (s : State) (q) : (s.touch q).coh = s.coh := rfl
theorem reply_coh (s : State) (q b) : (s.reply q b).coh = s.coh := by
  unfold State.reply; rw [respond_coh]; rfl

theorem kind_exec {q : DictReq} {e : Ent} (h : q.kind = .exec e) :
    q.op = 8 ∧ ∃ r, entAt q.index q.sub = some r ∧ r.acc = .cmd ∧ r.ent = e := by
  unfold DictReq.kind at h
  split at h
  · cases h
  · split at h <;> try (first | cases h | (split at h <;> first | cases h | (split at h <;> cases h)))
    · rename_i heq _ r hr hcmd
      exact ⟨heq, r, hr, hcmd, rfl⟩

theorem serve_ok {s u : State} {q : DictReq} {b : Bytes} (h : s.odsRun q = (u, .ok b)) : s.serveReq q = u.reply q b := by
  unfold State.serveReq; rw [h]; rfl
theorem serve_err {s u : State} {q : DictReq} {e : Refused} (h : s.odsRun q = (u, .error e)) :
    s.serveReq q = u.deny q e := by
  unfold State.serveReq; rw [h]; rfl

theorem executes_of {c : Instr} {e : Ent} {ends : State → Nat → Nat → State} {eff : State → DictReq → State → Prop}
    (hc : ∀ s, exec c s = .next (s.odsServe (.exec e)))
    (h : ∀ (s : State) (q : DictReq) r, s.execPasses q r → r.ent = e → s.coh.need = [] →
      ∃ w, eff s q w ∧ s.cmdDo q.who e q.index q.sub q.data = ends w q.index q.sub ∧ (ends w q.index q.sub).coh.need = []) :
    Executes c e ends eff := by
  intro s i q r hs hp
  obtain ⟨hup, hn, hk, hne⟩ := hs
  obtain ⟨hop, r', hr', hacc, he⟩ := kind_exec hk
  have hp0 := hp
  obtain ⟨⟨her, ⟨hsh, hf, hnode⟩, hpath, hcl, hheld⟩, hfq, hrun, hlen, hck⟩ := hp
  have : r' = r := by rw [her] at hr'; exact (Option.some.inj hr').symm
  subst this
  obtain ⟨w, hw, hdo, hwn⟩ := h (s.taken i) q r' hp0 he hne
  refine ⟨w, hw, ?_⟩
  rw [hc]
  have hrun8 : (s.taken i).odsRun q = ((ends w q.index q.sub), .ok []) := by
    unfold State.odsRun State.opRun
    simp only [hsh, hf, hop, Bool.not_true, Bool.false_eq_true, if_false]
    unfold State.opExec
    rw [her]
    dsimp only
    rw [hnode, hpath, hfq, hcl, hheld, hrun, hck, hacc, he, hdo]
    simp [hlen, State.yes]
  have hsv : State.serveReq (s.taken i) q = (ends w q.index q.sub).reply q := serve_ok hrun8
  unfold State.odsServe
  rw [hup, hn]
  simp only [Bool.not_true, Bool.false_eq_true, if_false]
  have hf (g : State → State) (hg : g = fun s => State.serveReq { s with ods := s.ods.take i } q) : g (s.asJob .ods) = State.serveReq (s.taken i) q := by
    rw [hg]; rfl
  rw [if_pos hk, direct_eq]
  · rw [hf _ rfl, hsv]; rfl
  · rw [hf _ rfl, hsv, reply_coh]; exact hwn

theorem wr_cmd_coh (s : State) (a b c) : (s.setCmd a b c).coh = s.coh := rfl


theorem sget_filter {α} (d : α) (m : SMap α) (f : Nat → Bool) (n : Nat) :
    sget d (m.filter (fun p => f p.1)) n = if f n then sget d m n else d := by
  induction m with
  | nil => simp [sget]
  | cons x r ih =>
    obtain ⟨k, v⟩ := x
    by_cases hk : f k
    · simp only [List.filter, hk, sget, ih]
      by_cases hn : n = k
      · subst hn; simp [hk]
      · simp [hn]
    · simp only [List.filter, hk, ih, sget]
      by_cases hn : n = k
      · subst hn; simp [hk]
      · simp [hn]

theorem clearCtr_count (s : State) (ix a b i j k) (hj : j < 256) (hb : b < 256) (hk : k < 16) :
    (s.clearCtr ix a b).count i j k = if i = ix ∧ a ≤ j ∧ j ≤ b then 0 else s.count i j k := by
  unfold State.clearCtr State.count
  have h := sget_filter (0:Nat) s.ctr (fun x => !(decide (ctrKey ix a 0 ≤ x) && decide (x < ctrKey ix b 0 + 16))) (ctrKey i j k)
  refine Eq.trans h ?_
  have : (ctrKey ix a 0 ≤ ctrKey i j k ∧ ctrKey i j k < ctrKey ix b 0 + 16) ↔ (i = ix ∧ a ≤ j ∧ j ≤ b) := by
    unfold ctrKey; constructor
    · rintro ⟨h1, h2⟩; omega
    · rintro ⟨h1, h2, h3⟩; subst h1; omega
  by_cases hc : (i = ix ∧ a ≤ j ∧ j ≤ b)
  · rw [if_pos hc, if_neg]; simp [this.2 hc]
  · rw [if_neg hc, if_pos]; 
    have := mt this.1 hc
    simp; omega

theorem clearCtr_ctr (s : State) (a b c) : s.clearCtr a b c = { s with ctr := (s.clearCtr a b c).ctr } := rfl

theorem clearNamed_ctr (l : List Nat) (f : Nat → Nat × Nat) : ∀ s : State, s.clearNamed l f = { s with ctr := (s.clearNamed l f).ctr } := by
  unfold State.clearNamed
  induction l with
  | nil => intro s; rfl
  | cons a l ih => intro s; simp only [List.foldl]; rw [ih]; rfl

theorem clearNamed_count (l : List Nat) (f : Nat → Nat × Nat) (hf : ∀ n ∈ l, (f n).2 < 256) : ∀ (s : State) (i j k : Nat), j < 256 → k < 16 →
    (s.clearNamed l f).count i j k = if (i, j) ∈ l.map f then 0 else s.count i j k := by
  unfold State.clearNamed
  induction l with
  | nil => intro s i j k _ _; simp
  | cons a l ih =>
    intro s i j k hj hk
    simp only [List.foldl]
    rw [ih (fun n hn => hf n (by simp [hn])) _ i j k hj hk, clearCtr_count _ _ _ _ _ _ _ hj (hf a (by simp)) hk]
    by_cases h1 : (i, j) ∈ l.map f
    · simp [h1]
    · have : (i = (f a).1 ∧ (f a).2 ≤ j ∧ j ≤ (f a).2) ↔ (i, j) = f a := by
        constructor
        · rintro ⟨h, h2, h3⟩; exact Prod.ext h (by dsimp; omega)
        · intro h; rw [← h]; simp
      simp only [h1, if_false, List.map_cons, List.mem_cons, or_false, this]

theorem clears_of {c : Instr} {e : Ent} {p : DictReq → Nat → Nat → Prop}
    (hc : ∀ s, exec c s = .next (s.odsServe (.exec e)))
    (w : State → DictReq → State)
    (hdo : ∀ s q, State.cmdDo s q.who e q.index q.sub q.data = (w s q).cmdDone q.index q.sub)
    (hw : ∀ (s : State) (q : DictReq) (r : EntRow), s.execPasses q r → r.ent = e → s.cleared (w s q) (p q)) : Clears c e p := by
  refine executes_of hc ?_
  intro s q r hp he hn
  refine ⟨w s q, hw s q r hp he, hdo s q, ?_⟩
  have := (hw s q r hp he).1
  rw [show ((w s q).cmdDone q.index q.sub).coh = (w s q).coh from rfl, this]; exact hn

theorem cleared_named {s : State} {p : Nat → Nat → Prop} {l : List Nat} {f : Nat → Nat × Nat} (hf : ∀ n ∈ l, (f n).2 < 256)
    (h : ∀ i j, j < 256 → (p i j ↔ (i, j) ∈ l.map f)) : s.cleared (s.clearNamed l f) p := by
  refine ⟨clearNamed_ctr _ _ _, ?_⟩
  intro i j k hj hk
  rw [clearNamed_count l f hf s i j k hj hk]
  rw [h i j hj]
  constructor <;> intro hh <;> simp only [hh, if_true, if_false]

theorem cleared_one {s : State} {p : Nat → Nat → Prop} {ix a b : Nat} (hb : b < 256)
    (h : ∀ i j, j < 256 → (p i j ↔ (i = ix ∧ a ≤ j ∧ j ≤ b))) : s.cleared (s.clearCtr ix a b) p := by
  refine ⟨rfl, ?_⟩
  intro i j k hj hk
  rw [clearCtr_count s ix a b i j k hj hb hk, h i j hj]
  constructor <;> intro hh
  · rw [if_pos hh]
  · rw [if_neg hh]

theorem cleared_two {s : State} {p : Nat → Nat → Prop} {ix a b ix' a' b' : Nat} (hb : b < 256) (hb' : b' < 256)
    (h : ∀ i j, j < 256 → (p i j ↔ (i = ix ∧ a ≤ j ∧ j ≤ b) ∨ (i = ix' ∧ a' ≤ j ∧ j ≤ b'))) :
    s.cleared ((s.clearCtr ix a b).clearCtr ix' a' b') p := by
  refine ⟨rfl, ?_⟩
  intro i j k hj hk
  rw [clearCtr_count _ ix' a' b' i j k hj hb' hk, clearCtr_count s ix a b i j k hj hb hk, h i j hj]
  constructor
  · rintro (hh | hh) <;> simp [hh]
  · intro hh; simp only [not_or] at hh; simp only [hh.1, hh.2, if_false]

theorem namedBy_mem (v all n j : Nat) : j ∈ namedBy v all n ↔ if v = all then j < n else j = v := by
  unfold namedBy; split <;> simp


theorem small_ck {a : Bytes} {n : Nat} {b : Bool} (h : small a n b = none) : le a 0 1 < n ∨ (b = true ∧ le a 0 1 = 0xFF) := by
  unfold small okIf at h
  split at h
  · next hc => simpa using hc
  · cases h
theorem wide_ck {a : Bytes} {n : Nat} {b : Bool} (h : wide a n b = none) : le a 0 2 < n ∨ (b = true ∧ le a 0 2 = 0xFFFF) := by
  unfold wide okIf at h
  split at h
  · next hc => simpa using hc
  · cases h

theorem named_clears {c : Instr} {e : Ent} {nb all n : Nat} {f : Nat → Nat × Nat} {p : DictReq → Nat → Nat → Prop}
    (hc : ∀ s, exec c s = .next (s.odsServe (.exec e)))
    (hdo : ∀ (s : State) (q : DictReq), s.cmdDo q.who e q.index q.sub q.data = (s.clearNamed (namedBy (le q.data 0 nb) all n) f).cmdDone q.index q.sub)
    (hck : ∀ (s : State) ix sub a, s.cmdCheck e ix sub a = none → le a 0 nb < n ∨ le a 0 nb = all)
    (hf : ∀ k, k < n → (f k).2 < 256)
    (hp : ∀ (q : DictReq) i j, j < 256 → (p q i j ↔ ∃ k, k < n ∧ (le q.data 0 nb = all ∨ le q.data 0 nb = k) ∧ f k = (i, j))) :
    Clears c e p := by
  refine clears_of hc _ hdo ?_
  intro s q r hp' he
  have h1 := hp'.2.2.2.2
  rw [he] at h1
  have h2 := hck _ _ _ _ h1
  refine cleared_named (fun k hk => hf k ?_) ?_
  · rw [namedBy_mem] at hk; split at hk <;> omega
  intro i j hj
  rw [hp q i j hj]
  simp only [List.mem_map, namedBy_mem]
  constructor
  · rintro ⟨k, hk, hv, hfk⟩
    refine ⟨k, ?_, hfk⟩
    split
    · exact hk
    · rcases hv with hv | hv
      · contradiction
      · exact hv.symm
  · rintro ⟨k, hk, hfk⟩
    split at hk
    · next hv => exact ⟨k, hk, Or.inl hv, hfk⟩
    · next hv => exact ⟨k, by rcases h2 with h2 | h2 <;> omega, Or.inr hk.symm, hfk⟩

end Sys2Proof.Machine
end

