-- ==== Sys2Proof/Laws/Kept.lean ====
section
/-! SUPPORT. `Kept`: the queue is the given one, and the rules of `Inv` hold; how a record update and a fold keep them. -/
namespace Sys2Proof.Machine

/-- The queue is `p`, and the rules of `Inv` hold. -/
structure Kept (p : List Instr) (s : State) : Prop where
  queue : s.pending = p
  inv : Inv s

/-- A command's answer is a next state that is kept. -/
def Lands (p : List Instr) (a : Answer) : Prop := ∃ t, a = .next t ∧ Kept p t

theorem Lands.intro {p : List Instr} {t : State} (h : Kept p t) : Lands p (.next t) := ⟨t, rfl, h⟩

/-- A statement about a definition's body is one about the definition. -/
theorem of_body {α : Type} {a b : α} {P : α → Prop} (e : a = b) (h : P b) : P a := e ▸ h

theorem Kept.cut {p : List Instr} {x : State} {Q : Prop} (h1 : Kept p x) (h2 : Kept p x → Q) : Q := h2 h1

theorem Kept.isFun {α β : Type} {f : α → β} {Q : Prop} (h : Q) : Q := f |> fun _ => h

theorem Kept.sub {α : Type} (x : α) {Q : Prop} (h : Q) : Q := x |> fun _ => h

theorem Kept.id {p : List Instr} {s : State} (h : Kept p s) : Kept p (id s) := h

theorem Kept.ite {p : List Instr} {a b : State} {c : Prop} [Decidable c] (h1 : Kept p a) (h2 : Kept p b) :
    Kept p (if c then a else b) := by split <;> assumption

/-- A record update that leaves the fields of `Inv` alone. -/
theorem Kept.upd {p : List Instr} {s : State} {od fa sh co rs mt sq sc ti gp ep ss hs hl fb gt pc ou ni fr} (h : Kept p s)
    (h1 : sh.mem = s.shelves.mem) (h2 : ep.gen = s.epm.gen) (h3 : od.refusalCount = s.ods.refusalCount)
    (h4 : od.discards = s.ods.discards) (h5 : fa.insts = s.faults.insts) (h6 : fa.grave = s.faults.grave)
    (h7 : pc.aliveOn = s.pcs.aliveOn) (h8 : pc.alive = s.pcs.alive) :
    Kept p (State.mk s.pending od fa s.ctr sh co rs mt sq sc ti gp ep ss hs hl fb gt pc ou ni fr) :=
  ⟨h.queue, by simpa [h1] using h.inv.mem, h.inv.ctr, h.inv.top, by simpa [h5] using h.inv.faults,
   by simpa [h2] using h.inv.gen, by simpa [h3] using h.inv.refusals, by simpa [h4] using h.inv.discards,
   by simpa [h6, h7, h8] using h.inv.alive⟩

/-- One that empties the memory. -/
theorem Kept.updNil {p : List Instr} {s : State} {od fa sh co rs mt sq sc ti gp ep ss hs hl fb gt pc ou ni fr} (h : Kept p s)
    (h1 : sh.mem = []) (h2 : ep.gen = s.epm.gen) (h3 : od.refusalCount = s.ods.refusalCount)
    (h4 : od.discards = s.ods.discards) (h5 : fa.insts = s.faults.insts) (h6 : fa.grave = s.faults.grave)
    (h7 : pc.aliveOn = s.pcs.aliveOn) (h8 : pc.alive = s.pcs.alive) :
    Kept p (State.mk s.pending od fa s.ctr sh co rs mt sq sc ti gp ep ss hs hl fb gt pc ou ni fr) :=
  ⟨h.queue, by rw [h1]; rfl, h.inv.ctr, h.inv.top, by simpa [h5] using h.inv.faults,
   by simpa [h2] using h.inv.gen, by simpa [h3] using h.inv.refusals, by simpa [h4] using h.inv.discards,
   by simpa [h6, h7, h8] using h.inv.alive⟩

/-- One that clears EPM_GEN. -/
theorem Kept.updGen {p : List Instr} {s : State} {od fa sh co rs mt sq sc ti gp ep ss hs hl fb gt pc ou ni fr} (h : Kept p s)
    (h1 : sh.mem = s.shelves.mem) (h2 : ep.gen = 0) (h3 : od.refusalCount = s.ods.refusalCount)
    (h4 : od.discards = s.ods.discards) (h5 : fa.insts = s.faults.insts) (h6 : fa.grave = s.faults.grave)
    (h7 : pc.aliveOn = s.pcs.aliveOn) (h8 : pc.alive = s.pcs.alive) :
    Kept p (State.mk s.pending od fa s.ctr sh co rs mt sq sc ti gp ep ss hs hl fb gt pc ou ni fr) :=
  ⟨h.queue, by simpa [h1] using h.inv.mem, h.inv.ctr, h.inv.top, by simpa [h5] using h.inv.faults,
   by rw [h2]; exact Nat.two_pow_pos 32, by simpa [h3] using h.inv.refusals, by simpa [h4] using h.inv.discards,
   by simpa [h6, h7, h8] using h.inv.alive⟩

/-- One that clears the dictionary server's counts. -/
theorem Kept.updOds {p : List Instr} {s : State} {od fa sh co rs mt sq sc ti gp ep ss hs hl fb gt pc ou ni fr} (h : Kept p s)
    (h1 : sh.mem = s.shelves.mem) (h2 : ep.gen = s.epm.gen) (h3 : od.refusalCount = 0)
    (h4 : od.discards = 0) (h5 : fa.insts = s.faults.insts) (h6 : fa.grave = s.faults.grave)
    (h7 : pc.aliveOn = s.pcs.aliveOn) (h8 : pc.alive = s.pcs.alive) :
    Kept p (State.mk s.pending od fa s.ctr sh co rs mt sq sc ti gp ep ss hs hl fb gt pc ou ni fr) :=
  ⟨h.queue, by simpa [h1] using h.inv.mem, h.inv.ctr, h.inv.top, by simpa [h5] using h.inv.faults,
   by simpa [h2] using h.inv.gen, by rw [h3]; exact Nat.two_pow_pos 32, by rw [h4]; exact Nat.two_pow_pos 32,
   by simpa [h6, h7, h8] using h.inv.alive⟩

theorem Kept.foldl {p : List Instr} {α : Type} {f : State → α → State} {l : List α} {s : State}
    (hf : ∀ s a, Kept p s → Kept p (f s a)) (h : Kept p s) : Kept p (l.foldl f s) := by
  induction l generalizing s with
  | nil => exact h
  | cons a l ih => exact ih (hf _ _ h)

/-- An operation that answers something beside the state keeps them. -/
structure FstKept {β : Type} (p : List Instr) (x : State × β) : Prop where
  out : Kept p x.1

structure SndKept {β : Type} (p : List Instr) (x : β × State) : Prop where
  out : Kept p x.2

theorem FstKept.pair {β : Type} {p : List Instr} {s : State} {b : β} (h : Kept p s) : FstKept p (s, b) := ⟨h⟩

theorem SndKept.pair {β : Type} {p : List Instr} {s : State} {b : β} (h : Kept p s) : SndKept p (b, s) := ⟨h⟩

theorem Kept.foldl₁ {p : List Instr} {α β : Type} {f : State × β → α → State × β} {l : List α} {s : State} {b : β}
    (hf : ∀ s b a, Kept p s → FstKept p (f (s, b) a)) (h : Kept p s) : FstKept p (l.foldl f (s, b)) := by
  induction l generalizing s b with
  | nil => exact ⟨h⟩
  | cons a l ih => exact ih (s := (f (s, b) a).1) (b := (f (s, b) a).2) (hf _ _ _ h).out

theorem Kept.foldl₁_eq {p : List Instr} {α β : Type} {f : State × β → α → State × β} {l : List α} {s t : State}
    {b r : β} (e : l.foldl f (s, b) = (t, r)) (hf : ∀ s b a, Kept p s → FstKept p (f (s, b) a)) (h : Kept p s) : Kept p t := by
  have k := (Kept.foldl₁ (l := l) (b := b) hf h).out
  rw [e] at k; exact k

theorem FstKept.ite {β : Type} {p : List Instr} {a b : State × β} {c : Prop} [Decidable c] (h1 : FstKept p a) (h2 : FstKept p b) :
    FstKept p (if c then a else b) := by split <;> assumption

theorem SndKept.ite {β : Type} {p : List Instr} {a b : β × State} {c : Prop} [Decidable c] (h1 : SndKept p a) (h2 : SndKept p b) :
    SndKept p (if c then a else b) := by split <;> assumption

/-- An operation that may not be possible keeps them where it is. -/
structure OptKept (p : List Instr) (o : Option State) : Prop where
  out : ∀ t, o = some t → Kept p t

theorem OptKept.none {p : List Instr} : OptKept p none := ⟨fun _ e => nomatch e⟩

theorem OptKept.some {p : List Instr} {s : State} (h : Kept p s) : OptKept p (some s) := ⟨fun _ e => Option.some.inj e ▸ h⟩

theorem OptKept.cut {p : List Instr} {x : Option State} {Q : Prop} (h1 : OptKept p x) (h2 : OptKept p x → Q) : Q := h2 h1

theorem OptKept.getD {p : List Instr} {o : Option State} {s : State} (h : OptKept p o) (h0 : Kept p s) : Kept p (o.getD s) := by
  cases o with
  | none => exact h0
  | some t => exact h.out t rfl

theorem OptKept.map {p : List Instr} {o : Option State} {f : State → State} (hf : ∀ s, Kept p s → Kept p (f s)) (h : OptKept p o) :
    OptKept p (o.map f) := by
  cases o with
  | none => exact OptKept.none
  | some s => exact OptKept.some (hf s (h.out s rfl))

theorem OptKept.ite {p : List Instr} {a b : Option State} {c : Prop} [Decidable c] (h1 : OptKept p a) (h2 : OptKept p b) :
    OptKept p (if c then a else b) := by split <;> assumption

theorem OptKept.findSome {p : List Instr} {α : Type} {l : List α} {f : α → Option State} (hf : ∀ a, OptKept p (f a)) :
    OptKept p (l.findSome? f) := by
  refine ⟨fun t e => ?_⟩
  obtain ⟨_, a, _, _, h, _⟩ := List.findSome?_eq_some_iff.1 e
  exact (hf a).out _ h

/-- An operation that may not be possible and answers something beside the state keeps them where it is. -/
structure OptFst {β : Type} (p : List Instr) (o : Option (State × β)) : Prop where
  out : ∀ t r, o = some (t, r) → Kept p t

theorem OptFst.some {β : Type} {p : List Instr} {s : State} {b : β} (h : Kept p s) : OptFst p (some (s, b)) :=
  ⟨fun _ _ e => (Prod.mk.inj (Option.some.inj e)).1 ▸ h⟩

theorem OptFst.map {β : Type} {p : List Instr} {o : Option (State × β)} {f : State × β → State} (h : OptFst p o)
    (hf : ∀ s b, Kept p s → Kept p (f (s, b))) : OptKept p (o.map f) := by
  cases o with
  | none => exact OptKept.none
  | some x => exact OptKept.some (hf _ _ (h.out _ _ rfl))

theorem OptFst.foldl {α β : Type} {p : List Instr} {l : List α} {f : State × β → α → Option (State × β)} {o : Option (State × β)}
    (hf : ∀ s b a, Kept p s → OptFst p (f (s, b) a)) (h : OptFst p o) :
    OptFst p (l.foldl (fun r a => r.bind (fun x => f x a)) o) := by
  induction l generalizing o with
  | nil => exact h
  | cons a l ih =>
    refine ih ?_
    cases o with
    | none => exact ⟨fun _ _ e => nomatch e⟩
    | some x => exact hf x.1 x.2 a (h.out x.1 x.2 rfl)

theorem OptKept.foldl {α : Type} {p : List Instr} {l : List α} {f : State → α → Option State} {o : Option State}
    (hf : ∀ s a, Kept p s → OptKept p (f s a)) (h : OptKept p o) : OptKept p (l.foldl (fun r a => r.bind (fun s => f s a)) o) := by
  induction l generalizing o with
  | nil => exact h
  | cons a l ih =>
    refine ih ?_
    cases o with
    | none => exact OptKept.none
    | some s => exact hf s a (h.out s rfl)

end Sys2Proof.Machine
end

