-- ==== Sys2Proof/Laws/KeptOps.lean ====
section
/-! SUPPORT. The operations and meanings of Machine/Ops.lean keep the queue and the rules of `Inv`. -/
namespace Sys2Proof.Machine

theorem State.setCls_kept {p : List Instr} {x0 x1 x2} (h0 : Kept p x0) : Kept p (State.setCls x0 x1 x2) := by
  delta State.setCls
  repeat' (first | with_reducible assumption | with_reducible exact Kept.upd ‹_› rfl rfl rfl rfl rfl rfl rfl rfl | (intro x; refine Kept.cut (p := p) (x := x) ?_ (fun hx => ?_); focus unfold x; rotate_left; clear_value x) | (intro x; refine Kept.isFun (f := x) ?_; (try unfold x); clear x) | (intro x; first | refine Kept.sub (α := Ods) x ?_ | refine Kept.sub (α := Faults) x ?_ | refine Kept.sub (α := Shelves) x ?_ | refine Kept.sub (α := Epm) x ?_ | refine Kept.sub (α := Pcs) x ?_; (try unfold x); clear x) | (intro x; clear_value x) | intro _ | with_reducible apply Kept.id | lift_lets -underBinder | with_reducible apply Kept.foldl | with_reducible apply Kept.foldl₁ | (split <;> (first | (rename_i e; with_reducible obtain ⟨rfl, e⟩ := Prod.mk.inj e) | with_reducible apply FstKept.pair)) | split | with_reducible refine Kept.upd (s := State.mk _ _ _ _ _ _ _ _ _ _ _ _ _ _ _ _ _ _ _ _ _ _) ?_ rfl rfl rfl rfl rfl rfl rfl rfl)

theorem State.setTile_kept {p : List Instr} {x0 x1 x2} (h0 : Kept p x0) : Kept p (State.setTile x0 x1 x2) := by
  delta State.setTile
  repeat' (first | with_reducible assumption | with_reducible exact Kept.upd ‹_› rfl rfl rfl rfl rfl rfl rfl rfl | (intro x; refine Kept.cut (p := p) (x := x) ?_ (fun hx => ?_); focus unfold x; rotate_left; clear_value x) | (intro x; refine Kept.isFun (f := x) ?_; (try unfold x); clear x) | (intro x; first | refine Kept.sub (α := Ods) x ?_ | refine Kept.sub (α := Faults) x ?_ | refine Kept.sub (α := Shelves) x ?_ | refine Kept.sub (α := Epm) x ?_ | refine Kept.sub (α := Pcs) x ?_; (try unfold x); clear x) | (intro x; clear_value x) | intro _ | with_reducible apply Kept.id | lift_lets -underBinder | with_reducible apply Kept.foldl | with_reducible apply Kept.foldl₁ | (split <;> (first | (rename_i e; with_reducible obtain ⟨rfl, e⟩ := Prod.mk.inj e) | with_reducible apply FstKept.pair)) | split | with_reducible refine Kept.upd (s := State.mk _ _ _ _ _ _ _ _ _ _ _ _ _ _ _ _ _ _ _ _ _ _) ?_ rfl rfl rfl rfl rfl rfl rfl rfl)

theorem State.countUpTo_kept {p : List Instr} {s : State} {top ix sub k n : Nat} (ht : top < 2 ^ 64) (h : Kept p s) :
    Kept p (s.countUpTo top ix sub k n) :=
  ⟨h.queue, h.inv.mem, mapWf_sset h.inv.ctr,
   all_sset h.inv.top (by simp only [decide_eq_true_eq]; exact Nat.lt_of_le_of_lt (Nat.min_le_left _ _) ht),
   h.inv.faults, h.inv.gen, h.inv.refusals, h.inv.discards, h.inv.alive⟩

theorem State.setReq_kept {p : List Instr} {x0 x1 x2} (h0 : Kept p x0) : Kept p (State.setReq x0 x1 x2) := by
  delta State.setReq
  repeat' (first | with_reducible assumption | with_reducible exact Kept.upd ‹_› rfl rfl rfl rfl rfl rfl rfl rfl | (intro x; refine Kept.cut (p := p) (x := x) ?_ (fun hx => ?_); focus unfold x; rotate_left; clear_value x) | (intro x; refine Kept.isFun (f := x) ?_; (try unfold x); clear x) | (intro x; first | refine Kept.sub (α := Ods) x ?_ | refine Kept.sub (α := Faults) x ?_ | refine Kept.sub (α := Shelves) x ?_ | refine Kept.sub (α := Epm) x ?_ | refine Kept.sub (α := Pcs) x ?_; (try unfold x); clear x) | (intro x; clear_value x) | intro _ | with_reducible apply Kept.id | lift_lets -underBinder | with_reducible apply Kept.foldl | with_reducible apply Kept.foldl₁ | (split <;> (first | (rename_i e; with_reducible obtain ⟨rfl, e⟩ := Prod.mk.inj e) | with_reducible apply FstKept.pair)) | split | with_reducible refine Kept.upd (s := State.mk _ _ _ _ _ _ _ _ _ _ _ _ _ _ _ _ _ _ _ _ _ _) ?_ rfl rfl rfl rfl rfl rfl rfl rfl)

theorem State.setPort_kept {p : List Instr} {x0 x1 x2} (h0 : Kept p x0) : Kept p (State.setPort x0 x1 x2) := by
  delta State.setPort
  repeat' (first | with_reducible assumption | with_reducible exact Kept.upd ‹_› rfl rfl rfl rfl rfl rfl rfl rfl | (intro x; refine Kept.cut (p := p) (x := x) ?_ (fun hx => ?_); focus unfold x; rotate_left; clear_value x) | (intro x; refine Kept.isFun (f := x) ?_; (try unfold x); clear x) | (intro x; first | refine Kept.sub (α := Ods) x ?_ | refine Kept.sub (α := Faults) x ?_ | refine Kept.sub (α := Shelves) x ?_ | refine Kept.sub (α := Epm) x ?_ | refine Kept.sub (α := Pcs) x ?_; (try unfold x); clear x) | (intro x; clear_value x) | intro _ | with_reducible apply Kept.id | lift_lets -underBinder | with_reducible apply Kept.foldl | with_reducible apply Kept.foldl₁ | (split <;> (first | (rename_i e; with_reducible obtain ⟨rfl, e⟩ := Prod.mk.inj e) | with_reducible apply FstKept.pair)) | split | with_reducible refine Kept.upd (s := State.mk _ _ _ _ _ _ _ _ _ _ _ _ _ _ _ _ _ _ _ _ _ _) ?_ rfl rfl rfl rfl rfl rfl rfl rfl)

theorem State.gateClock_kept {p : List Instr} {x0 x1} (h0 : Kept p x0) : Kept p (State.gateClock x0 x1) := by
  have e := Eq.refl (@State.gateClock); conv at e => rhs; delta State.gateClock
  refine of_body (a := @State.gateClock) (P := fun f => Kept p (f x0 x1)) (b := ?b) ?e ?h; case e => exact e
  clear e
  repeat' (first | with_reducible assumption | with_reducible exact Kept.upd ‹_› rfl rfl rfl rfl rfl rfl rfl rfl | (intro x; refine Kept.cut (p := p) (x := x) ?_ (fun hx => ?_); focus unfold x; rotate_left; clear_value x) | (intro x; refine Kept.isFun (f := x) ?_; (try unfold x); clear x) | (intro x; first | refine Kept.sub (α := Ods) x ?_ | refine Kept.sub (α := Faults) x ?_ | refine Kept.sub (α := Shelves) x ?_ | refine Kept.sub (α := Epm) x ?_ | refine Kept.sub (α := Pcs) x ?_; (try unfold x); clear x) | (intro x; clear_value x) | intro _ | with_reducible apply Kept.id | lift_lets -underBinder | with_reducible apply Kept.foldl | with_reducible apply Kept.foldl₁ | (split <;> (first | (rename_i e; with_reducible obtain ⟨rfl, e⟩ := Prod.mk.inj e) | with_reducible apply FstKept.pair)) | split | with_reducible refine Kept.upd (s := State.mk _ _ _ _ _ _ _ _ _ _ _ _ _ _ _ _ _ _ _ _ _ _) ?_ rfl rfl rfl rfl rfl rfl rfl rfl)

theorem State.setProg_kept {p : List Instr} {x0 x1 x2} (h0 : Kept p x0) : Kept p (State.setProg x0 x1 x2) := by
  delta State.setProg
  repeat' (first | with_reducible assumption | with_reducible exact Kept.upd ‹_› rfl rfl rfl rfl rfl rfl rfl rfl | (intro x; refine Kept.cut (p := p) (x := x) ?_ (fun hx => ?_); focus unfold x; rotate_left; clear_value x) | (intro x; refine Kept.isFun (f := x) ?_; (try unfold x); clear x) | (intro x; first | refine Kept.sub (α := Ods) x ?_ | refine Kept.sub (α := Faults) x ?_ | refine Kept.sub (α := Shelves) x ?_ | refine Kept.sub (α := Epm) x ?_ | refine Kept.sub (α := Pcs) x ?_; (try unfold x); clear x) | (intro x; clear_value x) | intro _ | with_reducible apply Kept.id | lift_lets -underBinder | with_reducible apply Kept.foldl | with_reducible apply Kept.foldl₁ | (split <;> (first | (rename_i e; with_reducible obtain ⟨rfl, e⟩ := Prod.mk.inj e) | with_reducible apply FstKept.pair)) | split | with_reducible refine Kept.upd (s := State.mk _ _ _ _ _ _ _ _ _ _ _ _ _ _ _ _ _ _ _ _ _ _) ?_ rfl rfl rfl rfl rfl rfl rfl rfl)

theorem State.setCab_kept {p : List Instr} {x0 x1 x2} (h0 : Kept p x0) : Kept p (State.setCab x0 x1 x2) := by
  delta State.setCab
  repeat' (first | with_reducible assumption | with_reducible exact Kept.upd ‹_› rfl rfl rfl rfl rfl rfl rfl rfl | (intro x; refine Kept.cut (p := p) (x := x) ?_ (fun hx => ?_); focus unfold x; rotate_left; clear_value x) | (intro x; refine Kept.isFun (f := x) ?_; (try unfold x); clear x) | (intro x; first | refine Kept.sub (α := Ods) x ?_ | refine Kept.sub (α := Faults) x ?_ | refine Kept.sub (α := Shelves) x ?_ | refine Kept.sub (α := Epm) x ?_ | refine Kept.sub (α := Pcs) x ?_; (try unfold x); clear x) | (intro x; clear_value x) | intro _ | with_reducible apply Kept.id | lift_lets -underBinder | with_reducible apply Kept.foldl | with_reducible apply Kept.foldl₁ | (split <;> (first | (rename_i e; with_reducible obtain ⟨rfl, e⟩ := Prod.mk.inj e) | with_reducible apply FstKept.pair)) | split | with_reducible refine Kept.upd (s := State.mk _ _ _ _ _ _ _ _ _ _ _ _ _ _ _ _ _ _ _ _ _ _) ?_ rfl rfl rfl rfl rfl rfl rfl rfl)

theorem State.setTable_kept {p : List Instr} {x0 x1 x2} (h0 : Kept p x0) : Kept p (State.setTable x0 x1 x2) := by
  delta State.setTable
  repeat' (first | with_reducible assumption | with_reducible exact Kept.upd ‹_› rfl rfl rfl rfl rfl rfl rfl rfl | (intro x; refine Kept.cut (p := p) (x := x) ?_ (fun hx => ?_); focus unfold x; rotate_left; clear_value x) | (intro x; refine Kept.isFun (f := x) ?_; (try unfold x); clear x) | (intro x; first | refine Kept.sub (α := Ods) x ?_ | refine Kept.sub (α := Faults) x ?_ | refine Kept.sub (α := Shelves) x ?_ | refine Kept.sub (α := Epm) x ?_ | refine Kept.sub (α := Pcs) x ?_; (try unfold x); clear x) | (intro x; clear_value x) | intro _ | with_reducible apply Kept.id | lift_lets -underBinder | with_reducible apply Kept.foldl | with_reducible apply Kept.foldl₁ | (split <;> (first | (rename_i e; with_reducible obtain ⟨rfl, e⟩ := Prod.mk.inj e) | with_reducible apply FstKept.pair)) | split | with_reducible refine Kept.upd (s := State.mk _ _ _ _ _ _ _ _ _ _ _ _ _ _ _ _ _ _ _ _ _ _) ?_ rfl rfl rfl rfl rfl rfl rfl rfl)

theorem State.setDrawer_kept {p : List Instr} {x0 x1 x2} (h0 : Kept p x0) : Kept p (State.setDrawer x0 x1 x2) := by
  delta State.setDrawer
  repeat' (first | with_reducible assumption | with_reducible exact Kept.upd ‹_› rfl rfl rfl rfl rfl rfl rfl rfl | (intro x; refine Kept.cut (p := p) (x := x) ?_ (fun hx => ?_); focus unfold x; rotate_left; clear_value x) | (intro x; refine Kept.isFun (f := x) ?_; (try unfold x); clear x) | (intro x; first | refine Kept.sub (α := Ods) x ?_ | refine Kept.sub (α := Faults) x ?_ | refine Kept.sub (α := Shelves) x ?_ | refine Kept.sub (α := Epm) x ?_ | refine Kept.sub (α := Pcs) x ?_; (try unfold x); clear x) | (intro x; clear_value x) | intro _ | with_reducible apply Kept.id | lift_lets -underBinder | with_reducible apply Kept.foldl | with_reducible apply Kept.foldl₁ | (split <;> (first | (rename_i e; with_reducible obtain ⟨rfl, e⟩ := Prod.mk.inj e) | with_reducible apply FstKept.pair)) | split | with_reducible refine Kept.upd (s := State.mk _ _ _ _ _ _ _ _ _ _ _ _ _ _ _ _ _ _ _ _ _ _) ?_ rfl rfl rfl rfl rfl rfl rfl rfl)

theorem State.fresh_kept {p : List Instr} {x0} (h0 : Kept p x0) : SndKept p (State.fresh x0) := by
  delta State.fresh
  repeat' (first | with_reducible assumption | with_reducible exact Kept.upd ‹_› rfl rfl rfl rfl rfl rfl rfl rfl | (intro x; refine Kept.cut (p := p) (x := x) ?_ (fun hx => ?_); focus unfold x; rotate_left; clear_value x) | (intro x; refine Kept.isFun (f := x) ?_; (try unfold x); clear x) | (intro x; first | refine Kept.sub (α := Ods) x ?_ | refine Kept.sub (α := Faults) x ?_ | refine Kept.sub (α := Shelves) x ?_ | refine Kept.sub (α := Epm) x ?_ | refine Kept.sub (α := Pcs) x ?_; (try unfold x); clear x) | (intro x; clear_value x) | intro _ | with_reducible apply Kept.id | lift_lets -underBinder | with_reducible apply Kept.foldl | with_reducible apply Kept.foldl₁ | (split <;> (first | (rename_i e; with_reducible obtain ⟨rfl, e⟩ := Prod.mk.inj e) | with_reducible apply FstKept.pair)) | split | with_reducible refine Kept.upd (s := State.mk _ _ _ _ _ _ _ _ _ _ _ _ _ _ _ _ _ _ _ _ _ _) ?_ rfl rfl rfl rfl rfl rfl rfl rfl | with_reducible apply FstKept.pair | with_reducible apply SndKept.pair)
theorem State.fresh_kept_eq {p : List Instr} {x0} {r0 t} (e : State.fresh x0 = (r0, t)) (h0 : Kept p x0) : Kept p t := by
  have k := (@State.fresh_kept p x0 h0).out
  rw [e] at k; exact k

theorem Kept.ctrFilter {p : List Instr} {s : State} {f : Nat × Nat → Bool} (h : Kept p s) :
    Kept p { s with ctr := s.ctr.filter f } :=
  ⟨h.queue, h.inv.mem, mapWf_filter h.inv.ctr, all_filter h.inv.top, h.inv.faults, h.inv.gen, h.inv.refusals, h.inv.discards,
   h.inv.alive⟩

theorem State.clearCtr_kept {p : List Instr} {s : State} {ix a b : Nat} (h : Kept p s) : Kept p (s.clearCtr ix a b) :=
  Kept.ctrFilter h

theorem State.setFport_kept {p : List Instr} {x0 x1 x2} (h0 : Kept p x0) : Kept p (State.setFport x0 x1 x2) := by
  delta State.setFport
  repeat' (first | with_reducible assumption | with_reducible exact Kept.upd ‹_› rfl rfl rfl rfl rfl rfl rfl rfl | (intro x; refine Kept.cut (p := p) (x := x) ?_ (fun hx => ?_); focus unfold x; rotate_left; clear_value x) | (intro x; refine Kept.isFun (f := x) ?_; (try unfold x); clear x) | (intro x; first | refine Kept.sub (α := Ods) x ?_ | refine Kept.sub (α := Faults) x ?_ | refine Kept.sub (α := Shelves) x ?_ | refine Kept.sub (α := Epm) x ?_ | refine Kept.sub (α := Pcs) x ?_; (try unfold x); clear x) | (intro x; clear_value x) | intro _ | with_reducible apply Kept.id | lift_lets -underBinder | with_reducible apply Kept.foldl | with_reducible apply Kept.foldl₁ | (split <;> (first | (rename_i e; with_reducible obtain ⟨rfl, e⟩ := Prod.mk.inj e) | with_reducible apply FstKept.pair)) | split | with_reducible refine Kept.upd (s := State.mk _ _ _ _ _ _ _ _ _ _ _ _ _ _ _ _ _ _ _ _ _ _) ?_ rfl rfl rfl rfl rfl rfl rfl rfl)

theorem State.setFq_kept {p : List Instr} {x0 x1 x2} (h0 : Kept p x0) : Kept p (State.setFq x0 x1 x2) := by
  delta State.setFq
  repeat' (first | with_reducible assumption | with_reducible exact Kept.upd ‹_› rfl rfl rfl rfl rfl rfl rfl rfl | (intro x; refine Kept.cut (p := p) (x := x) ?_ (fun hx => ?_); focus unfold x; rotate_left; clear_value x) | (intro x; refine Kept.isFun (f := x) ?_; (try unfold x); clear x) | (intro x; first | refine Kept.sub (α := Ods) x ?_ | refine Kept.sub (α := Faults) x ?_ | refine Kept.sub (α := Shelves) x ?_ | refine Kept.sub (α := Epm) x ?_ | refine Kept.sub (α := Pcs) x ?_; (try unfold x); clear x) | (intro x; clear_value x) | intro _ | with_reducible apply Kept.id | lift_lets -underBinder | with_reducible apply Kept.foldl | with_reducible apply Kept.foldl₁ | (split <;> (first | (rename_i e; with_reducible obtain ⟨rfl, e⟩ := Prod.mk.inj e) | with_reducible apply FstKept.pair)) | split | with_reducible refine Kept.upd (s := State.mk _ _ _ _ _ _ _ _ _ _ _ _ _ _ _ _ _ _ _ _ _ _) ?_ rfl rfl rfl rfl rfl rfl rfl rfl)

theorem State.setQueue_kept {p : List Instr} {x0 x1 x2} (h0 : Kept p x0) : Kept p (State.setQueue x0 x1 x2) := by
  delta State.setQueue
  repeat' (first | with_reducible assumption | with_reducible exact Kept.upd ‹_› rfl rfl rfl rfl rfl rfl rfl rfl | (intro x; refine Kept.cut (p := p) (x := x) ?_ (fun hx => ?_); focus unfold x; rotate_left; clear_value x) | (intro x; refine Kept.isFun (f := x) ?_; (try unfold x); clear x) | (intro x; first | refine Kept.sub (α := Ods) x ?_ | refine Kept.sub (α := Faults) x ?_ | refine Kept.sub (α := Shelves) x ?_ | refine Kept.sub (α := Epm) x ?_ | refine Kept.sub (α := Pcs) x ?_; (try unfold x); clear x) | (intro x; clear_value x) | intro _ | with_reducible apply Kept.id | lift_lets -underBinder | with_reducible apply Kept.foldl | with_reducible apply Kept.foldl₁ | (split <;> (first | (rename_i e; with_reducible obtain ⟨rfl, e⟩ := Prod.mk.inj e) | with_reducible apply FstKept.pair)) | split | with_reducible refine Kept.upd (s := State.mk _ _ _ _ _ _ _ _ _ _ _ _ _ _ _ _ _ _ _ _ _ _) ?_ rfl rfl rfl rfl rfl rfl rfl rfl)

theorem State.idleClear_kept {p : List Instr} {x0 x1} (h0 : Kept p x0) : Kept p (State.idleClear x0 x1) := by
  have e := Eq.refl (@State.idleClear); conv at e => rhs; delta State.idleClear
  refine of_body (a := @State.idleClear) (P := fun f => Kept p (f x0 x1)) (b := ?b) ?e ?h; case e => exact e
  clear e
  repeat' (first | with_reducible assumption | with_reducible exact Kept.upd ‹_› rfl rfl rfl rfl rfl rfl rfl rfl | (intro x; refine Kept.cut (p := p) (x := x) ?_ (fun hx => ?_); focus unfold x; rotate_left; clear_value x) | (intro x; refine Kept.isFun (f := x) ?_; (try unfold x); clear x) | (intro x; first | refine Kept.sub (α := Ods) x ?_ | refine Kept.sub (α := Faults) x ?_ | refine Kept.sub (α := Shelves) x ?_ | refine Kept.sub (α := Epm) x ?_ | refine Kept.sub (α := Pcs) x ?_; (try unfold x); clear x) | (intro x; clear_value x) | intro _ | with_reducible apply Kept.id | lift_lets -underBinder | with_reducible apply State.setTile_kept | with_reducible apply Kept.foldl | with_reducible apply Kept.foldl₁ | (split <;> (first | (rename_i e; with_reducible obtain ⟨rfl, e⟩ := Prod.mk.inj e) | with_reducible apply FstKept.pair)) | split | with_reducible refine Kept.upd (s := State.mk _ _ _ _ _ _ _ _ _ _ _ _ _ _ _ _ _ _ _ _ _ _) ?_ rfl rfl rfl rfl rfl rfl rfl rfl)

theorem State.setSlice_kept {p : List Instr} {x0 x1 x2} (h0 : Kept p x0) : Kept p (State.setSlice x0 x1 x2) := by
  delta State.setSlice
  repeat' (first | with_reducible assumption | with_reducible exact Kept.upd ‹_› rfl rfl rfl rfl rfl rfl rfl rfl | (intro x; refine Kept.cut (p := p) (x := x) ?_ (fun hx => ?_); focus unfold x; rotate_left; clear_value x) | (intro x; refine Kept.isFun (f := x) ?_; (try unfold x); clear x) | (intro x; first | refine Kept.sub (α := Ods) x ?_ | refine Kept.sub (α := Faults) x ?_ | refine Kept.sub (α := Shelves) x ?_ | refine Kept.sub (α := Epm) x ?_ | refine Kept.sub (α := Pcs) x ?_; (try unfold x); clear x) | (intro x; clear_value x) | intro _ | with_reducible apply Kept.id | lift_lets -underBinder | with_reducible apply Kept.foldl | with_reducible apply Kept.foldl₁ | (split <;> (first | (rename_i e; with_reducible obtain ⟨rfl, e⟩ := Prod.mk.inj e) | with_reducible apply FstKept.pair)) | split | with_reducible refine Kept.upd (s := State.mk _ _ _ _ _ _ _ _ _ _ _ _ _ _ _ _ _ _ _ _ _ _) ?_ rfl rfl rfl rfl rfl rfl rfl rfl)

theorem State.bump_kept {p : List Instr} {s : State} {ix sub k n : Nat} (h : Kept p s) : Kept p (s.bump ix sub k n) :=
  State.countUpTo_kept (by decide) h

theorem State.cabChoice_kept {p : List Instr} {x0 x1} (h0 : Kept p x0) : Kept p (State.cabChoice x0 x1) := by
  have e := Eq.refl (@State.cabChoice); conv at e => rhs; delta State.cabChoice
  refine of_body (a := @State.cabChoice) (P := fun f => Kept p (f x0 x1)) (b := ?b) ?e ?h; case e => exact e
  clear e
  repeat' (first | with_reducible assumption | with_reducible exact Kept.upd ‹_› rfl rfl rfl rfl rfl rfl rfl rfl | (intro x; refine Kept.cut (p := p) (x := x) ?_ (fun hx => ?_); focus unfold x; rotate_left; clear_value x) | (intro x; refine Kept.isFun (f := x) ?_; (try unfold x); clear x) | (intro x; first | refine Kept.sub (α := Ods) x ?_ | refine Kept.sub (α := Faults) x ?_ | refine Kept.sub (α := Shelves) x ?_ | refine Kept.sub (α := Epm) x ?_ | refine Kept.sub (α := Pcs) x ?_; (try unfold x); clear x) | (intro x; clear_value x) | intro _ | with_reducible apply Kept.id | lift_lets -underBinder | with_reducible apply State.bump_kept | with_reducible apply Kept.foldl | with_reducible apply Kept.foldl₁ | (split <;> (first | (rename_i e; with_reducible obtain ⟨rfl, e⟩ := Prod.mk.inj e) | with_reducible apply FstKept.pair)) | split | with_reducible refine Kept.upd (s := State.mk _ _ _ _ _ _ _ _ _ _ _ _ _ _ _ _ _ _ _ _ _ _) ?_ rfl rfl rfl rfl rfl rfl rfl rfl)

theorem State.setRing_kept {p : List Instr} {x0 x1 x2} (h0 : Kept p x0) : Kept p (State.setRing x0 x1 x2) := by
  delta State.setRing
  repeat' (first | with_reducible assumption | with_reducible exact Kept.upd ‹_› rfl rfl rfl rfl rfl rfl rfl rfl | (intro x; refine Kept.cut (p := p) (x := x) ?_ (fun hx => ?_); focus unfold x; rotate_left; clear_value x) | (intro x; refine Kept.isFun (f := x) ?_; (try unfold x); clear x) | (intro x; first | refine Kept.sub (α := Ods) x ?_ | refine Kept.sub (α := Faults) x ?_ | refine Kept.sub (α := Shelves) x ?_ | refine Kept.sub (α := Epm) x ?_ | refine Kept.sub (α := Pcs) x ?_; (try unfold x); clear x) | (intro x; clear_value x) | intro _ | with_reducible apply Kept.id | lift_lets -underBinder | with_reducible apply Kept.foldl | with_reducible apply Kept.foldl₁ | (split <;> (first | (rename_i e; with_reducible obtain ⟨rfl, e⟩ := Prod.mk.inj e) | with_reducible apply FstKept.pair)) | split | with_reducible refine Kept.upd (s := State.mk _ _ _ _ _ _ _ _ _ _ _ _ _ _ _ _ _ _ _ _ _ _) ?_ rfl rfl rfl rfl rfl rfl rfl rfl)

theorem State.setGpe_kept {p : List Instr} {x0 x1 x2} (h0 : Kept p x0) : Kept p (State.setGpe x0 x1 x2) := by
  delta State.setGpe
  repeat' (first | with_reducible assumption | with_reducible exact Kept.upd ‹_› rfl rfl rfl rfl rfl rfl rfl rfl | (intro x; refine Kept.cut (p := p) (x := x) ?_ (fun hx => ?_); focus unfold x; rotate_left; clear_value x) | (intro x; refine Kept.isFun (f := x) ?_; (try unfold x); clear x) | (intro x; first | refine Kept.sub (α := Ods) x ?_ | refine Kept.sub (α := Faults) x ?_ | refine Kept.sub (α := Shelves) x ?_ | refine Kept.sub (α := Epm) x ?_ | refine Kept.sub (α := Pcs) x ?_; (try unfold x); clear x) | (intro x; clear_value x) | intro _ | with_reducible apply Kept.id | lift_lets -underBinder | with_reducible apply Kept.foldl | with_reducible apply Kept.foldl₁ | (split <;> (first | (rename_i e; with_reducible obtain ⟨rfl, e⟩ := Prod.mk.inj e) | with_reducible apply FstKept.pair)) | split | with_reducible refine Kept.upd (s := State.mk _ _ _ _ _ _ _ _ _ _ _ _ _ _ _ _ _ _ _ _ _ _) ?_ rfl rfl rfl rfl rfl rfl rfl rfl)

theorem State.draw_kept {p : List Instr} {x0} (h0 : Kept p x0) : SndKept p (State.draw x0) := by
  delta State.draw
  repeat' (first | with_reducible assumption | with_reducible exact Kept.upd ‹_› rfl rfl rfl rfl rfl rfl rfl rfl | (intro x; refine Kept.cut (p := p) (x := x) ?_ (fun hx => ?_); focus unfold x; rotate_left; clear_value x) | (intro x; refine Kept.isFun (f := x) ?_; (try unfold x); clear x) | (intro x; first | refine Kept.sub (α := Ods) x ?_ | refine Kept.sub (α := Faults) x ?_ | refine Kept.sub (α := Shelves) x ?_ | refine Kept.sub (α := Epm) x ?_ | refine Kept.sub (α := Pcs) x ?_; (try unfold x); clear x) | (intro x; clear_value x) | intro _ | with_reducible apply Kept.id | lift_lets -underBinder | with_reducible apply Kept.foldl | with_reducible apply Kept.foldl₁ | (split <;> (first | (rename_i e; with_reducible obtain ⟨rfl, e⟩ := Prod.mk.inj e) | with_reducible apply FstKept.pair)) | split | with_reducible refine Kept.upd (s := State.mk _ _ _ _ _ _ _ _ _ _ _ _ _ _ _ _ _ _ _ _ _ _) ?_ rfl rfl rfl rfl rfl rfl rfl rfl | with_reducible apply FstKept.pair | with_reducible apply SndKept.pair)
theorem State.draw_kept_eq {p : List Instr} {x0} {r0 t} (e : State.draw x0 = (r0, t)) (h0 : Kept p x0) : Kept p t := by
  have k := (@State.draw_kept p x0 h0).out
  rw [e] at k; exact k

theorem State.setEvRing_kept {p : List Instr} {x0 x1 x2} (h0 : Kept p x0) : Kept p (State.setEvRing x0 x1 x2) := by
  delta State.setEvRing
  repeat' (first | with_reducible assumption | with_reducible exact Kept.upd ‹_› rfl rfl rfl rfl rfl rfl rfl rfl | (intro x; refine Kept.cut (p := p) (x := x) ?_ (fun hx => ?_); focus unfold x; rotate_left; clear_value x) | (intro x; refine Kept.isFun (f := x) ?_; (try unfold x); clear x) | (intro x; first | refine Kept.sub (α := Ods) x ?_ | refine Kept.sub (α := Faults) x ?_ | refine Kept.sub (α := Shelves) x ?_ | refine Kept.sub (α := Epm) x ?_ | refine Kept.sub (α := Pcs) x ?_; (try unfold x); clear x) | (intro x; clear_value x) | intro _ | with_reducible apply Kept.id | lift_lets -underBinder | with_reducible apply Kept.foldl | with_reducible apply Kept.foldl₁ | (split <;> (first | (rename_i e; with_reducible obtain ⟨rfl, e⟩ := Prod.mk.inj e) | with_reducible apply FstKept.pair)) | split | with_reducible refine Kept.upd (s := State.mk _ _ _ _ _ _ _ _ _ _ _ _ _ _ _ _ _ _ _ _ _ _) ?_ rfl rfl rfl rfl rfl rfl rfl rfl)

theorem State.setHse_kept {p : List Instr} {x0 x1 x2} (h0 : Kept p x0) : Kept p (State.setHse x0 x1 x2) := by
  delta State.setHse
  repeat' (first | with_reducible assumption | with_reducible exact Kept.upd ‹_› rfl rfl rfl rfl rfl rfl rfl rfl | (intro x; refine Kept.cut (p := p) (x := x) ?_ (fun hx => ?_); focus unfold x; rotate_left; clear_value x) | (intro x; refine Kept.isFun (f := x) ?_; (try unfold x); clear x) | (intro x; first | refine Kept.sub (α := Ods) x ?_ | refine Kept.sub (α := Faults) x ?_ | refine Kept.sub (α := Shelves) x ?_ | refine Kept.sub (α := Epm) x ?_ | refine Kept.sub (α := Pcs) x ?_; (try unfold x); clear x) | (intro x; clear_value x) | intro _ | with_reducible apply Kept.id | lift_lets -underBinder | with_reducible apply Kept.foldl | with_reducible apply Kept.foldl₁ | (split <;> (first | (rename_i e; with_reducible obtain ⟨rfl, e⟩ := Prod.mk.inj e) | with_reducible apply FstKept.pair)) | split | with_reducible refine Kept.upd (s := State.mk _ _ _ _ _ _ _ _ _ _ _ _ _ _ _ _ _ _ _ _ _ _) ?_ rfl rfl rfl rfl rfl rfl rfl rfl)

theorem State.emit_kept {p : List Instr} {x0 x1} (h0 : Kept p x0) : Kept p (State.emit x0 x1) := by
  delta State.emit
  repeat' (first | with_reducible assumption | with_reducible exact Kept.upd ‹_› rfl rfl rfl rfl rfl rfl rfl rfl | (intro x; refine Kept.cut (p := p) (x := x) ?_ (fun hx => ?_); focus unfold x; rotate_left; clear_value x) | (intro x; refine Kept.isFun (f := x) ?_; (try unfold x); clear x) | (intro x; first | refine Kept.sub (α := Ods) x ?_ | refine Kept.sub (α := Faults) x ?_ | refine Kept.sub (α := Shelves) x ?_ | refine Kept.sub (α := Epm) x ?_ | refine Kept.sub (α := Pcs) x ?_; (try unfold x); clear x) | (intro x; clear_value x) | intro _ | with_reducible apply Kept.id | lift_lets -underBinder | with_reducible apply Kept.foldl | with_reducible apply Kept.foldl₁ | (split <;> (first | (rename_i e; with_reducible obtain ⟨rfl, e⟩ := Prod.mk.inj e) | with_reducible apply FstKept.pair)) | split | with_reducible refine Kept.upd (s := State.mk _ _ _ _ _ _ _ _ _ _ _ _ _ _ _ _ _ _ _ _ _ _) ?_ rfl rfl rfl rfl rfl rfl rfl rfl)

theorem State.runClock_kept {p : List Instr} {x0 x1} (h0 : Kept p x0) : Kept p (State.runClock x0 x1) := by
  have e := Eq.refl (@State.runClock); conv at e => rhs; delta State.runClock
  refine of_body (a := @State.runClock) (P := fun f => Kept p (f x0 x1)) (b := ?b) ?e ?h; case e => exact e
  clear e
  repeat' (first | with_reducible assumption | with_reducible exact Kept.upd ‹_› rfl rfl rfl rfl rfl rfl rfl rfl | (intro x; refine Kept.cut (p := p) (x := x) ?_ (fun hx => ?_); focus unfold x; rotate_left; clear_value x) | (intro x; refine Kept.isFun (f := x) ?_; (try unfold x); clear x) | (intro x; first | refine Kept.sub (α := Ods) x ?_ | refine Kept.sub (α := Faults) x ?_ | refine Kept.sub (α := Shelves) x ?_ | refine Kept.sub (α := Epm) x ?_ | refine Kept.sub (α := Pcs) x ?_; (try unfold x); clear x) | (intro x; clear_value x) | intro _ | with_reducible apply Kept.id | lift_lets -underBinder | with_reducible apply Kept.foldl | with_reducible apply Kept.foldl₁ | (split <;> (first | (rename_i e; with_reducible obtain ⟨rfl, e⟩ := Prod.mk.inj e) | with_reducible apply FstKept.pair)) | split | with_reducible refine Kept.upd (s := State.mk _ _ _ _ _ _ _ _ _ _ _ _ _ _ _ _ _ _ _ _ _ _) ?_ rfl rfl rfl rfl rfl rfl rfl rfl)

end Sys2Proof.Machine
end

