-- ==== Sys2Proof/Laws/KeptDict.lean ====
section
/-! SUPPORT. The operations and meanings of Machine/Dict.lean keep the queue and the rules of `Inv`. -/
namespace Sys2Proof.Machine

theorem State.resetEnts_kept {p : List Instr} {x0 x1} (h0 : Kept p x0) : Kept p (State.resetEnts x0 x1) := by
  delta State.resetEnts
  repeat' (first | with_reducible assumption | with_reducible exact Kept.upd ‹_› rfl rfl rfl rfl rfl rfl rfl rfl | (intro x; refine Kept.cut (p := p) (x := x) ?_ (fun hx => ?_); focus unfold x; rotate_left; clear_value x) | (intro x; refine Kept.isFun (f := x) ?_; (try unfold x); clear x) | (intro x; first | refine Kept.sub (α := Ods) x ?_ | refine Kept.sub (α := Faults) x ?_ | refine Kept.sub (α := Shelves) x ?_ | refine Kept.sub (α := Epm) x ?_ | refine Kept.sub (α := Pcs) x ?_; (try unfold x); clear x) | (intro x; clear_value x) | intro _ | with_reducible apply Kept.id | lift_lets -underBinder | with_reducible apply Kept.foldl | with_reducible apply Kept.foldl₁ | (split <;> (first | (rename_i e; with_reducible obtain ⟨rfl, e⟩ := Prod.mk.inj e) | with_reducible apply FstKept.pair)) | split | with_reducible refine Kept.upd (s := State.mk _ _ _ _ _ _ _ _ _ _ _ _ _ _ _ _ _ _ _ _ _ _) ?_ rfl rfl rfl rfl rfl rfl rfl rfl)

theorem State.wr_kept {p : List Instr} {x0 x1 x2 x3} (h0 : Kept p x0) : Kept p (State.wr x0 x1 x2 x3) := by
  delta State.wr
  repeat' (first | with_reducible assumption | with_reducible exact Kept.upd ‹_› rfl rfl rfl rfl rfl rfl rfl rfl | (intro x; refine Kept.cut (p := p) (x := x) ?_ (fun hx => ?_); focus unfold x; rotate_left; clear_value x) | (intro x; refine Kept.isFun (f := x) ?_; (try unfold x); clear x) | (intro x; first | refine Kept.sub (α := Ods) x ?_ | refine Kept.sub (α := Faults) x ?_ | refine Kept.sub (α := Shelves) x ?_ | refine Kept.sub (α := Epm) x ?_ | refine Kept.sub (α := Pcs) x ?_; (try unfold x); clear x) | (intro x; clear_value x) | intro _ | with_reducible apply Kept.id | lift_lets -underBinder | with_reducible apply Kept.foldl | with_reducible apply Kept.foldl₁ | (split <;> (first | (rename_i e; with_reducible obtain ⟨rfl, e⟩ := Prod.mk.inj e) | with_reducible apply FstKept.pair)) | split | with_reducible refine Kept.upd (s := State.mk _ _ _ _ _ _ _ _ _ _ _ _ _ _ _ _ _ _ _ _ _ _) ?_ rfl rfl rfl rfl rfl rfl rfl rfl)

end Sys2Proof.Machine
end

