-- ==== Sys2Proof/Laws/KeptFlags.lean ====
section
/-! SUPPORT. The operations and meanings of Machine/Flags.lean keep the queue and the rules of `Inv`. -/
namespace Sys2Proof.Machine

theorem State.setCmd_kept {p : List Instr} {x0 x1 x2 x3} (h0 : Kept p x0) : Kept p (State.setCmd x0 x1 x2 x3) := by
  delta State.setCmd
  repeat' (first | with_reducible assumption | with_reducible exact Kept.upd ‹_› rfl rfl rfl rfl rfl rfl rfl rfl | (intro x; refine Kept.cut (p := p) (x := x) ?_ (fun hx => ?_); focus unfold x; rotate_left; clear_value x) | (intro x; refine Kept.isFun (f := x) ?_; (try unfold x); clear x) | (intro x; first | refine Kept.sub (α := Ods) x ?_ | refine Kept.sub (α := Faults) x ?_ | refine Kept.sub (α := Shelves) x ?_ | refine Kept.sub (α := Epm) x ?_ | refine Kept.sub (α := Pcs) x ?_; (try unfold x); clear x) | (intro x; clear_value x) | intro _ | with_reducible apply Kept.id | lift_lets -underBinder | with_reducible apply Kept.foldl | with_reducible apply Kept.foldl₁ | (split <;> (first | (rename_i e; with_reducible obtain ⟨rfl, e⟩ := Prod.mk.inj e) | with_reducible apply FstKept.pair)) | split | with_reducible refine Kept.upd (s := State.mk _ _ _ _ _ _ _ _ _ _ _ _ _ _ _ _ _ _ _ _ _ _) ?_ rfl rfl rfl rfl rfl rfl rfl rfl)

theorem State.cmdStart_kept {p : List Instr} {x0 x1 x2} (h0 : Kept p x0) : Kept p (State.cmdStart x0 x1 x2) := by
  delta State.cmdStart
  repeat' (first | with_reducible assumption | with_reducible exact Kept.upd ‹_› rfl rfl rfl rfl rfl rfl rfl rfl | (intro x; refine Kept.cut (p := p) (x := x) ?_ (fun hx => ?_); focus unfold x; rotate_left; clear_value x) | (intro x; refine Kept.isFun (f := x) ?_; (try unfold x); clear x) | (intro x; first | refine Kept.sub (α := Ods) x ?_ | refine Kept.sub (α := Faults) x ?_ | refine Kept.sub (α := Shelves) x ?_ | refine Kept.sub (α := Epm) x ?_ | refine Kept.sub (α := Pcs) x ?_; (try unfold x); clear x) | (intro x; clear_value x) | intro _ | with_reducible apply Kept.id | lift_lets -underBinder | with_reducible apply State.setCmd_kept | with_reducible apply Kept.foldl | with_reducible apply Kept.foldl₁ | (split <;> (first | (rename_i e; with_reducible obtain ⟨rfl, e⟩ := Prod.mk.inj e) | with_reducible apply FstKept.pair)) | split | with_reducible refine Kept.upd (s := State.mk _ _ _ _ _ _ _ _ _ _ _ _ _ _ _ _ _ _ _ _ _ _) ?_ rfl rfl rfl rfl rfl rfl rfl rfl)

theorem State.raise_kept {p : List Instr} {x0 x1 x2} (h0 : Kept p x0) : Kept p (State.raise x0 x1 x2) := by
  delta State.raise
  repeat' (first | with_reducible assumption | with_reducible exact Kept.upd ‹_› rfl rfl rfl rfl rfl rfl rfl rfl | (intro x; refine Kept.cut (p := p) (x := x) ?_ (fun hx => ?_); focus unfold x; rotate_left; clear_value x) | (intro x; refine Kept.isFun (f := x) ?_; (try unfold x); clear x) | (intro x; first | refine Kept.sub (α := Ods) x ?_ | refine Kept.sub (α := Faults) x ?_ | refine Kept.sub (α := Shelves) x ?_ | refine Kept.sub (α := Epm) x ?_ | refine Kept.sub (α := Pcs) x ?_; (try unfold x); clear x) | (intro x; clear_value x) | intro _ | with_reducible apply Kept.id | lift_lets -underBinder | with_reducible apply State.bump_kept | with_reducible apply State.emit_kept | with_reducible apply State.setPort_kept | with_reducible apply Kept.foldl | with_reducible apply Kept.foldl₁ | (split <;> (first | (rename_i e; with_reducible obtain ⟨rfl, e⟩ := Prod.mk.inj e) | with_reducible apply FstKept.pair)) | split | with_reducible refine Kept.upd (s := State.mk _ _ _ _ _ _ _ _ _ _ _ _ _ _ _ _ _ _ _ _ _ _) ?_ rfl rfl rfl rfl rfl rfl rfl rfl)

theorem State.errPin_kept {p : List Instr} {x0 x1} (h0 : Kept p x0) : Kept p (State.errPin x0 x1) := by
  delta State.errPin
  repeat' (first | with_reducible assumption | with_reducible exact Kept.upd ‹_› rfl rfl rfl rfl rfl rfl rfl rfl | (intro x; refine Kept.cut (p := p) (x := x) ?_ (fun hx => ?_); focus unfold x; rotate_left; clear_value x) | (intro x; refine Kept.isFun (f := x) ?_; (try unfold x); clear x) | (intro x; first | refine Kept.sub (α := Ods) x ?_ | refine Kept.sub (α := Faults) x ?_ | refine Kept.sub (α := Shelves) x ?_ | refine Kept.sub (α := Epm) x ?_ | refine Kept.sub (α := Pcs) x ?_; (try unfold x); clear x) | (intro x; clear_value x) | intro _ | with_reducible apply Kept.id | lift_lets -underBinder | with_reducible apply State.emit_kept | with_reducible apply Kept.foldl | with_reducible apply Kept.foldl₁ | (split <;> (first | (rename_i e; with_reducible obtain ⟨rfl, e⟩ := Prod.mk.inj e) | with_reducible apply FstKept.pair)) | split | with_reducible refine Kept.upd (s := State.mk _ _ _ _ _ _ _ _ _ _ _ _ _ _ _ _ _ _ _ _ _ _) ?_ rfl rfl rfl rfl rfl rfl rfl rfl)

theorem State.cmdFail_kept {p : List Instr} {x0 x1 x2 x3} (h0 : Kept p x0) : Kept p (State.cmdFail x0 x1 x2 x3) := by
  delta State.cmdFail
  repeat' (first | with_reducible assumption | with_reducible exact Kept.upd ‹_› rfl rfl rfl rfl rfl rfl rfl rfl | (intro x; refine Kept.cut (p := p) (x := x) ?_ (fun hx => ?_); focus unfold x; rotate_left; clear_value x) | (intro x; refine Kept.isFun (f := x) ?_; (try unfold x); clear x) | (intro x; first | refine Kept.sub (α := Ods) x ?_ | refine Kept.sub (α := Faults) x ?_ | refine Kept.sub (α := Shelves) x ?_ | refine Kept.sub (α := Epm) x ?_ | refine Kept.sub (α := Pcs) x ?_; (try unfold x); clear x) | (intro x; clear_value x) | intro _ | with_reducible apply Kept.id | lift_lets -underBinder | with_reducible apply State.setCmd_kept | with_reducible apply Kept.foldl | with_reducible apply Kept.foldl₁ | (split <;> (first | (rename_i e; with_reducible obtain ⟨rfl, e⟩ := Prod.mk.inj e) | with_reducible apply FstKept.pair)) | split | with_reducible refine Kept.upd (s := State.mk _ _ _ _ _ _ _ _ _ _ _ _ _ _ _ _ _ _ _ _ _ _) ?_ rfl rfl rfl rfl rfl rfl rfl rfl)

theorem State.cmdDone_kept {p : List Instr} {x0 x1 x2} (h0 : Kept p x0) : Kept p (State.cmdDone x0 x1 x2) := by
  delta State.cmdDone
  repeat' (first | with_reducible assumption | with_reducible exact Kept.upd ‹_› rfl rfl rfl rfl rfl rfl rfl rfl | (intro x; refine Kept.cut (p := p) (x := x) ?_ (fun hx => ?_); focus unfold x; rotate_left; clear_value x) | (intro x; refine Kept.isFun (f := x) ?_; (try unfold x); clear x) | (intro x; first | refine Kept.sub (α := Ods) x ?_ | refine Kept.sub (α := Faults) x ?_ | refine Kept.sub (α := Shelves) x ?_ | refine Kept.sub (α := Epm) x ?_ | refine Kept.sub (α := Pcs) x ?_; (try unfold x); clear x) | (intro x; clear_value x) | intro _ | with_reducible apply Kept.id | lift_lets -underBinder | with_reducible apply State.setCmd_kept | with_reducible apply Kept.foldl | with_reducible apply Kept.foldl₁ | (split <;> (first | (rename_i e; with_reducible obtain ⟨rfl, e⟩ := Prod.mk.inj e) | with_reducible apply FstKept.pair)) | split | with_reducible refine Kept.upd (s := State.mk _ _ _ _ _ _ _ _ _ _ _ _ _ _ _ _ _ _ _ _ _ _) ?_ rfl rfl rfl rfl rfl rfl rfl rfl)

theorem State.toGrave_kept {p : List Instr} {s : State} (h : Kept p s) : Kept p s.toGrave := by
  unfold State.toGrave
  split
  · exact h
  · dsimp only
    refine Kept.ite (State.emit_kept ?_) ?_ <;>
      exact ⟨h.queue, h.inv.mem, h.inv.ctr, h.inv.top, h.inv.faults, h.inv.gen, h.inv.refusals, h.inv.discards, fun _ => ⟨rfl, rfl⟩⟩

theorem State.faultIrqs_kept {p : List Instr} {x0 x1 x2} (h0 : Kept p x0) : Kept p (State.faultIrqs x0 x1 x2) := by
  delta State.faultIrqs
  repeat' (first | with_reducible assumption | with_reducible exact Kept.upd ‹_› rfl rfl rfl rfl rfl rfl rfl rfl | (intro x; refine Kept.cut (p := p) (x := x) ?_ (fun hx => ?_); focus unfold x; rotate_left; clear_value x) | (intro x; refine Kept.isFun (f := x) ?_; (try unfold x); clear x) | (intro x; first | refine Kept.sub (α := Ods) x ?_ | refine Kept.sub (α := Faults) x ?_ | refine Kept.sub (α := Shelves) x ?_ | refine Kept.sub (α := Epm) x ?_ | refine Kept.sub (α := Pcs) x ?_; (try unfold x); clear x) | (intro x; clear_value x) | intro _ | with_reducible apply Kept.id | lift_lets -underBinder | with_reducible apply State.raise_kept | with_reducible apply State.emit_kept | with_reducible apply Kept.foldl | with_reducible apply Kept.foldl₁ | (split <;> (first | (rename_i e; with_reducible obtain ⟨rfl, e⟩ := Prod.mk.inj e) | with_reducible apply FstKept.pair)) | split | with_reducible refine Kept.upd (s := State.mk _ _ _ _ _ _ _ _ _ _ _ _ _ _ _ _ _ _ _ _ _ _) ?_ rfl rfl rfl rfl rfl rfl rfl rfl)

theorem State.setFaultInst_kept {p : List Instr} {s : State} {u i : Nat} {f : FaultInst} (hf : f.ok = true) (h : Kept p s) :
    Kept p (s.setFaultInst u i f) :=
  ⟨h.queue, h.inv.mem, h.inv.ctr, h.inv.top, all_sset h.inv.faults hf, h.inv.gen, h.inv.refusals, h.inv.discards, h.inv.alive⟩

theorem sget_all {α : Type} {d : α} {m : SMap α} {f : α → Bool} {k : Nat} (h : m.all (fun e => f e.2) = true) (hd : f d = true) :
    f (sget d m k) = true := by
  induction m with
  | nil => exact hd
  | cons e r ih =>
    obtain ⟨j, w⟩ := e
    simp only [List.all_cons, Bool.and_eq_true] at h
    simp only [sget]
    split
    · exact h.1
    · exact ih h.2

theorem Kept.faultInst {p : List Instr} {s : State} {u i : Nat} (h : Kept p s) : (s.faultInst u i).ok = true :=
  sget_all (f := FaultInst.ok) h.inv.faults rfl

/-- A capture keeps a fault object's counters within their widths (R490). -/
theorem FaultInst.take_ok {f : FaultInst} {c cl now : Nat} {h : Hit} (hf : f.ok = true) : (f.take c cl now h).ok = true := by
  simp only [FaultInst.ok, Bool.and_eq_true, decide_eq_true_eq] at hf ⊢
  obtain ⟨⟨⟨⟨h1, h2⟩, h3⟩, h4⟩, h5⟩ := hf
  refine ⟨⟨⟨⟨?_, ?_⟩, ?_⟩, ?_⟩, ?_⟩ <;> simp only [FaultInst.take] <;> split <;> (try dsimp only) <;> omega

theorem State.fireTake_kept {p : List Instr} {s : State} {u i c cl now : Nat} {hit : Hit} (h : Kept p s) :
    Kept p (s.setFaultInst u i ((s.faultInst u i).take c cl now hit)) :=
  State.setFaultInst_kept (FaultInst.take_ok h.faultInst) h

/-- The block's summary leaves the fault objects and the grave mark alone. -/
theorem Faults.summary_same (f : Faults) (u c i cl now : Nat) :
    (f.summary u c i cl now).insts = f.insts ∧ (f.summary u c i cl now).grave = f.grave := by
  unfold Faults.summary
  dsimp only
  split <;> split <;> exact ⟨rfl, rfl⟩

theorem Kept.summary {p : List Instr} {s : State} {u c i cl now : Nat} (h : Kept p s) :
    Kept p { s with faults := s.faults.summary u c i cl now } := by
  obtain ⟨a, b⟩ := Faults.summary_same s.faults u c i cl now
  exact Kept.upd h rfl rfl rfl rfl a b rfl rfl

theorem State.fireWith_kept {p : List Instr} {trap unit block : State → State} {s : State} {u i c : Nat} {hit : Hit}
    (h0 : ∀ s, Kept p s → Kept p (trap s)) (h1 : ∀ s, Kept p s → Kept p (unit s)) (h2 : ∀ s, Kept p s → Kept p (block s))
    (h3 : Kept p s) : Kept p (s.fireWith trap unit block u i c hit) := by
  delta State.fireWith
  repeat' (first | assumption | intro _ | with_reducible refine Kept.summary ?_ | (lift_lets -underBinder; intro x; (first | (refine Kept.cut (p := p) (x := x) ?_ (fun hx => ?_); focus unfold x; rotate_left; clear_value x) | skip)) | with_reducible apply State.fireTake_kept | with_reducible apply State.toGrave_kept | with_reducible apply State.faultIrqs_kept | with_reducible apply State.emit_kept | with_reducible apply h0 | with_reducible apply h1 | with_reducible apply h2 | split | with_reducible refine Kept.upd ?_ rfl rfl rfl rfl rfl rfl rfl rfl)

theorem State.blkStart_kept {p : List Instr} {s : State} (h : Kept p s) : Kept p s.blkStart :=
  State.wr_kept (Kept.upd h rfl rfl rfl rfl rfl rfl rfl rfl)

theorem State.fireBlk_kept {p : List Instr} {x0 x1 x2 x3 x4} (h0 : Kept p x0) : Kept p (State.fireBlk x0 x1 x2 x3 x4) := by
  delta State.fireBlk
  repeat' (first | with_reducible assumption | with_reducible exact Kept.upd ‹_› rfl rfl rfl rfl rfl rfl rfl rfl | (intro x; refine Kept.cut (p := p) (x := x) ?_ (fun hx => ?_); focus unfold x; rotate_left; clear_value x) | (intro x; refine Kept.isFun (f := x) ?_; (try unfold x); clear x) | (intro x; first | refine Kept.sub (α := Ods) x ?_ | refine Kept.sub (α := Faults) x ?_ | refine Kept.sub (α := Shelves) x ?_ | refine Kept.sub (α := Epm) x ?_ | refine Kept.sub (α := Pcs) x ?_; (try unfold x); clear x) | (intro x; clear_value x) | intro _ | with_reducible apply Kept.id | lift_lets -underBinder | with_reducible apply State.fireWith_kept | with_reducible apply State.blkStart_kept | with_reducible apply Kept.foldl | with_reducible apply Kept.foldl₁ | (split <;> (first | (rename_i e; with_reducible obtain ⟨rfl, e⟩ := Prod.mk.inj e) | with_reducible apply FstKept.pair)) | split | with_reducible refine Kept.upd (s := State.mk _ _ _ _ _ _ _ _ _ _ _ _ _ _ _ _ _ _ _ _ _ _) ?_ rfl rfl rfl rfl rfl rfl rfl rfl)

theorem State.trapTiles_kept {p : List Instr} {x0 x1 x2} (h0 : Kept p x0) : Kept p (State.trapTiles x0 x1 x2) := by
  delta State.trapTiles
  repeat' (first | with_reducible assumption | with_reducible exact Kept.upd ‹_› rfl rfl rfl rfl rfl rfl rfl rfl | (intro x; refine Kept.cut (p := p) (x := x) ?_ (fun hx => ?_); focus unfold x; rotate_left; clear_value x) | (intro x; refine Kept.isFun (f := x) ?_; (try unfold x); clear x) | (intro x; first | refine Kept.sub (α := Ods) x ?_ | refine Kept.sub (α := Faults) x ?_ | refine Kept.sub (α := Shelves) x ?_ | refine Kept.sub (α := Epm) x ?_ | refine Kept.sub (α := Pcs) x ?_; (try unfold x); clear x) | (intro x; clear_value x) | intro _ | with_reducible apply Kept.id | lift_lets -underBinder | with_reducible apply State.setTile_kept | with_reducible apply State.bump_kept | with_reducible apply Kept.foldl | with_reducible apply Kept.foldl₁ | (split <;> (first | (rename_i e; with_reducible obtain ⟨rfl, e⟩ := Prod.mk.inj e) | with_reducible apply FstKept.pair)) | split | with_reducible refine Kept.upd (s := State.mk _ _ _ _ _ _ _ _ _ _ _ _ _ _ _ _ _ _ _ _ _ _) ?_ rfl rfl rfl rfl rfl rfl rfl rfl)

theorem State.wakeUp_kept {p : List Instr} {x0} (h0 : Kept p x0) : Kept p (State.wakeUp x0) := by
  delta State.wakeUp
  repeat' (first | with_reducible assumption | with_reducible exact Kept.upd ‹_› rfl rfl rfl rfl rfl rfl rfl rfl | (intro x; refine Kept.cut (p := p) (x := x) ?_ (fun hx => ?_); focus unfold x; rotate_left; clear_value x) | (intro x; refine Kept.isFun (f := x) ?_; (try unfold x); clear x) | (intro x; first | refine Kept.sub (α := Ods) x ?_ | refine Kept.sub (α := Faults) x ?_ | refine Kept.sub (α := Shelves) x ?_ | refine Kept.sub (α := Epm) x ?_ | refine Kept.sub (α := Pcs) x ?_; (try unfold x); clear x) | (intro x; clear_value x) | intro _ | with_reducible apply Kept.id | lift_lets -underBinder | with_reducible apply State.bump_kept | with_reducible apply Kept.foldl | with_reducible apply Kept.foldl₁ | (split <;> (first | (rename_i e; with_reducible obtain ⟨rfl, e⟩ := Prod.mk.inj e) | with_reducible apply FstKept.pair)) | split | with_reducible refine Kept.upd (s := State.mk _ _ _ _ _ _ _ _ _ _ _ _ _ _ _ _ _ _ _ _ _ _) ?_ rfl rfl rfl rfl rfl rfl rfl rfl)

theorem State.fire_kept {p : List Instr} {x0 x1 x2 x3 x4} (h0 : Kept p x0) : Kept p (State.fire x0 x1 x2 x3 x4) := by
  delta State.fire
  repeat' (first | with_reducible assumption | with_reducible exact Kept.upd ‹_› rfl rfl rfl rfl rfl rfl rfl rfl | (intro x; refine Kept.cut (p := p) (x := x) ?_ (fun hx => ?_); focus unfold x; rotate_left; clear_value x) | (intro x; refine Kept.isFun (f := x) ?_; (try unfold x); clear x) | (intro x; first | refine Kept.sub (α := Ods) x ?_ | refine Kept.sub (α := Faults) x ?_ | refine Kept.sub (α := Shelves) x ?_ | refine Kept.sub (α := Epm) x ?_ | refine Kept.sub (α := Pcs) x ?_; (try unfold x); clear x) | (intro x; clear_value x) | intro _ | with_reducible apply Kept.id | lift_lets -underBinder | with_reducible apply State.fireWith_kept | with_reducible apply Kept.foldl | with_reducible apply Kept.foldl₁ | (split <;> (first | (rename_i e; with_reducible obtain ⟨rfl, e⟩ := Prod.mk.inj e) | with_reducible apply FstKept.pair)) | split | with_reducible refine Kept.upd (s := State.mk _ _ _ _ _ _ _ _ _ _ _ _ _ _ _ _ _ _ _ _ _ _) ?_ rfl rfl rfl rfl rfl rfl rfl rfl)

end Sys2Proof.Machine
end

