-- ==== Sys2Proof/Laws/KeptEvent.lean ====
section
/-! SUPPORT. The operations and meanings of Machine/Event.lean keep the queue and the rules of `Inv`. -/
namespace Sys2Proof.Machine

theorem State.event_kept {p : List Instr} {x0 x1} (h0 : Kept p x0) : Kept p (State.event x0 x1) := by
  delta State.event
  repeat' (first | with_reducible assumption | with_reducible exact Kept.upd ‹_› rfl rfl rfl rfl rfl rfl rfl rfl | (intro x; refine Kept.cut (p := p) (x := x) ?_ (fun hx => ?_); focus unfold x; rotate_left; clear_value x) | (intro x; refine Kept.isFun (f := x) ?_; (try unfold x); clear x) | (intro x; first | refine Kept.sub (α := Ods) x ?_ | refine Kept.sub (α := Faults) x ?_ | refine Kept.sub (α := Shelves) x ?_ | refine Kept.sub (α := Epm) x ?_ | refine Kept.sub (α := Pcs) x ?_; (try unfold x); clear x) | (intro x; clear_value x) | intro _ | with_reducible apply Kept.id | lift_lets -underBinder | with_reducible apply State.raise_kept | with_reducible apply Kept.foldl | with_reducible apply Kept.foldl₁ | (split <;> (first | (rename_i e; with_reducible obtain ⟨rfl, e⟩ := Prod.mk.inj e) | with_reducible apply FstKept.pair)) | split | with_reducible refine Kept.upd (s := State.mk _ _ _ _ _ _ _ _ _ _ _ _ _ _ _ _ _ _ _ _ _ _) ?_ rfl rfl rfl rfl rfl rfl rfl rfl)

theorem State.resetCtrs_kept {p : List Instr} {s : State} {f : Rst → Bool} (h : Kept p s) : Kept p (s.resetCtrs f) :=
  Kept.ctrFilter h

theorem State.resetClass_kept {p : List Instr} {x0 x1} (h0 : Kept p x0) : Kept p (State.resetClass x0 x1) := by
  delta State.resetClass
  repeat' (first | with_reducible assumption | with_reducible exact Kept.upd ‹_› rfl rfl rfl rfl rfl rfl rfl rfl | (intro x; refine Kept.cut (p := p) (x := x) ?_ (fun hx => ?_); focus unfold x; rotate_left; clear_value x) | (intro x; refine Kept.isFun (f := x) ?_; (try unfold x); clear x) | (intro x; first | refine Kept.sub (α := Ods) x ?_ | refine Kept.sub (α := Faults) x ?_ | refine Kept.sub (α := Shelves) x ?_ | refine Kept.sub (α := Epm) x ?_ | refine Kept.sub (α := Pcs) x ?_; (try unfold x); clear x) | (intro x; clear_value x) | intro _ | with_reducible apply Kept.id | lift_lets -underBinder | with_reducible apply State.resetCtrs_kept | with_reducible apply State.resetEnts_kept | with_reducible apply Kept.foldl | with_reducible apply Kept.foldl₁ | (split <;> (first | (rename_i e; with_reducible obtain ⟨rfl, e⟩ := Prod.mk.inj e) | with_reducible apply FstKept.pair)) | split | with_reducible refine Kept.upd (s := State.mk _ _ _ _ _ _ _ _ _ _ _ _ _ _ _ _ _ _ _ _ _ _) ?_ rfl rfl rfl rfl rfl rfl rfl rfl)

theorem State.mailboxReset_kept {p : List Instr} {x0 x1} (h0 : Kept p x0) : Kept p (State.mailboxReset x0 x1) := by
  delta State.mailboxReset
  repeat' (first | with_reducible assumption | with_reducible exact Kept.upd ‹_› rfl rfl rfl rfl rfl rfl rfl rfl | (intro x; refine Kept.cut (p := p) (x := x) ?_ (fun hx => ?_); focus unfold x; rotate_left; clear_value x) | (intro x; refine Kept.isFun (f := x) ?_; (try unfold x); clear x) | (intro x; first | refine Kept.sub (α := Ods) x ?_ | refine Kept.sub (α := Faults) x ?_ | refine Kept.sub (α := Shelves) x ?_ | refine Kept.sub (α := Epm) x ?_ | refine Kept.sub (α := Pcs) x ?_; (try unfold x); clear x) | (intro x; clear_value x) | intro _ | with_reducible apply Kept.id | lift_lets -underBinder | with_reducible apply Kept.foldl | with_reducible apply Kept.foldl₁ | (split <;> (first | (rename_i e; with_reducible obtain ⟨rfl, e⟩ := Prod.mk.inj e) | with_reducible apply FstKept.pair)) | split | with_reducible refine Kept.upd (s := State.mk _ _ _ _ _ _ _ _ _ _ _ _ _ _ _ _ _ _ _ _ _ _) ?_ rfl rfl rfl rfl rfl rfl rfl rfl)

theorem State.stageDiscard_kept {p : List Instr} {s : State} (h : Kept p s) : Kept p s.stageDiscard := by
  unfold State.stageDiscard
  split
  · exact h
  · refine State.event_kept ⟨h.queue, h.inv.mem, h.inv.ctr, h.inv.top, h.inv.faults, h.inv.gen, h.inv.refusals, ?_, h.inv.alive⟩
    exact Nat.lt_of_le_of_lt (Nat.min_le_left _ _) (by decide)

theorem State.pathLost_kept {p : List Instr} {x0 x1} (h0 : Kept p x0) : Kept p (State.pathLost x0 x1) := by
  delta State.pathLost
  repeat' (first | with_reducible assumption | with_reducible exact Kept.upd ‹_› rfl rfl rfl rfl rfl rfl rfl rfl | (intro x; refine Kept.cut (p := p) (x := x) ?_ (fun hx => ?_); focus unfold x; rotate_left; clear_value x) | (intro x; refine Kept.isFun (f := x) ?_; (try unfold x); clear x) | (intro x; first | refine Kept.sub (α := Ods) x ?_ | refine Kept.sub (α := Faults) x ?_ | refine Kept.sub (α := Shelves) x ?_ | refine Kept.sub (α := Epm) x ?_ | refine Kept.sub (α := Pcs) x ?_; (try unfold x); clear x) | (intro x; clear_value x) | intro _ | with_reducible apply Kept.id | lift_lets -underBinder | with_reducible apply State.mailboxReset_kept | with_reducible apply State.stageDiscard_kept | with_reducible apply Kept.foldl | with_reducible apply Kept.foldl₁ | (split <;> (first | (rename_i e; with_reducible obtain ⟨rfl, e⟩ := Prod.mk.inj e) | with_reducible apply FstKept.pair)) | split | with_reducible refine Kept.upd (s := State.mk _ _ _ _ _ _ _ _ _ _ _ _ _ _ _ _ _ _ _ _ _ _) ?_ rfl rfl rfl rfl rfl rfl rfl rfl)

end Sys2Proof.Machine
end

