-- ==== Sys2Proof/Laws/KeptShelf.lean ====
section
/-! SUPPORT. The operations and meanings of Machine/Shelf.lean keep the queue and the rules of `Inv`. -/
namespace Sys2Proof.Machine

theorem State.setPart_kept {p : List Instr} {x0 x1 x2 x3} (h0 : Kept p x0) : Kept p (State.setPart x0 x1 x2 x3) := by
  delta State.setPart
  repeat' (first | with_reducible assumption | with_reducible exact Kept.upd ‹_› rfl rfl rfl rfl rfl rfl rfl rfl | (intro x; refine Kept.cut (p := p) (x := x) ?_ (fun hx => ?_); focus unfold x; rotate_left; clear_value x) | (intro x; refine Kept.isFun (f := x) ?_; (try unfold x); clear x) | (intro x; first | refine Kept.sub (α := Ods) x ?_ | refine Kept.sub (α := Faults) x ?_ | refine Kept.sub (α := Shelves) x ?_ | refine Kept.sub (α := Epm) x ?_ | refine Kept.sub (α := Pcs) x ?_; (try unfold x); clear x) | (intro x; clear_value x) | intro _ | with_reducible apply Kept.id | lift_lets -underBinder | with_reducible apply Kept.foldl | with_reducible apply Kept.foldl₁ | (split <;> (first | (rename_i e; with_reducible obtain ⟨rfl, e⟩ := Prod.mk.inj e) | with_reducible apply FstKept.pair)) | split | with_reducible refine Kept.upd (s := State.mk _ _ _ _ _ _ _ _ _ _ _ _ _ _ _ _ _ _ _ _ _ _) ?_ rfl rfl rfl rfl rfl rfl rfl rfl)

theorem State.copyStart_kept {p : List Instr} {x0 x1 x2} (h0 : Kept p x0) : Kept p (State.copyStart x0 x1 x2) := by
  delta State.copyStart
  repeat' (first | with_reducible assumption | with_reducible exact Kept.upd ‹_› rfl rfl rfl rfl rfl rfl rfl rfl | (intro x; refine Kept.cut (p := p) (x := x) ?_ (fun hx => ?_); focus unfold x; rotate_left; clear_value x) | (intro x; refine Kept.isFun (f := x) ?_; (try unfold x); clear x) | (intro x; first | refine Kept.sub (α := Ods) x ?_ | refine Kept.sub (α := Faults) x ?_ | refine Kept.sub (α := Shelves) x ?_ | refine Kept.sub (α := Epm) x ?_ | refine Kept.sub (α := Pcs) x ?_; (try unfold x); clear x) | (intro x; clear_value x) | intro _ | with_reducible apply Kept.id | lift_lets -underBinder | with_reducible apply State.setPart_kept | with_reducible apply Kept.foldl | with_reducible apply Kept.foldl₁ | (split <;> (first | (rename_i e; with_reducible obtain ⟨rfl, e⟩ := Prod.mk.inj e) | with_reducible apply FstKept.pair)) | split | with_reducible refine Kept.upd (s := State.mk _ _ _ _ _ _ _ _ _ _ _ _ _ _ _ _ _ _ _ _ _ _) ?_ rfl rfl rfl rfl rfl rfl rfl rfl)

theorem State.autoCopy_kept {p : List Instr} {x0 x1} (h0 : Kept p x0) : Kept p (State.autoCopy x0 x1) := by
  have e := Eq.refl (@State.autoCopy); conv at e => rhs; delta State.autoCopy
  refine of_body (a := @State.autoCopy) (P := fun f => Kept p (f x0 x1)) (b := ?b) ?e ?h; case e => exact e
  clear e
  repeat' (first | with_reducible assumption | with_reducible exact Kept.upd ‹_› rfl rfl rfl rfl rfl rfl rfl rfl | (intro x; refine Kept.cut (p := p) (x := x) ?_ (fun hx => ?_); focus unfold x; rotate_left; clear_value x) | (intro x; refine Kept.isFun (f := x) ?_; (try unfold x); clear x) | (intro x; first | refine Kept.sub (α := Ods) x ?_ | refine Kept.sub (α := Faults) x ?_ | refine Kept.sub (α := Shelves) x ?_ | refine Kept.sub (α := Epm) x ?_ | refine Kept.sub (α := Pcs) x ?_; (try unfold x); clear x) | (intro x; clear_value x) | intro _ | with_reducible apply Kept.id | lift_lets -underBinder | with_reducible apply State.copyStart_kept | with_reducible apply Kept.foldl | with_reducible apply Kept.foldl₁ | (split <;> (first | (rename_i e; with_reducible obtain ⟨rfl, e⟩ := Prod.mk.inj e) | with_reducible apply FstKept.pair)) | split | with_reducible refine Kept.upd (s := State.mk _ _ _ _ _ _ _ _ _ _ _ _ _ _ _ _ _ _ _ _ _ _) ?_ rfl rfl rfl rfl rfl rfl rfl rfl)

theorem State.slotEnd_kept {p : List Instr} {x0 x1 x2} (h0 : Kept p x0) : Kept p (State.slotEnd x0 x1 x2) := by
  delta State.slotEnd
  repeat' (first | with_reducible assumption | with_reducible exact Kept.upd ‹_› rfl rfl rfl rfl rfl rfl rfl rfl | (intro x; refine Kept.cut (p := p) (x := x) ?_ (fun hx => ?_); focus unfold x; rotate_left; clear_value x) | (intro x; refine Kept.isFun (f := x) ?_; (try unfold x); clear x) | (intro x; first | refine Kept.sub (α := Ods) x ?_ | refine Kept.sub (α := Faults) x ?_ | refine Kept.sub (α := Shelves) x ?_ | refine Kept.sub (α := Epm) x ?_ | refine Kept.sub (α := Pcs) x ?_; (try unfold x); clear x) | (intro x; clear_value x) | intro _ | with_reducible apply Kept.id | lift_lets -underBinder | with_reducible apply Kept.foldl | with_reducible apply Kept.foldl₁ | (split <;> (first | (rename_i e; with_reducible obtain ⟨rfl, e⟩ := Prod.mk.inj e) | with_reducible apply FstKept.pair)) | split | with_reducible refine Kept.upd (s := State.mk _ _ _ _ _ _ _ _ _ _ _ _ _ _ _ _ _ _ _ _ _ _) ?_ rfl rfl rfl rfl rfl rfl rfl rfl)

theorem State.ctlCount_kept {p : List Instr} {x0 x1 x2 x3} (h0 : Kept p x0) : Kept p (State.ctlCount x0 x1 x2 x3) := by
  delta State.ctlCount
  repeat' (first | with_reducible assumption | with_reducible exact Kept.upd ‹_› rfl rfl rfl rfl rfl rfl rfl rfl | (intro x; refine Kept.cut (p := p) (x := x) ?_ (fun hx => ?_); focus unfold x; rotate_left; clear_value x) | (intro x; refine Kept.isFun (f := x) ?_; (try unfold x); clear x) | (intro x; first | refine Kept.sub (α := Ods) x ?_ | refine Kept.sub (α := Faults) x ?_ | refine Kept.sub (α := Shelves) x ?_ | refine Kept.sub (α := Epm) x ?_ | refine Kept.sub (α := Pcs) x ?_; (try unfold x); clear x) | (intro x; clear_value x) | intro _ | with_reducible apply Kept.id | lift_lets -underBinder | with_reducible apply State.bump_kept | with_reducible apply Kept.foldl | with_reducible apply Kept.foldl₁ | (split <;> (first | (rename_i e; with_reducible obtain ⟨rfl, e⟩ := Prod.mk.inj e) | with_reducible apply FstKept.pair)) | split | with_reducible refine Kept.upd (s := State.mk _ _ _ _ _ _ _ _ _ _ _ _ _ _ _ _ _ _ _ _ _ _) ?_ rfl rfl rfl rfl rfl rfl rfl rfl)

theorem Kept.mwrite {p : List Instr} {s : State} {sh : Shelves} {a : Nat} {b : Bytes} (h : Kept p s)
    (e : sh.mem = mwrite s.shelves.mem a b) : Kept p { s with shelves := sh } :=
  ⟨h.queue, by simpa [e] using mwrite_wf h.inv.mem, h.inv.ctr, h.inv.top, h.inv.faults, h.inv.gen, h.inv.refusals,
   h.inv.discards, h.inv.alive⟩

theorem State.rawWrite_kept {p : List Instr} {s : State} {line : Nat} {b : Bytes} {poison : Bool} (h : Kept p s) :
    Kept p (s.rawWrite line b poison) := by
  unfold State.rawWrite
  dsimp only
  split
  · exact State.ctlCount_kept h
  · split
    · exact State.ctlCount_kept (Kept.mwrite h rfl)
    · exact Kept.mwrite h rfl

theorem State.setReuse_kept {p : List Instr} {x0 x1 x2} (h0 : Kept p x0) : Kept p (State.setReuse x0 x1 x2) := by
  delta State.setReuse
  repeat' (first | with_reducible assumption | with_reducible exact Kept.upd ‹_› rfl rfl rfl rfl rfl rfl rfl rfl | (intro x; refine Kept.cut (p := p) (x := x) ?_ (fun hx => ?_); focus unfold x; rotate_left; clear_value x) | (intro x; refine Kept.isFun (f := x) ?_; (try unfold x); clear x) | (intro x; first | refine Kept.sub (α := Ods) x ?_ | refine Kept.sub (α := Faults) x ?_ | refine Kept.sub (α := Shelves) x ?_ | refine Kept.sub (α := Epm) x ?_ | refine Kept.sub (α := Pcs) x ?_; (try unfold x); clear x) | (intro x; clear_value x) | intro _ | with_reducible apply Kept.id | lift_lets -underBinder | with_reducible apply Kept.foldl | with_reducible apply Kept.foldl₁ | (split <;> (first | (rename_i e; with_reducible obtain ⟨rfl, e⟩ := Prod.mk.inj e) | with_reducible apply FstKept.pair)) | split | with_reducible refine Kept.upd (s := State.mk _ _ _ _ _ _ _ _ _ _ _ _ _ _ _ _ _ _ _ _ _ _) ?_ rfl rfl rfl rfl rfl rfl rfl rfl)

theorem State.carveCount_kept {p : List Instr} {x0 x1} (h0 : Kept p x0) : Kept p (State.carveCount x0 x1) := by
  delta State.carveCount
  repeat' (first | with_reducible assumption | with_reducible exact Kept.upd ‹_› rfl rfl rfl rfl rfl rfl rfl rfl | (intro x; refine Kept.cut (p := p) (x := x) ?_ (fun hx => ?_); focus unfold x; rotate_left; clear_value x) | (intro x; refine Kept.isFun (f := x) ?_; (try unfold x); clear x) | (intro x; first | refine Kept.sub (α := Ods) x ?_ | refine Kept.sub (α := Faults) x ?_ | refine Kept.sub (α := Shelves) x ?_ | refine Kept.sub (α := Epm) x ?_ | refine Kept.sub (α := Pcs) x ?_; (try unfold x); clear x) | (intro x; clear_value x) | intro _ | with_reducible apply Kept.id | lift_lets -underBinder | with_reducible apply State.bump_kept | with_reducible apply Kept.foldl | with_reducible apply Kept.foldl₁ | (split <;> (first | (rename_i e; with_reducible obtain ⟨rfl, e⟩ := Prod.mk.inj e) | with_reducible apply FstKept.pair)) | split | with_reducible refine Kept.upd (s := State.mk _ _ _ _ _ _ _ _ _ _ _ _ _ _ _ _ _ _ _ _ _ _) ?_ rfl rfl rfl rfl rfl rfl rfl rfl)

theorem State.setCarve_kept {p : List Instr} {x0 x1 x2} (h0 : Kept p x0) : Kept p (State.setCarve x0 x1 x2) := by
  delta State.setCarve
  repeat' (first | with_reducible assumption | with_reducible exact Kept.upd ‹_› rfl rfl rfl rfl rfl rfl rfl rfl | (intro x; refine Kept.cut (p := p) (x := x) ?_ (fun hx => ?_); focus unfold x; rotate_left; clear_value x) | (intro x; refine Kept.isFun (f := x) ?_; (try unfold x); clear x) | (intro x; first | refine Kept.sub (α := Ods) x ?_ | refine Kept.sub (α := Faults) x ?_ | refine Kept.sub (α := Shelves) x ?_ | refine Kept.sub (α := Epm) x ?_ | refine Kept.sub (α := Pcs) x ?_; (try unfold x); clear x) | (intro x; clear_value x) | intro _ | with_reducible apply Kept.id | lift_lets -underBinder | with_reducible apply Kept.foldl | with_reducible apply Kept.foldl₁ | (split <;> (first | (rename_i e; with_reducible obtain ⟨rfl, e⟩ := Prod.mk.inj e) | with_reducible apply FstKept.pair)) | split | with_reducible refine Kept.upd (s := State.mk _ _ _ _ _ _ _ _ _ _ _ _ _ _ _ _ _ _ _ _ _ _) ?_ rfl rfl rfl rfl rfl rfl rfl rfl)

theorem State.carveEvict_kept {p : List Instr} {x0 x1} (h0 : Kept p x0) : Kept p (State.carveEvict x0 x1) := by
  delta State.carveEvict
  repeat' (first | with_reducible assumption | with_reducible exact Kept.upd ‹_› rfl rfl rfl rfl rfl rfl rfl rfl | (intro x; refine Kept.cut (p := p) (x := x) ?_ (fun hx => ?_); focus unfold x; rotate_left; clear_value x) | (intro x; refine Kept.isFun (f := x) ?_; (try unfold x); clear x) | (intro x; first | refine Kept.sub (α := Ods) x ?_ | refine Kept.sub (α := Faults) x ?_ | refine Kept.sub (α := Shelves) x ?_ | refine Kept.sub (α := Epm) x ?_ | refine Kept.sub (α := Pcs) x ?_; (try unfold x); clear x) | (intro x; clear_value x) | intro _ | with_reducible apply Kept.id | lift_lets -underBinder | with_reducible apply State.carveCount_kept | with_reducible apply State.rawWrite_kept | with_reducible apply State.setReuse_kept | with_reducible apply State.setCarve_kept | with_reducible apply Kept.foldl | with_reducible apply Kept.foldl₁ | (split <;> (first | (rename_i e; with_reducible obtain ⟨rfl, e⟩ := Prod.mk.inj e) | with_reducible apply FstKept.pair)) | split | with_reducible refine Kept.upd (s := State.mk _ _ _ _ _ _ _ _ _ _ _ _ _ _ _ _ _ _ _ _ _ _) ?_ rfl rfl rfl rfl rfl rfl rfl rfl)

theorem State.scrubCarve_kept {p : List Instr} {x0 x1} (h0 : Kept p x0) : Kept p (State.scrubCarve x0 x1) := by
  have e := Eq.refl (@State.scrubCarve); conv at e => rhs; delta State.scrubCarve
  refine of_body (a := @State.scrubCarve) (P := fun f => Kept p (f x0 x1)) (b := ?b) ?e ?h; case e => exact e
  clear e
  repeat' (first | with_reducible assumption | with_reducible exact Kept.upd ‹_› rfl rfl rfl rfl rfl rfl rfl rfl | (intro x; refine Kept.cut (p := p) (x := x) ?_ (fun hx => ?_); focus unfold x; rotate_left; clear_value x) | (intro x; refine Kept.isFun (f := x) ?_; (try unfold x); clear x) | (intro x; first | refine Kept.sub (α := Ods) x ?_ | refine Kept.sub (α := Faults) x ?_ | refine Kept.sub (α := Shelves) x ?_ | refine Kept.sub (α := Epm) x ?_ | refine Kept.sub (α := Pcs) x ?_; (try unfold x); clear x) | (intro x; clear_value x) | intro _ | with_reducible apply Kept.id | lift_lets -underBinder | with_reducible apply State.setCarve_kept | with_reducible apply Kept.foldl | with_reducible apply Kept.foldl₁ | (split <;> (first | (rename_i e; with_reducible obtain ⟨rfl, e⟩ := Prod.mk.inj e) | with_reducible apply FstKept.pair)) | split | with_reducible refine Kept.upd (s := State.mk _ _ _ _ _ _ _ _ _ _ _ _ _ _ _ _ _ _ _ _ _ _) ?_ rfl rfl rfl rfl rfl rfl rfl rfl)

theorem State.owe_kept {p : List Instr} {x0 x1 x2 x3} (h0 : Kept p x0) : Kept p (State.owe x0 x1 x2 x3) := by
  have e := Eq.refl (@State.owe); conv at e => rhs; delta State.owe
  refine of_body (a := @State.owe) (P := fun f => Kept p (f x0 x1 x2 x3)) (b := ?b) ?e ?h; case e => exact e
  clear e
  repeat' (first | with_reducible assumption | with_reducible exact Kept.upd ‹_› rfl rfl rfl rfl rfl rfl rfl rfl | (intro x; refine Kept.cut (p := p) (x := x) ?_ (fun hx => ?_); focus unfold x; rotate_left; clear_value x) | (intro x; refine Kept.isFun (f := x) ?_; (try unfold x); clear x) | (intro x; first | refine Kept.sub (α := Ods) x ?_ | refine Kept.sub (α := Faults) x ?_ | refine Kept.sub (α := Shelves) x ?_ | refine Kept.sub (α := Epm) x ?_ | refine Kept.sub (α := Pcs) x ?_; (try unfold x); clear x) | (intro x; clear_value x) | intro _ | with_reducible apply Kept.id | lift_lets -underBinder | with_reducible apply Kept.foldl | with_reducible apply Kept.foldl₁ | (split <;> (first | (rename_i e; with_reducible obtain ⟨rfl, e⟩ := Prod.mk.inj e) | with_reducible apply FstKept.pair)) | split | with_reducible refine Kept.upd (s := State.mk _ _ _ _ _ _ _ _ _ _ _ _ _ _ _ _ _ _ _ _ _ _) ?_ rfl rfl rfl rfl rfl rfl rfl rfl)

theorem State.autoCopies_kept {p : List Instr} {x0} (h0 : Kept p x0) : Kept p (State.autoCopies x0) := by
  have e := Eq.refl (@State.autoCopies); conv at e => rhs; delta State.autoCopies
  refine of_body (a := @State.autoCopies) (P := fun f => Kept p (f x0)) (b := ?b) ?e ?h; case e => exact e
  clear e
  repeat' (first | with_reducible assumption | with_reducible exact Kept.upd ‹_› rfl rfl rfl rfl rfl rfl rfl rfl | (intro x; refine Kept.cut (p := p) (x := x) ?_ (fun hx => ?_); focus unfold x; rotate_left; clear_value x) | (intro x; refine Kept.isFun (f := x) ?_; (try unfold x); clear x) | (intro x; first | refine Kept.sub (α := Ods) x ?_ | refine Kept.sub (α := Faults) x ?_ | refine Kept.sub (α := Shelves) x ?_ | refine Kept.sub (α := Epm) x ?_ | refine Kept.sub (α := Pcs) x ?_; (try unfold x); clear x) | (intro x; clear_value x) | intro _ | with_reducible apply Kept.id | lift_lets -underBinder | with_reducible apply State.autoCopy_kept | with_reducible apply Kept.foldl | with_reducible apply Kept.foldl₁ | (split <;> (first | (rename_i e; with_reducible obtain ⟨rfl, e⟩ := Prod.mk.inj e) | with_reducible apply FstKept.pair)) | split | with_reducible refine Kept.upd (s := State.mk _ _ _ _ _ _ _ _ _ _ _ _ _ _ _ _ _ _ _ _ _ _) ?_ rfl rfl rfl rfl rfl rfl rfl rfl)

theorem State.openRead_kept {p : List Instr} {x0 x1 x2} (h0 : Kept p x0) : Kept p (State.openRead x0 x1 x2) := by
  have e := Eq.refl (@State.openRead); conv at e => rhs; delta State.openRead
  refine of_body (a := @State.openRead) (P := fun f => Kept p (f x0 x1 x2)) (b := ?b) ?e ?h; case e => exact e
  clear e
  repeat' (first | with_reducible assumption | with_reducible refine fun (_ : Kept p _) => ?_ | (split <;> (first |(first | with_reducible apply State.fresh_kept) | (rename_i e; with_reducible refine Kept.cut (p := p) (State.fresh_kept_eq e ?_) (fun hx => ?_)) | (rename_i e _; with_reducible refine Kept.cut (p := p) (State.fresh_kept_eq e ?_) (fun hx => ?_)) | (rename_i e _ _; with_reducible refine Kept.cut (p := p) (State.fresh_kept_eq e ?_) (fun hx => ?_)))) | with_reducible exact Kept.upd ‹_› rfl rfl rfl rfl rfl rfl rfl rfl | (intro x; refine Kept.cut (p := p) (x := x) ?_ (fun hx => ?_); focus unfold x; rotate_left; clear_value x) | (intro x; refine Kept.isFun (f := x) ?_; (try unfold x); clear x) | (intro x; first | refine Kept.sub (α := Ods) x ?_ | refine Kept.sub (α := Faults) x ?_ | refine Kept.sub (α := Shelves) x ?_ | refine Kept.sub (α := Epm) x ?_ | refine Kept.sub (α := Pcs) x ?_; (try unfold x); clear x) | (intro x; clear_value x) | intro _ | with_reducible apply Kept.id | lift_lets -underBinder | with_reducible apply State.fresh_kept | with_reducible refine (State.fresh_kept ?_).out | with_reducible apply Kept.foldl | with_reducible apply Kept.foldl₁ | (split <;> (first | (rename_i e; with_reducible obtain ⟨rfl, e⟩ := Prod.mk.inj e) | with_reducible apply FstKept.pair)) | split | with_reducible refine Kept.upd (s := State.mk _ _ _ _ _ _ _ _ _ _ _ _ _ _ _ _ _ _ _ _ _ _) ?_ rfl rfl rfl rfl rfl rfl rfl rfl)

theorem State.copyDone_kept {p : List Instr} {x0 x1 x2} (h0 : Kept p x0) : Kept p (State.copyDone x0 x1 x2) := by
  have e := Eq.refl (@State.copyDone); conv at e => rhs; delta State.copyDone
  refine of_body (a := @State.copyDone) (P := fun f => Kept p (f x0 x1 x2)) (b := ?b) ?e ?h; case e => exact e
  clear e
  repeat' (first | with_reducible assumption | with_reducible exact Kept.upd ‹_› rfl rfl rfl rfl rfl rfl rfl rfl | (intro x; refine Kept.cut (p := p) (x := x) ?_ (fun hx => ?_); focus unfold x; rotate_left; clear_value x) | (intro x; refine Kept.isFun (f := x) ?_; (try unfold x); clear x) | (intro x; first | refine Kept.sub (α := Ods) x ?_ | refine Kept.sub (α := Faults) x ?_ | refine Kept.sub (α := Shelves) x ?_ | refine Kept.sub (α := Epm) x ?_ | refine Kept.sub (α := Pcs) x ?_; (try unfold x); clear x) | (intro x; clear_value x) | intro _ | with_reducible apply Kept.id | lift_lets -underBinder | with_reducible apply State.ctlCount_kept | with_reducible apply State.rawWrite_kept | with_reducible apply State.autoCopies_kept | with_reducible apply State.setPart_kept | with_reducible apply Kept.foldl | with_reducible apply Kept.foldl₁ | (split <;> (first | (rename_i e; with_reducible obtain ⟨rfl, e⟩ := Prod.mk.inj e) | with_reducible apply FstKept.pair)) | split | with_reducible refine Kept.upd (s := State.mk _ _ _ _ _ _ _ _ _ _ _ _ _ _ _ _ _ _ _ _ _ _) ?_ rfl rfl rfl rfl rfl rfl rfl rfl)

theorem State.setDebt_kept {p : List Instr} {x0 x1 x2 x3 x4} (h0 : Kept p x0) : Kept p (State.setDebt x0 x1 x2 x3 x4) := by
  delta State.setDebt
  repeat' (first | with_reducible assumption | with_reducible exact Kept.upd ‹_› rfl rfl rfl rfl rfl rfl rfl rfl | (intro x; refine Kept.cut (p := p) (x := x) ?_ (fun hx => ?_); focus unfold x; rotate_left; clear_value x) | (intro x; refine Kept.isFun (f := x) ?_; (try unfold x); clear x) | (intro x; first | refine Kept.sub (α := Ods) x ?_ | refine Kept.sub (α := Faults) x ?_ | refine Kept.sub (α := Shelves) x ?_ | refine Kept.sub (α := Epm) x ?_ | refine Kept.sub (α := Pcs) x ?_; (try unfold x); clear x) | (intro x; clear_value x) | intro _ | with_reducible apply Kept.id | lift_lets -underBinder | with_reducible apply Kept.foldl | with_reducible apply Kept.foldl₁ | (split <;> (first | (rename_i e; with_reducible obtain ⟨rfl, e⟩ := Prod.mk.inj e) | with_reducible apply FstKept.pair)) | split | with_reducible refine Kept.upd (s := State.mk _ _ _ _ _ _ _ _ _ _ _ _ _ _ _ _ _ _ _ _ _ _) ?_ rfl rfl rfl rfl rfl rfl rfl rfl)

theorem State.slotStart_kept {p : List Instr} {x0 x1 x2 x3 x4 x5} (h0 : Kept p x0) : Kept p (State.slotStart x0 x1 x2 x3 x4 x5) := by
  delta State.slotStart
  repeat' (first | with_reducible assumption | with_reducible exact Kept.upd ‹_› rfl rfl rfl rfl rfl rfl rfl rfl | (intro x; refine Kept.cut (p := p) (x := x) ?_ (fun hx => ?_); focus unfold x; rotate_left; clear_value x) | (intro x; refine Kept.isFun (f := x) ?_; (try unfold x); clear x) | (intro x; first | refine Kept.sub (α := Ods) x ?_ | refine Kept.sub (α := Faults) x ?_ | refine Kept.sub (α := Shelves) x ?_ | refine Kept.sub (α := Epm) x ?_ | refine Kept.sub (α := Pcs) x ?_; (try unfold x); clear x) | (intro x; clear_value x) | intro _ | with_reducible apply Kept.id | lift_lets -underBinder | with_reducible apply State.bump_kept | with_reducible apply Kept.foldl | with_reducible apply Kept.foldl₁ | (split <;> (first | (rename_i e; with_reducible obtain ⟨rfl, e⟩ := Prod.mk.inj e) | with_reducible apply FstKept.pair)) | split | with_reducible refine Kept.upd (s := State.mk _ _ _ _ _ _ _ _ _ _ _ _ _ _ _ _ _ _ _ _ _ _) ?_ rfl rfl rfl rfl rfl rfl rfl rfl)

theorem State.slotDue_kept {p : List Instr} {x0 x1 x2 x3 x4} (h0 : Kept p x0) : FstKept p (State.slotDue x0 x1 x2 x3 x4) := by
  delta State.slotDue
  repeat' (first | with_reducible assumption | with_reducible exact Kept.upd ‹_› rfl rfl rfl rfl rfl rfl rfl rfl | (intro x; refine Kept.cut (p := p) (x := x) ?_ (fun hx => ?_); focus unfold x; rotate_left; clear_value x) | (intro x; refine Kept.isFun (f := x) ?_; (try unfold x); clear x) | (intro x; first | refine Kept.sub (α := Ods) x ?_ | refine Kept.sub (α := Faults) x ?_ | refine Kept.sub (α := Shelves) x ?_ | refine Kept.sub (α := Epm) x ?_ | refine Kept.sub (α := Pcs) x ?_; (try unfold x); clear x) | (intro x; clear_value x) | intro _ | with_reducible apply Kept.id | lift_lets -underBinder | with_reducible apply State.setDebt_kept | with_reducible apply State.slotStart_kept | with_reducible apply Kept.foldl | with_reducible apply Kept.foldl₁ | (split <;> (first | (rename_i e; with_reducible obtain ⟨rfl, e⟩ := Prod.mk.inj e) | with_reducible apply FstKept.pair)) | split | with_reducible refine Kept.upd (s := State.mk _ _ _ _ _ _ _ _ _ _ _ _ _ _ _ _ _ _ _ _ _ _) ?_ rfl rfl rfl rfl rfl rfl rfl rfl | with_reducible apply FstKept.pair | with_reducible apply SndKept.pair)
theorem State.slotDue_kept_eq {p : List Instr} {x0 x1 x2 x3 x4} {t r1 r2} (e : State.slotDue x0 x1 x2 x3 x4 = (t, r1, r2)) (h0 : Kept p x0) : Kept p t := by
  have k := (@State.slotDue_kept p x0 x1 x2 x3 x4 h0).out
  rw [e] at k; exact k

theorem State.refDue_kept {p : List Instr} {x0 x1 x2 x3} (h0 : Kept p x0) : Kept p (State.refDue x0 x1 x2 x3) := by
  delta State.refDue
  repeat' (first | with_reducible assumption | with_reducible refine fun (_ : Kept p _) => ?_ | (split <;> (first |(first | with_reducible apply State.slotDue_kept) | (rename_i e; with_reducible refine Kept.cut (p := p) (State.slotDue_kept_eq e ?_) (fun hx => ?_)) | (rename_i e _; with_reducible refine Kept.cut (p := p) (State.slotDue_kept_eq e ?_) (fun hx => ?_)) | (rename_i e _ _; with_reducible refine Kept.cut (p := p) (State.slotDue_kept_eq e ?_) (fun hx => ?_)))) | with_reducible exact Kept.upd ‹_› rfl rfl rfl rfl rfl rfl rfl rfl | (intro x; refine Kept.cut (p := p) (x := x) ?_ (fun hx => ?_); focus unfold x; rotate_left; clear_value x) | (intro x; refine Kept.isFun (f := x) ?_; (try unfold x); clear x) | (intro x; first | refine Kept.sub (α := Ods) x ?_ | refine Kept.sub (α := Faults) x ?_ | refine Kept.sub (α := Shelves) x ?_ | refine Kept.sub (α := Epm) x ?_ | refine Kept.sub (α := Pcs) x ?_; (try unfold x); clear x) | (intro x; clear_value x) | intro _ | with_reducible apply Kept.id | lift_lets -underBinder | with_reducible apply State.slotDue_kept | with_reducible refine (State.slotDue_kept ?_).out | with_reducible apply State.owe_kept | with_reducible apply Kept.foldl | with_reducible apply Kept.foldl₁ | (split <;> (first | (rename_i e; with_reducible obtain ⟨rfl, e⟩ := Prod.mk.inj e) | with_reducible apply FstKept.pair)) | split | with_reducible refine Kept.upd (s := State.mk _ _ _ _ _ _ _ _ _ _ _ _ _ _ _ _ _ _ _ _ _ _) ?_ rfl rfl rfl rfl rfl rfl rfl rfl)

theorem State.carveTouch_kept {p : List Instr} {x0 x1} (h0 : Kept p x0) : Kept p (State.carveTouch x0 x1) := by
  delta State.carveTouch
  repeat' (first | with_reducible assumption | with_reducible exact Kept.upd ‹_› rfl rfl rfl rfl rfl rfl rfl rfl | (intro x; refine Kept.cut (p := p) (x := x) ?_ (fun hx => ?_); focus unfold x; rotate_left; clear_value x) | (intro x; refine Kept.isFun (f := x) ?_; (try unfold x); clear x) | (intro x; first | refine Kept.sub (α := Ods) x ?_ | refine Kept.sub (α := Faults) x ?_ | refine Kept.sub (α := Shelves) x ?_ | refine Kept.sub (α := Epm) x ?_ | refine Kept.sub (α := Pcs) x ?_; (try unfold x); clear x) | (intro x; clear_value x) | intro _ | with_reducible apply Kept.id | lift_lets -underBinder | with_reducible apply State.setCarve_kept | with_reducible apply Kept.foldl | with_reducible apply Kept.foldl₁ | (split <;> (first | (rename_i e; with_reducible obtain ⟨rfl, e⟩ := Prod.mk.inj e) | with_reducible apply FstKept.pair)) | split | with_reducible refine Kept.upd (s := State.mk _ _ _ _ _ _ _ _ _ _ _ _ _ _ _ _ _ _ _ _ _ _) ?_ rfl rfl rfl rfl rfl rfl rfl rfl)

theorem State.fireCtl_kept {p : List Instr} {x0 x1 x2 x3} (h0 : Kept p x0) : Kept p (State.fireCtl x0 x1 x2 x3) := by
  delta State.fireCtl
  repeat' (first | with_reducible assumption | with_reducible exact Kept.upd ‹_› rfl rfl rfl rfl rfl rfl rfl rfl | (intro x; refine Kept.cut (p := p) (x := x) ?_ (fun hx => ?_); focus unfold x; rotate_left; clear_value x) | (intro x; refine Kept.isFun (f := x) ?_; (try unfold x); clear x) | (intro x; first | refine Kept.sub (α := Ods) x ?_ | refine Kept.sub (α := Faults) x ?_ | refine Kept.sub (α := Shelves) x ?_ | refine Kept.sub (α := Epm) x ?_ | refine Kept.sub (α := Pcs) x ?_; (try unfold x); clear x) | (intro x; clear_value x) | intro _ | with_reducible apply Kept.id | lift_lets -underBinder | with_reducible apply State.fire_kept | with_reducible apply Kept.foldl | with_reducible apply Kept.foldl₁ | (split <;> (first | (rename_i e; with_reducible obtain ⟨rfl, e⟩ := Prod.mk.inj e) | with_reducible apply FstKept.pair)) | split | with_reducible refine Kept.upd (s := State.mk _ _ _ _ _ _ _ _ _ _ _ _ _ _ _ _ _ _ _ _ _ _) ?_ rfl rfl rfl rfl rfl rfl rfl rfl)

theorem State.partFailed_kept {p : List Instr} {x0 x1 x2} (h0 : Kept p x0) : Kept p (State.partFailed x0 x1 x2) := by
  delta State.partFailed
  repeat' (first | with_reducible assumption | with_reducible exact Kept.upd ‹_› rfl rfl rfl rfl rfl rfl rfl rfl | (intro x; refine Kept.cut (p := p) (x := x) ?_ (fun hx => ?_); focus unfold x; rotate_left; clear_value x) | (intro x; refine Kept.isFun (f := x) ?_; (try unfold x); clear x) | (intro x; first | refine Kept.sub (α := Ods) x ?_ | refine Kept.sub (α := Faults) x ?_ | refine Kept.sub (α := Shelves) x ?_ | refine Kept.sub (α := Epm) x ?_ | refine Kept.sub (α := Pcs) x ?_; (try unfold x); clear x) | (intro x; clear_value x) | intro _ | with_reducible apply Kept.id | lift_lets -underBinder | with_reducible apply State.fireCtl_kept | with_reducible apply State.setPart_kept | with_reducible apply Kept.foldl | with_reducible apply Kept.foldl₁ | (split <;> (first | (rename_i e; with_reducible obtain ⟨rfl, e⟩ := Prod.mk.inj e) | with_reducible apply FstKept.pair)) | split | with_reducible refine Kept.upd (s := State.mk _ _ _ _ _ _ _ _ _ _ _ _ _ _ _ _ _ _ _ _ _ _) ?_ rfl rfl rfl rfl rfl rfl rfl rfl)

theorem State.carveStore_kept {p : List Instr} {x0 x1 x2} (h0 : Kept p x0) : Kept p (State.carveStore x0 x1 x2) := by
  have e := Eq.refl (@State.carveStore); conv at e => rhs; delta State.carveStore
  refine of_body (a := @State.carveStore) (P := fun f => Kept p (f x0 x1 x2)) (b := ?b) ?e ?h; case e => exact e
  clear e
  repeat' (first | with_reducible assumption | with_reducible exact Kept.upd ‹_› rfl rfl rfl rfl rfl rfl rfl rfl | (intro x; refine Kept.cut (p := p) (x := x) ?_ (fun hx => ?_); focus unfold x; rotate_left; clear_value x) | (intro x; refine Kept.isFun (f := x) ?_; (try unfold x); clear x) | (intro x; first | refine Kept.sub (α := Ods) x ?_ | refine Kept.sub (α := Faults) x ?_ | refine Kept.sub (α := Shelves) x ?_ | refine Kept.sub (α := Epm) x ?_ | refine Kept.sub (α := Pcs) x ?_; (try unfold x); clear x) | (intro x; clear_value x) | intro _ | with_reducible apply Kept.id | lift_lets -underBinder | with_reducible apply State.ctlCount_kept | with_reducible apply State.setCarve_kept | with_reducible apply Kept.foldl | with_reducible apply Kept.foldl₁ | (split <;> (first | (rename_i e; with_reducible obtain ⟨rfl, e⟩ := Prod.mk.inj e) | with_reducible apply FstKept.pair)) | split | with_reducible refine Kept.upd (s := State.mk _ _ _ _ _ _ _ _ _ _ _ _ _ _ _ _ _ _ _ _ _ _) ?_ rfl rfl rfl rfl rfl rfl rfl rfl)

theorem State.recalDue_kept {p : List Instr} {x0 x1 x2 x3} (h0 : Kept p x0) : Kept p (State.recalDue x0 x1 x2 x3) := by
  delta State.recalDue
  repeat' (first | with_reducible assumption | with_reducible exact Kept.upd ‹_› rfl rfl rfl rfl rfl rfl rfl rfl | (intro x; refine Kept.cut (p := p) (x := x) ?_ (fun hx => ?_); focus unfold x; rotate_left; clear_value x) | (intro x; refine Kept.isFun (f := x) ?_; (try unfold x); clear x) | (intro x; first | refine Kept.sub (α := Ods) x ?_ | refine Kept.sub (α := Faults) x ?_ | refine Kept.sub (α := Shelves) x ?_ | refine Kept.sub (α := Epm) x ?_ | refine Kept.sub (α := Pcs) x ?_; (try unfold x); clear x) | (intro x; clear_value x) | intro _ | with_reducible apply Kept.id | lift_lets -underBinder | with_reducible apply State.partFailed_kept | with_reducible apply Kept.foldl | with_reducible apply Kept.foldl₁ | (split <;> (first | (rename_i e; with_reducible obtain ⟨rfl, e⟩ := Prod.mk.inj e) | with_reducible apply FstKept.pair)) | split | with_reducible refine Kept.upd (s := State.mk _ _ _ _ _ _ _ _ _ _ _ _ _ _ _ _ _ _ _ _ _ _) ?_ rfl rfl rfl rfl rfl rfl rfl rfl)

theorem State.scrubStart_kept {p : List Instr} {x0 x1} (h0 : Kept p x0) : Kept p (State.scrubStart x0 x1) := by
  delta State.scrubStart
  repeat' (first | with_reducible assumption | with_reducible refine fun (_ : Kept p _) => ?_ | (split <;> (first |(first | with_reducible apply State.fresh_kept) | (rename_i e; with_reducible refine Kept.cut (p := p) (State.fresh_kept_eq e ?_) (fun hx => ?_)) | (rename_i e _; with_reducible refine Kept.cut (p := p) (State.fresh_kept_eq e ?_) (fun hx => ?_)) | (rename_i e _ _; with_reducible refine Kept.cut (p := p) (State.fresh_kept_eq e ?_) (fun hx => ?_)))) | with_reducible exact Kept.upd ‹_› rfl rfl rfl rfl rfl rfl rfl rfl | (intro x; refine Kept.cut (p := p) (x := x) ?_ (fun hx => ?_); focus unfold x; rotate_left; clear_value x) | (intro x; refine Kept.isFun (f := x) ?_; (try unfold x); clear x) | (intro x; first | refine Kept.sub (α := Ods) x ?_ | refine Kept.sub (α := Faults) x ?_ | refine Kept.sub (α := Shelves) x ?_ | refine Kept.sub (α := Epm) x ?_ | refine Kept.sub (α := Pcs) x ?_; (try unfold x); clear x) | (intro x; clear_value x) | intro _ | with_reducible apply Kept.id | lift_lets -underBinder | with_reducible apply State.fresh_kept | with_reducible refine (State.fresh_kept ?_).out | with_reducible apply Kept.foldl | with_reducible apply Kept.foldl₁ | (split <;> (first | (rename_i e; with_reducible obtain ⟨rfl, e⟩ := Prod.mk.inj e) | with_reducible apply FstKept.pair)) | split | with_reducible refine Kept.upd (s := State.mk _ _ _ _ _ _ _ _ _ _ _ _ _ _ _ _ _ _ _ _ _ _) ?_ rfl rfl rfl rfl rfl rfl rfl rfl)

theorem State.copyStep_kept {p : List Instr} {x0 x1} (h0 : Kept p x0) : Kept p (State.copyStep x0 x1) := by
  delta State.copyStep
  repeat' (first | with_reducible assumption | with_reducible refine fun (_ : Kept p _) => ?_ | (split <;> (first |(first | with_reducible apply State.fresh_kept) | (rename_i e; with_reducible refine Kept.cut (p := p) (State.fresh_kept_eq e ?_) (fun hx => ?_)) | (rename_i e _; with_reducible refine Kept.cut (p := p) (State.fresh_kept_eq e ?_) (fun hx => ?_)) | (rename_i e _ _; with_reducible refine Kept.cut (p := p) (State.fresh_kept_eq e ?_) (fun hx => ?_)))) | with_reducible exact Kept.upd ‹_› rfl rfl rfl rfl rfl rfl rfl rfl | (intro x; refine Kept.cut (p := p) (x := x) ?_ (fun hx => ?_); focus unfold x; rotate_left; clear_value x) | (intro x; refine Kept.isFun (f := x) ?_; (try unfold x); clear x) | (intro x; first | refine Kept.sub (α := Ods) x ?_ | refine Kept.sub (α := Faults) x ?_ | refine Kept.sub (α := Shelves) x ?_ | refine Kept.sub (α := Epm) x ?_ | refine Kept.sub (α := Pcs) x ?_; (try unfold x); clear x) | (intro x; clear_value x) | intro _ | with_reducible apply Kept.id | lift_lets -underBinder | with_reducible apply State.fresh_kept | with_reducible refine (State.fresh_kept ?_).out | with_reducible apply Kept.foldl | with_reducible apply Kept.foldl₁ | (split <;> (first | (rename_i e; with_reducible obtain ⟨rfl, e⟩ := Prod.mk.inj e) | with_reducible apply FstKept.pair)) | split | with_reducible refine Kept.upd (s := State.mk _ _ _ _ _ _ _ _ _ _ _ _ _ _ _ _ _ _ _ _ _ _) ?_ rfl rfl rfl rfl rfl rfl rfl rfl)

theorem State.backWrite_kept {p : List Instr} {x0 x1 x2 x3} (h0 : Kept p x0) : Kept p (State.backWrite x0 x1 x2 x3) := by
  delta State.backWrite
  repeat' (first | with_reducible assumption | with_reducible exact Kept.upd ‹_› rfl rfl rfl rfl rfl rfl rfl rfl | (intro x; refine Kept.cut (p := p) (x := x) ?_ (fun hx => ?_); focus unfold x; rotate_left; clear_value x) | (intro x; refine Kept.isFun (f := x) ?_; (try unfold x); clear x) | (intro x; first | refine Kept.sub (α := Ods) x ?_ | refine Kept.sub (α := Faults) x ?_ | refine Kept.sub (α := Shelves) x ?_ | refine Kept.sub (α := Epm) x ?_ | refine Kept.sub (α := Pcs) x ?_; (try unfold x); clear x) | (intro x; clear_value x) | intro _ | with_reducible apply Kept.id | lift_lets -underBinder | with_reducible apply State.carveStore_kept | with_reducible apply State.rawWrite_kept | with_reducible apply Kept.foldl | with_reducible apply Kept.foldl₁ | (split <;> (first | (rename_i e; with_reducible obtain ⟨rfl, e⟩ := Prod.mk.inj e) | with_reducible apply FstKept.pair)) | split | with_reducible refine Kept.upd (s := State.mk _ _ _ _ _ _ _ _ _ _ _ _ _ _ _ _ _ _ _ _ _ _) ?_ rfl rfl rfl rfl rfl rfl rfl rfl)

theorem State.backMerge_kept {p : List Instr} {x0 x1 x2 x3 x4} (h0 : Kept p x0) : Kept p (State.backMerge x0 x1 x2 x3 x4) := by
  delta State.backMerge
  repeat' (first | with_reducible assumption | with_reducible exact Kept.upd ‹_› rfl rfl rfl rfl rfl rfl rfl rfl | (intro x; refine Kept.cut (p := p) (x := x) ?_ (fun hx => ?_); focus unfold x; rotate_left; clear_value x) | (intro x; refine Kept.isFun (f := x) ?_; (try unfold x); clear x) | (intro x; first | refine Kept.sub (α := Ods) x ?_ | refine Kept.sub (α := Faults) x ?_ | refine Kept.sub (α := Shelves) x ?_ | refine Kept.sub (α := Epm) x ?_ | refine Kept.sub (α := Pcs) x ?_; (try unfold x); clear x) | (intro x; clear_value x) | intro _ | with_reducible apply Kept.id | lift_lets -underBinder | with_reducible apply State.backWrite_kept | with_reducible apply Kept.foldl | with_reducible apply Kept.foldl₁ | (split <;> (first | (rename_i e; with_reducible obtain ⟨rfl, e⟩ := Prod.mk.inj e) | with_reducible apply FstKept.pair)) | split | with_reducible refine Kept.upd (s := State.mk _ _ _ _ _ _ _ _ _ _ _ _ _ _ _ _ _ _ _ _ _ _) ?_ rfl rfl rfl rfl rfl rfl rfl rfl)

theorem State.scrubDone_kept {p : List Instr} {x0 x1 x2} (h0 : Kept p x0) : Kept p (State.scrubDone x0 x1 x2) := by
  have e := Eq.refl (@State.scrubDone); conv at e => rhs; delta State.scrubDone
  refine of_body (a := @State.scrubDone) (P := fun f => Kept p (f x0 x1 x2)) (b := ?b) ?e ?h; case e => exact e
  clear e
  repeat' (first | with_reducible assumption | with_reducible exact Kept.upd ‹_› rfl rfl rfl rfl rfl rfl rfl rfl | (intro x; refine Kept.cut (p := p) (x := x) ?_ (fun hx => ?_); focus unfold x; rotate_left; clear_value x) | (intro x; refine Kept.isFun (f := x) ?_; (try unfold x); clear x) | (intro x; first | refine Kept.sub (α := Ods) x ?_ | refine Kept.sub (α := Faults) x ?_ | refine Kept.sub (α := Shelves) x ?_ | refine Kept.sub (α := Epm) x ?_ | refine Kept.sub (α := Pcs) x ?_; (try unfold x); clear x) | (intro x; clear_value x) | intro _ | with_reducible apply Kept.id | lift_lets -underBinder | with_reducible apply State.scrubCarve_kept | with_reducible apply State.rawWrite_kept | with_reducible apply Kept.foldl | with_reducible apply Kept.foldl₁ | (split <;> (first | (rename_i e; with_reducible obtain ⟨rfl, e⟩ := Prod.mk.inj e) | with_reducible apply FstKept.pair)) | split | with_reducible refine Kept.upd (s := State.mk _ _ _ _ _ _ _ _ _ _ _ _ _ _ _ _ _ _ _ _ _ _) ?_ rfl rfl rfl rfl rfl rfl rfl rfl)

theorem State.uncorrected_kept {p : List Instr} {x0 x1 x2} (h0 : Kept p x0) : Kept p (State.uncorrected x0 x1 x2) := by
  delta State.uncorrected
  repeat' (first | with_reducible assumption | with_reducible exact Kept.upd ‹_› rfl rfl rfl rfl rfl rfl rfl rfl | (intro x; refine Kept.cut (p := p) (x := x) ?_ (fun hx => ?_); focus unfold x; rotate_left; clear_value x) | (intro x; refine Kept.isFun (f := x) ?_; (try unfold x); clear x) | (intro x; first | refine Kept.sub (α := Ods) x ?_ | refine Kept.sub (α := Faults) x ?_ | refine Kept.sub (α := Shelves) x ?_ | refine Kept.sub (α := Epm) x ?_ | refine Kept.sub (α := Pcs) x ?_; (try unfold x); clear x) | (intro x; clear_value x) | intro _ | with_reducible apply Kept.id | lift_lets -underBinder | with_reducible apply State.fireCtl_kept | with_reducible apply State.ctlCount_kept | with_reducible apply Kept.foldl | with_reducible apply Kept.foldl₁ | (split <;> (first | (rename_i e; with_reducible obtain ⟨rfl, e⟩ := Prod.mk.inj e) | with_reducible apply FstKept.pair)) | split | with_reducible refine Kept.upd (s := State.mk _ _ _ _ _ _ _ _ _ _ _ _ _ _ _ _ _ _ _ _ _ _) ?_ rfl rfl rfl rfl rfl rfl rfl rfl)

theorem State.corrected_kept {p : List Instr} {x0 x1 x2 x3} (h0 : Kept p x0) : Kept p (State.corrected x0 x1 x2 x3) := by
  delta State.corrected
  repeat' (first | with_reducible assumption | with_reducible exact Kept.upd ‹_› rfl rfl rfl rfl rfl rfl rfl rfl | (intro x; refine Kept.cut (p := p) (x := x) ?_ (fun hx => ?_); focus unfold x; rotate_left; clear_value x) | (intro x; refine Kept.isFun (f := x) ?_; (try unfold x); clear x) | (intro x; first | refine Kept.sub (α := Ods) x ?_ | refine Kept.sub (α := Faults) x ?_ | refine Kept.sub (α := Shelves) x ?_ | refine Kept.sub (α := Epm) x ?_ | refine Kept.sub (α := Pcs) x ?_; (try unfold x); clear x) | (intro x; clear_value x) | intro _ | with_reducible apply Kept.id | lift_lets -underBinder | with_reducible apply State.fireCtl_kept | with_reducible apply State.ctlCount_kept | with_reducible apply State.autoCopy_kept | with_reducible apply State.setPart_kept | with_reducible apply Kept.foldl | with_reducible apply Kept.foldl₁ | (split <;> (first | (rename_i e; with_reducible obtain ⟨rfl, e⟩ := Prod.mk.inj e) | with_reducible apply FstKept.pair)) | split | with_reducible refine Kept.upd (s := State.mk _ _ _ _ _ _ _ _ _ _ _ _ _ _ _ _ _ _ _ _ _ _) ?_ rfl rfl rfl rfl rfl rfl rfl rfl)

theorem State.eccFound_kept {p : List Instr} {x0 x1 x2 x3} (h0 : Kept p x0) : Kept p (State.eccFound x0 x1 x2 x3) := by
  have e := Eq.refl (@State.eccFound); conv at e => rhs; delta State.eccFound
  refine of_body (a := @State.eccFound) (P := fun f => Kept p (f x0 x1 x2 x3)) (b := ?b) ?e ?h; case e => exact e
  clear e
  repeat' (first | with_reducible assumption | with_reducible exact Kept.upd ‹_› rfl rfl rfl rfl rfl rfl rfl rfl | (intro x; refine Kept.cut (p := p) (x := x) ?_ (fun hx => ?_); focus unfold x; rotate_left; clear_value x) | (intro x; refine Kept.isFun (f := x) ?_; (try unfold x); clear x) | (intro x; first | refine Kept.sub (α := Ods) x ?_ | refine Kept.sub (α := Faults) x ?_ | refine Kept.sub (α := Shelves) x ?_ | refine Kept.sub (α := Epm) x ?_ | refine Kept.sub (α := Pcs) x ?_; (try unfold x); clear x) | (intro x; clear_value x) | intro _ | with_reducible apply Kept.id | lift_lets -underBinder | with_reducible apply State.corrected_kept | with_reducible apply State.uncorrected_kept | with_reducible apply Kept.foldl | with_reducible apply Kept.foldl₁ | (split <;> (first | (rename_i e; with_reducible obtain ⟨rfl, e⟩ := Prod.mk.inj e) | with_reducible apply FstKept.pair)) | split | with_reducible refine Kept.upd (s := State.mk _ _ _ _ _ _ _ _ _ _ _ _ _ _ _ _ _ _ _ _ _ _) ?_ rfl rfl rfl rfl rfl rfl rfl rfl)

theorem State.carveOffer_kept {p : List Instr} {x0 x1 x2 x3 x4} (h0 : Kept p x0) : Kept p (State.carveOffer x0 x1 x2 x3 x4) := by
  delta State.carveOffer
  repeat' (first | with_reducible assumption | with_reducible exact Kept.upd ‹_› rfl rfl rfl rfl rfl rfl rfl rfl | (intro x; refine Kept.cut (p := p) (x := x) ?_ (fun hx => ?_); focus unfold x; rotate_left; clear_value x) | (intro x; refine Kept.isFun (f := x) ?_; (try unfold x); clear x) | (intro x; first | refine Kept.sub (α := Ods) x ?_ | refine Kept.sub (α := Faults) x ?_ | refine Kept.sub (α := Shelves) x ?_ | refine Kept.sub (α := Epm) x ?_ | refine Kept.sub (α := Pcs) x ?_; (try unfold x); clear x) | (intro x; clear_value x) | intro _ | with_reducible apply Kept.id | lift_lets -underBinder | with_reducible apply State.carveCount_kept | with_reducible apply State.rawWrite_kept | with_reducible apply State.setCarve_kept | with_reducible apply State.carveTouch_kept | with_reducible apply State.carveStore_kept | with_reducible apply State.carveEvict_kept | with_reducible apply Kept.foldl | with_reducible apply Kept.foldl₁ | (split <;> (first | (rename_i e; with_reducible obtain ⟨rfl, e⟩ := Prod.mk.inj e) | with_reducible apply FstKept.pair)) | split | with_reducible refine Kept.upd (s := State.mk _ _ _ _ _ _ _ _ _ _ _ _ _ _ _ _ _ _ _ _ _ _) ?_ rfl rfl rfl rfl rfl rfl rfl rfl)

end Sys2Proof.Machine
end

