-- ==== Sys2Proof/Laws/KeptSlice.lean ====
section
/-! SUPPORT. The operations and meanings of Machine/Slice.lean keep the queue and the rules of `Inv`. -/
namespace Sys2Proof.Machine

/-- A served request keeps them. -/
def Served.Ok (p : List Instr) : Served → Prop
  | .waits => True
  | .asked s => Kept p s
  | .served s => Kept p s

/-- Whatever a request's service comes to keeps them. -/
structure ServedKept (p : List Instr) (x : Served) : Prop where
  out : x.Ok p

theorem ServedKept.served {p : List Instr} {s : State} (h : Kept p s) : ServedKept p (.served s) := ⟨h⟩
theorem ServedKept.asked {p : List Instr} {s : State} (h : Kept p s) : ServedKept p (.asked s) := ⟨h⟩
theorem ServedKept.waits {p : List Instr} : ServedKept p .waits := ⟨trivial⟩
theorem ServedKept.ite {p : List Instr} {a b : Served} {c : Prop} [Decidable c] (h1 : ServedKept p a) (h2 : ServedKept p b) :
    ServedKept p (if c then a else b) := by split <;> assumption

theorem State.sliceCount_kept {p : List Instr} {x0 x1 x2} (h0 : Kept p x0) : Kept p (State.sliceCount x0 x1 x2) := by
  delta State.sliceCount
  repeat' (first | with_reducible assumption | with_reducible exact Kept.upd ‹_› rfl rfl rfl rfl rfl rfl rfl rfl | (intro x; refine Kept.cut (p := p) (x := x) ?_ (fun hx => ?_); focus unfold x; rotate_left; clear_value x) | (intro x; refine Kept.isFun (f := x) ?_; (try unfold x); clear x) | (intro x; first | refine Kept.sub (α := Ods) x ?_ | refine Kept.sub (α := Faults) x ?_ | refine Kept.sub (α := Shelves) x ?_ | refine Kept.sub (α := Epm) x ?_ | refine Kept.sub (α := Pcs) x ?_; (try unfold x); clear x) | (intro x; clear_value x) | intro _ | with_reducible apply Kept.id | lift_lets -underBinder | with_reducible apply State.bump_kept | with_reducible apply Kept.foldl | with_reducible apply Kept.foldl₁ | (split <;> (first | (rename_i e; with_reducible obtain ⟨rfl, e⟩ := Prod.mk.inj e) | with_reducible apply FstKept.pair)) | split | with_reducible refine Kept.upd (s := State.mk _ _ _ _ _ _ _ _ _ _ _ _ _ _ _ _ _ _ _ _ _ _) ?_ rfl rfl rfl rfl rfl rfl rfl rfl)

theorem State.setSnf_kept {p : List Instr} {x0 x1 x2 x3} (h0 : Kept p x0) : Kept p (State.setSnf x0 x1 x2 x3) := by
  delta State.setSnf
  repeat' (first | with_reducible assumption | with_reducible exact Kept.upd ‹_› rfl rfl rfl rfl rfl rfl rfl rfl | (intro x; refine Kept.cut (p := p) (x := x) ?_ (fun hx => ?_); focus unfold x; rotate_left; clear_value x) | (intro x; refine Kept.isFun (f := x) ?_; (try unfold x); clear x) | (intro x; first | refine Kept.sub (α := Ods) x ?_ | refine Kept.sub (α := Faults) x ?_ | refine Kept.sub (α := Shelves) x ?_ | refine Kept.sub (α := Epm) x ?_ | refine Kept.sub (α := Pcs) x ?_; (try unfold x); clear x) | (intro x; clear_value x) | intro _ | with_reducible apply Kept.id | lift_lets -underBinder | with_reducible apply State.setSlice_kept | with_reducible apply Kept.foldl | with_reducible apply Kept.foldl₁ | (split <;> (first | (rename_i e; with_reducible obtain ⟨rfl, e⟩ := Prod.mk.inj e) | with_reducible apply FstKept.pair)) | split | with_reducible refine Kept.upd (s := State.mk _ _ _ _ _ _ _ _ _ _ _ _ _ _ _ _ _ _ _ _ _ _) ?_ rfl rfl rfl rfl rfl rfl rfl rfl)

theorem State.snfCount_kept {p : List Instr} {x0 x1} (h0 : Kept p x0) : Kept p (State.snfCount x0 x1) := by
  delta State.snfCount
  repeat' (first | with_reducible assumption | with_reducible exact Kept.upd ‹_› rfl rfl rfl rfl rfl rfl rfl rfl | (intro x; refine Kept.cut (p := p) (x := x) ?_ (fun hx => ?_); focus unfold x; rotate_left; clear_value x) | (intro x; refine Kept.isFun (f := x) ?_; (try unfold x); clear x) | (intro x; first | refine Kept.sub (α := Ods) x ?_ | refine Kept.sub (α := Faults) x ?_ | refine Kept.sub (α := Shelves) x ?_ | refine Kept.sub (α := Epm) x ?_ | refine Kept.sub (α := Pcs) x ?_; (try unfold x); clear x) | (intro x; clear_value x) | intro _ | with_reducible apply Kept.id | lift_lets -underBinder | with_reducible apply State.bump_kept | with_reducible apply Kept.foldl | with_reducible apply Kept.foldl₁ | (split <;> (first | (rename_i e; with_reducible obtain ⟨rfl, e⟩ := Prod.mk.inj e) | with_reducible apply FstKept.pair)) | split | with_reducible refine Kept.upd (s := State.mk _ _ _ _ _ _ _ _ _ _ _ _ _ _ _ _ _ _ _ _ _ _) ?_ rfl rfl rfl rfl rfl rfl rfl rfl)

theorem State.orderCount_kept {p : List Instr} {x0 x1 x2} (h0 : Kept p x0) : Kept p (State.orderCount x0 x1 x2) := by
  delta State.orderCount
  repeat' (first | with_reducible assumption | with_reducible exact Kept.upd ‹_› rfl rfl rfl rfl rfl rfl rfl rfl | (intro x; refine Kept.cut (p := p) (x := x) ?_ (fun hx => ?_); focus unfold x; rotate_left; clear_value x) | (intro x; refine Kept.isFun (f := x) ?_; (try unfold x); clear x) | (intro x; first | refine Kept.sub (α := Ods) x ?_ | refine Kept.sub (α := Faults) x ?_ | refine Kept.sub (α := Shelves) x ?_ | refine Kept.sub (α := Epm) x ?_ | refine Kept.sub (α := Pcs) x ?_; (try unfold x); clear x) | (intro x; clear_value x) | intro _ | with_reducible apply Kept.id | lift_lets -underBinder | with_reducible apply State.bump_kept | with_reducible apply Kept.foldl | with_reducible apply Kept.foldl₁ | (split <;> (first | (rename_i e; with_reducible obtain ⟨rfl, e⟩ := Prod.mk.inj e) | with_reducible apply FstKept.pair)) | split | with_reducible refine Kept.upd (s := State.mk _ _ _ _ _ _ _ _ _ _ _ _ _ _ _ _ _ _ _ _ _ _) ?_ rfl rfl rfl rfl rfl rfl rfl rfl)

theorem State.lineLeaves_kept {p : List Instr} {x0 x1} (h0 : Kept p x0) : Kept p (State.lineLeaves x0 x1) := by
  delta State.lineLeaves
  repeat' (first | with_reducible assumption | with_reducible exact Kept.upd ‹_› rfl rfl rfl rfl rfl rfl rfl rfl | (intro x; refine Kept.cut (p := p) (x := x) ?_ (fun hx => ?_); focus unfold x; rotate_left; clear_value x) | (intro x; refine Kept.isFun (f := x) ?_; (try unfold x); clear x) | (intro x; first | refine Kept.sub (α := Ods) x ?_ | refine Kept.sub (α := Faults) x ?_ | refine Kept.sub (α := Shelves) x ?_ | refine Kept.sub (α := Epm) x ?_ | refine Kept.sub (α := Pcs) x ?_; (try unfold x); clear x) | (intro x; clear_value x) | intro _ | with_reducible apply Kept.id | lift_lets -underBinder | with_reducible apply State.orderCount_kept | with_reducible apply Kept.foldl | with_reducible apply Kept.foldl₁ | (split <;> (first | (rename_i e; with_reducible obtain ⟨rfl, e⟩ := Prod.mk.inj e) | with_reducible apply FstKept.pair)) | split | with_reducible refine Kept.upd (s := State.mk _ _ _ _ _ _ _ _ _ _ _ _ _ _ _ _ _ _ _ _ _ _) ?_ rfl rfl rfl rfl rfl rfl rfl rfl)

theorem State.dcaDrop_kept {p : List Instr} {x0 x1 x2} (h0 : Kept p x0) : Kept p (State.dcaDrop x0 x1 x2) := by
  delta State.dcaDrop
  repeat' (first | with_reducible assumption | with_reducible exact Kept.upd ‹_› rfl rfl rfl rfl rfl rfl rfl rfl | (intro x; refine Kept.cut (p := p) (x := x) ?_ (fun hx => ?_); focus unfold x; rotate_left; clear_value x) | (intro x; refine Kept.isFun (f := x) ?_; (try unfold x); clear x) | (intro x; first | refine Kept.sub (α := Ods) x ?_ | refine Kept.sub (α := Faults) x ?_ | refine Kept.sub (α := Shelves) x ?_ | refine Kept.sub (α := Epm) x ?_ | refine Kept.sub (α := Pcs) x ?_; (try unfold x); clear x) | (intro x; clear_value x) | intro _ | with_reducible apply Kept.id | lift_lets -underBinder | with_reducible apply State.setSlice_kept | with_reducible apply State.lineLeaves_kept | with_reducible apply Kept.foldl | with_reducible apply Kept.foldl₁ | (split <;> (first | (rename_i e; with_reducible obtain ⟨rfl, e⟩ := Prod.mk.inj e) | with_reducible apply FstKept.pair)) | split | with_reducible refine Kept.upd (s := State.mk _ _ _ _ _ _ _ _ _ _ _ _ _ _ _ _ _ _ _ _ _ _) ?_ rfl rfl rfl rfl rfl rfl rfl rfl)

theorem State.poisonLine_kept {p : List Instr} {x0 x1} (h0 : Kept p x0) : Kept p (State.poisonLine x0 x1) := by
  delta State.poisonLine
  repeat' (first | with_reducible assumption | with_reducible exact Kept.upd ‹_› rfl rfl rfl rfl rfl rfl rfl rfl | (intro x; refine Kept.cut (p := p) (x := x) ?_ (fun hx => ?_); focus unfold x; rotate_left; clear_value x) | (intro x; refine Kept.isFun (f := x) ?_; (try unfold x); clear x) | (intro x; first | refine Kept.sub (α := Ods) x ?_ | refine Kept.sub (α := Faults) x ?_ | refine Kept.sub (α := Shelves) x ?_ | refine Kept.sub (α := Epm) x ?_ | refine Kept.sub (α := Pcs) x ?_; (try unfold x); clear x) | (intro x; clear_value x) | intro _ | with_reducible apply Kept.id | lift_lets -underBinder | with_reducible apply State.dcaDrop_kept | with_reducible apply State.backWrite_kept | with_reducible apply Kept.foldl | with_reducible apply Kept.foldl₁ | (split <;> (first | (rename_i e; with_reducible obtain ⟨rfl, e⟩ := Prod.mk.inj e) | with_reducible apply FstKept.pair)) | split | with_reducible refine Kept.upd (s := State.mk _ _ _ _ _ _ _ _ _ _ _ _ _ _ _ _ _ _ _ _ _ _) ?_ rfl rfl rfl rfl rfl rfl rfl rfl)

theorem State.sendBi_kept {p : List Instr} {x0 x1 x2 x3} (h0 : Kept p x0) : Kept p (State.sendBi x0 x1 x2 x3) := by
  delta State.sendBi
  repeat' (first | with_reducible assumption | with_reducible exact Kept.upd ‹_› rfl rfl rfl rfl rfl rfl rfl rfl | (intro x; refine Kept.cut (p := p) (x := x) ?_ (fun hx => ?_); focus unfold x; rotate_left; clear_value x) | (intro x; refine Kept.isFun (f := x) ?_; (try unfold x); clear x) | (intro x; first | refine Kept.sub (α := Ods) x ?_ | refine Kept.sub (α := Faults) x ?_ | refine Kept.sub (α := Shelves) x ?_ | refine Kept.sub (α := Epm) x ?_ | refine Kept.sub (α := Pcs) x ?_; (try unfold x); clear x) | (intro x; clear_value x) | intro _ | with_reducible apply Kept.id | lift_lets -underBinder | with_reducible apply State.setSnf_kept | with_reducible apply State.emit_kept | with_reducible apply State.snfCount_kept | with_reducible apply Kept.foldl | with_reducible apply Kept.foldl₁ | (split <;> (first | (rename_i e; with_reducible obtain ⟨rfl, e⟩ := Prod.mk.inj e) | with_reducible apply FstKept.pair)) | split | with_reducible refine Kept.upd (s := State.mk _ _ _ _ _ _ _ _ _ _ _ _ _ _ _ _ _ _ _ _ _ _) ?_ rfl rfl rfl rfl rfl rfl rfl rfl)

theorem State.prepare_kept {p : List Instr} {x0 x1 x2 x3 x4} (h0 : Kept p x0) : FstKept p (State.prepare x0 x1 x2 x3 x4) := by
  delta State.prepare
  repeat' (first | with_reducible assumption | with_reducible exact Kept.upd ‹_› rfl rfl rfl rfl rfl rfl rfl rfl | (intro x; refine Kept.cut (p := p) (x := x) ?_ (fun hx => ?_); focus unfold x; rotate_left; clear_value x) | (intro x; refine Kept.isFun (f := x) ?_; (try unfold x); clear x) | (intro x; first | refine Kept.sub (α := Ods) x ?_ | refine Kept.sub (α := Faults) x ?_ | refine Kept.sub (α := Shelves) x ?_ | refine Kept.sub (α := Epm) x ?_ | refine Kept.sub (α := Pcs) x ?_; (try unfold x); clear x) | (intro x; clear_value x) | intro _ | with_reducible apply Kept.id | lift_lets -underBinder | with_reducible apply State.setSnf_kept | with_reducible apply State.snfCount_kept | with_reducible apply State.poisonLine_kept | with_reducible apply State.sendBi_kept | with_reducible apply Kept.foldl | with_reducible apply Kept.foldl₁ | (split <;> (first | (rename_i e; with_reducible obtain ⟨rfl, e⟩ := Prod.mk.inj e) | with_reducible apply FstKept.pair)) | split | with_reducible refine Kept.upd (s := State.mk _ _ _ _ _ _ _ _ _ _ _ _ _ _ _ _ _ _ _ _ _ _) ?_ rfl rfl rfl rfl rfl rfl rfl rfl | with_reducible apply FstKept.pair | with_reducible apply SndKept.pair)
theorem State.prepare_kept_eq {p : List Instr} {x0 x1 x2 x3 x4} {t r1} (e : State.prepare x0 x1 x2 x3 x4 = (t, r1)) (h0 : Kept p x0) : Kept p t := by
  have k := (@State.prepare_kept p x0 x1 x2 x3 x4 h0).out
  rw [e] at k; exact k

theorem State.respond_kept {p : List Instr} {x0 x1 x2} (h0 : Kept p x0) : Kept p (State.respond x0 x1 x2) := by
  delta State.respond
  repeat' (first | with_reducible assumption | with_reducible refine fun (_ : Kept p _) => ?_ | (split <;> (first |(first | with_reducible apply State.fresh_kept) | (rename_i e; with_reducible refine Kept.cut (p := p) (State.fresh_kept_eq e ?_) (fun hx => ?_)) | (rename_i e _; with_reducible refine Kept.cut (p := p) (State.fresh_kept_eq e ?_) (fun hx => ?_)) | (rename_i e _ _; with_reducible refine Kept.cut (p := p) (State.fresh_kept_eq e ?_) (fun hx => ?_)))) | with_reducible exact Kept.upd ‹_› rfl rfl rfl rfl rfl rfl rfl rfl | (intro x; refine Kept.cut (p := p) (x := x) ?_ (fun hx => ?_); focus unfold x; rotate_left; clear_value x) | (intro x; refine Kept.isFun (f := x) ?_; (try unfold x); clear x) | (intro x; first | refine Kept.sub (α := Ods) x ?_ | refine Kept.sub (α := Faults) x ?_ | refine Kept.sub (α := Shelves) x ?_ | refine Kept.sub (α := Epm) x ?_ | refine Kept.sub (α := Pcs) x ?_; (try unfold x); clear x) | (intro x; clear_value x) | intro _ | with_reducible apply Kept.id | lift_lets -underBinder | with_reducible apply State.fresh_kept | with_reducible refine (State.fresh_kept ?_).out | with_reducible apply Kept.foldl | with_reducible apply Kept.foldl₁ | (split <;> (first | (rename_i e; with_reducible obtain ⟨rfl, e⟩ := Prod.mk.inj e) | with_reducible apply FstKept.pair)) | split | with_reducible refine Kept.upd (s := State.mk _ _ _ _ _ _ _ _ _ _ _ _ _ _ _ _ _ _ _ _ _ _) ?_ rfl rfl rfl rfl rfl rfl rfl rfl)

theorem State.perform_kept {p : List Instr} {x0 x1 x2 x3} (h0 : Kept p x0) : Kept p (State.perform x0 x1 x2 x3) := by
  delta State.perform
  repeat' (first | with_reducible assumption | with_reducible exact Kept.upd ‹_› rfl rfl rfl rfl rfl rfl rfl rfl | (intro x; refine Kept.cut (p := p) (x := x) ?_ (fun hx => ?_); focus unfold x; rotate_left; clear_value x) | (intro x; refine Kept.isFun (f := x) ?_; (try unfold x); clear x) | (intro x; first | refine Kept.sub (α := Ods) x ?_ | refine Kept.sub (α := Faults) x ?_ | refine Kept.sub (α := Shelves) x ?_ | refine Kept.sub (α := Epm) x ?_ | refine Kept.sub (α := Pcs) x ?_; (try unfold x); clear x) | (intro x; clear_value x) | intro _ | with_reducible apply Kept.id | lift_lets -underBinder | with_reducible apply State.respond_kept | with_reducible apply Kept.foldl | with_reducible apply Kept.foldl₁ | (split <;> (first | (rename_i e; with_reducible obtain ⟨rfl, e⟩ := Prod.mk.inj e) | with_reducible apply FstKept.pair)) | split | with_reducible refine Kept.upd (s := State.mk _ _ _ _ _ _ _ _ _ _ _ _ _ _ _ _ _ _ _ _ _ _) ?_ rfl rfl rfl rfl rfl rfl rfl rfl)

theorem State.dropResv_kept {p : List Instr} {x0 x1} (h0 : Kept p x0) : Kept p (State.dropResv x0 x1) := by
  delta State.dropResv
  repeat' (first | with_reducible assumption | with_reducible exact Kept.upd ‹_› rfl rfl rfl rfl rfl rfl rfl rfl | (intro x; refine Kept.cut (p := p) (x := x) ?_ (fun hx => ?_); focus unfold x; rotate_left; clear_value x) | (intro x; refine Kept.isFun (f := x) ?_; (try unfold x); clear x) | (intro x; first | refine Kept.sub (α := Ods) x ?_ | refine Kept.sub (α := Faults) x ?_ | refine Kept.sub (α := Shelves) x ?_ | refine Kept.sub (α := Epm) x ?_ | refine Kept.sub (α := Pcs) x ?_; (try unfold x); clear x) | (intro x; clear_value x) | intro _ | with_reducible apply Kept.id | lift_lets -underBinder | with_reducible apply Kept.foldl | with_reducible apply Kept.foldl₁ | (split <;> (first | (rename_i e; with_reducible obtain ⟨rfl, e⟩ := Prod.mk.inj e) | with_reducible apply FstKept.pair)) | split | with_reducible refine Kept.upd (s := State.mk _ _ _ _ _ _ _ _ _ _ _ _ _ _ _ _ _ _ _ _ _ _) ?_ rfl rfl rfl rfl rfl rfl rfl rfl)

theorem State.setResv_kept {p : List Instr} {x0 x1 x2 x3} (h0 : Kept p x0) : Kept p (State.setResv x0 x1 x2 x3) := by
  delta State.setResv
  repeat' (first | with_reducible assumption | with_reducible exact Kept.upd ‹_› rfl rfl rfl rfl rfl rfl rfl rfl | (intro x; refine Kept.cut (p := p) (x := x) ?_ (fun hx => ?_); focus unfold x; rotate_left; clear_value x) | (intro x; refine Kept.isFun (f := x) ?_; (try unfold x); clear x) | (intro x; first | refine Kept.sub (α := Ods) x ?_ | refine Kept.sub (α := Faults) x ?_ | refine Kept.sub (α := Shelves) x ?_ | refine Kept.sub (α := Epm) x ?_ | refine Kept.sub (α := Pcs) x ?_; (try unfold x); clear x) | (intro x; clear_value x) | intro _ | with_reducible apply Kept.id | lift_lets -underBinder | with_reducible apply State.dropResv_kept | with_reducible apply State.orderCount_kept | with_reducible apply Kept.foldl | with_reducible apply Kept.foldl₁ | (split <;> (first | (rename_i e; with_reducible obtain ⟨rfl, e⟩ := Prod.mk.inj e) | with_reducible apply FstKept.pair)) | split | with_reducible refine Kept.upd (s := State.mk _ _ _ _ _ _ _ _ _ _ _ _ _ _ _ _ _ _ _ _ _ _) ?_ rfl rfl rfl rfl rfl rfl rfl rfl)

theorem State.killResv_kept {p : List Instr} {x0 x1 x2 x3} (h0 : Kept p x0) : Kept p (State.killResv x0 x1 x2 x3) := by
  delta State.killResv
  repeat' (first | with_reducible assumption | with_reducible exact Kept.upd ‹_› rfl rfl rfl rfl rfl rfl rfl rfl | (intro x; refine Kept.cut (p := p) (x := x) ?_ (fun hx => ?_); focus unfold x; rotate_left; clear_value x) | (intro x; refine Kept.isFun (f := x) ?_; (try unfold x); clear x) | (intro x; first | refine Kept.sub (α := Ods) x ?_ | refine Kept.sub (α := Faults) x ?_ | refine Kept.sub (α := Shelves) x ?_ | refine Kept.sub (α := Epm) x ?_ | refine Kept.sub (α := Pcs) x ?_; (try unfold x); clear x) | (intro x; clear_value x) | intro _ | with_reducible apply Kept.id | lift_lets -underBinder | with_reducible apply State.orderCount_kept | with_reducible apply Kept.foldl | with_reducible apply Kept.foldl₁ | (split <;> (first | (rename_i e; with_reducible obtain ⟨rfl, e⟩ := Prod.mk.inj e) | with_reducible apply FstKept.pair)) | split | with_reducible refine Kept.upd (s := State.mk _ _ _ _ _ _ _ _ _ _ _ _ _ _ _ _ _ _ _ _ _ _) ?_ rfl rfl rfl rfl rfl rfl rfl rfl)

theorem State.applyTo_kept {p : List Instr} {x0 x1 x2 x3} (h0 : Kept p x0) : FstKept p (State.applyTo x0 x1 x2 x3) := by
  delta State.applyTo
  repeat' (first | with_reducible assumption | with_reducible exact Kept.upd ‹_› rfl rfl rfl rfl rfl rfl rfl rfl | (intro x; refine Kept.cut (p := p) (x := x) ?_ (fun hx => ?_); focus unfold x; rotate_left; clear_value x) | (intro x; refine Kept.isFun (f := x) ?_; (try unfold x); clear x) | (intro x; first | refine Kept.sub (α := Ods) x ?_ | refine Kept.sub (α := Faults) x ?_ | refine Kept.sub (α := Shelves) x ?_ | refine Kept.sub (α := Epm) x ?_ | refine Kept.sub (α := Pcs) x ?_; (try unfold x); clear x) | (intro x; clear_value x) | intro _ | with_reducible apply Kept.id | lift_lets -underBinder | with_reducible apply State.perform_kept | with_reducible apply State.setResv_kept | with_reducible apply State.killResv_kept | with_reducible apply Kept.foldl | with_reducible apply Kept.foldl₁ | (split <;> (first | (rename_i e; with_reducible obtain ⟨rfl, e⟩ := Prod.mk.inj e) | with_reducible apply FstKept.pair)) | split | with_reducible refine Kept.upd (s := State.mk _ _ _ _ _ _ _ _ _ _ _ _ _ _ _ _ _ _ _ _ _ _) ?_ rfl rfl rfl rfl rfl rfl rfl rfl | with_reducible apply FstKept.pair | with_reducible apply SndKept.pair)
theorem State.applyTo_kept_eq {p : List Instr} {x0 x1 x2 x3} {t r1 r2 r3} (e : State.applyTo x0 x1 x2 x3 = (t, r1, r2, r3)) (h0 : Kept p x0) : Kept p t := by
  have k := (@State.applyTo_kept p x0 x1 x2 x3 h0).out
  rw [e] at k; exact k

theorem State.handOut_kept {p : List Instr} {x0 : State} {x1 : Bytes} {x2 : Bool} {x3 : List MemReq} (h0 : Kept p x0) :
    FstKept p (x0.handOut x1 x2 x3) := by
  induction x3 generalizing x0 x1 x2 with
  | nil => exact ⟨h0⟩
  | cons r rest ih => exact ⟨(ih (State.applyTo_kept h0).out).out⟩
theorem State.handOut_kept_eq {p : List Instr} {x0 x1 x2 x3} {t r1 r2 r3} (e : State.handOut x0 x1 x2 x3 = (t, r1, r2, r3))
    (h0 : Kept p x0) : Kept p t := by
  have k := (@State.handOut_kept p x0 x1 x2 x3 h0).out
  rw [e] at k; exact k

theorem State.ownerRefused_kept {p : List Instr} {x0 x1} (h0 : Kept p x0) : Kept p (State.ownerRefused x0 x1) := by
  delta State.ownerRefused
  repeat' (first | with_reducible assumption | with_reducible exact Kept.upd ‹_› rfl rfl rfl rfl rfl rfl rfl rfl | (intro x; refine Kept.cut (p := p) (x := x) ?_ (fun hx => ?_); focus unfold x; rotate_left; clear_value x) | (intro x; refine Kept.isFun (f := x) ?_; (try unfold x); clear x) | (intro x; first | refine Kept.sub (α := Ods) x ?_ | refine Kept.sub (α := Faults) x ?_ | refine Kept.sub (α := Shelves) x ?_ | refine Kept.sub (α := Epm) x ?_ | refine Kept.sub (α := Pcs) x ?_; (try unfold x); clear x) | (intro x; clear_value x) | intro _ | with_reducible apply Kept.id | lift_lets -underBinder | with_reducible apply State.fire_kept | with_reducible apply State.bump_kept | with_reducible apply Kept.foldl | with_reducible apply Kept.foldl₁ | (split <;> (first | (rename_i e; with_reducible obtain ⟨rfl, e⟩ := Prod.mk.inj e) | with_reducible apply FstKept.pair)) | split | with_reducible refine Kept.upd (s := State.mk _ _ _ _ _ _ _ _ _ _ _ _ _ _ _ _ _ _ _ _ _ _) ?_ rfl rfl rfl rfl rfl rfl rfl rfl)

theorem State.fillHalf_kept {p : List Instr} {x0 x1 x2} (h0 : Kept p x0) : Kept p (State.fillHalf x0 x1 x2) := by
  delta State.fillHalf
  repeat' (first | with_reducible assumption | with_reducible refine fun (_ : Kept p _) => ?_ | (split <;> (first |(first | with_reducible apply State.applyTo_kept) | (rename_i e; with_reducible refine Kept.cut (p := p) (State.applyTo_kept_eq e ?_) (fun hx => ?_)) | (rename_i e _; with_reducible refine Kept.cut (p := p) (State.applyTo_kept_eq e ?_) (fun hx => ?_)) | (rename_i e _ _; with_reducible refine Kept.cut (p := p) (State.applyTo_kept_eq e ?_) (fun hx => ?_)))) | with_reducible exact Kept.upd ‹_› rfl rfl rfl rfl rfl rfl rfl rfl | (intro x; refine Kept.cut (p := p) (x := x) ?_ (fun hx => ?_); focus unfold x; rotate_left; clear_value x) | (intro x; refine Kept.isFun (f := x) ?_; (try unfold x); clear x) | (intro x; first | refine Kept.sub (α := Ods) x ?_ | refine Kept.sub (α := Faults) x ?_ | refine Kept.sub (α := Shelves) x ?_ | refine Kept.sub (α := Epm) x ?_ | refine Kept.sub (α := Pcs) x ?_; (try unfold x); clear x) | (intro x; clear_value x) | intro _ | with_reducible apply Kept.id | lift_lets -underBinder | with_reducible apply State.sliceCount_kept | with_reducible apply State.applyTo_kept | with_reducible refine (State.applyTo_kept ?_).out | with_reducible apply State.setSlice_kept | with_reducible apply Kept.foldl | with_reducible apply Kept.foldl₁ | (split <;> (first | (rename_i e; with_reducible obtain ⟨rfl, e⟩ := Prod.mk.inj e) | with_reducible apply FstKept.pair)) | split | with_reducible refine Kept.upd (s := State.mk _ _ _ _ _ _ _ _ _ _ _ _ _ _ _ _ _ _ _ _ _ _) ?_ rfl rfl rfl rfl rfl rfl rfl rfl)

theorem State.toSlice_kept {p : List Instr} {x0 x1} (h0 : Kept p x0) : Kept p (State.toSlice x0 x1) := by
  delta State.toSlice
  repeat' (first | with_reducible assumption | with_reducible exact Kept.upd ‹_› rfl rfl rfl rfl rfl rfl rfl rfl | (intro x; refine Kept.cut (p := p) (x := x) ?_ (fun hx => ?_); focus unfold x; rotate_left; clear_value x) | (intro x; refine Kept.isFun (f := x) ?_; (try unfold x); clear x) | (intro x; first | refine Kept.sub (α := Ods) x ?_ | refine Kept.sub (α := Faults) x ?_ | refine Kept.sub (α := Shelves) x ?_ | refine Kept.sub (α := Epm) x ?_ | refine Kept.sub (α := Pcs) x ?_; (try unfold x); clear x) | (intro x; clear_value x) | intro _ | with_reducible apply Kept.id | lift_lets -underBinder | with_reducible apply State.setSlice_kept | with_reducible apply Kept.foldl | with_reducible apply Kept.foldl₁ | (split <;> (first | (rename_i e; with_reducible obtain ⟨rfl, e⟩ := Prod.mk.inj e) | with_reducible apply FstKept.pair)) | split | with_reducible refine Kept.upd (s := State.mk _ _ _ _ _ _ _ _ _ _ _ _ _ _ _ _ _ _ _ _ _ _) ?_ rfl rfl rfl rfl rfl rfl rfl rfl)

theorem State.pushOut_kept {p : List Instr} {x0 x1 x2} (h0 : Kept p x0) : Kept p (State.pushOut x0 x1 x2) := by
  delta State.pushOut
  repeat' (first | with_reducible assumption | with_reducible exact Kept.upd ‹_› rfl rfl rfl rfl rfl rfl rfl rfl | (intro x; refine Kept.cut (p := p) (x := x) ?_ (fun hx => ?_); focus unfold x; rotate_left; clear_value x) | (intro x; refine Kept.isFun (f := x) ?_; (try unfold x); clear x) | (intro x; first | refine Kept.sub (α := Ods) x ?_ | refine Kept.sub (α := Faults) x ?_ | refine Kept.sub (α := Shelves) x ?_ | refine Kept.sub (α := Epm) x ?_ | refine Kept.sub (α := Pcs) x ?_; (try unfold x); clear x) | (intro x; clear_value x) | intro _ | with_reducible apply Kept.id | lift_lets -underBinder | with_reducible apply State.setSlice_kept | with_reducible apply State.backWrite_kept | with_reducible apply State.sliceCount_kept | with_reducible apply Kept.foldl | with_reducible apply Kept.foldl₁ | (split <;> (first | (rename_i e; with_reducible obtain ⟨rfl, e⟩ := Prod.mk.inj e) | with_reducible apply FstKept.pair)) | split | with_reducible refine Kept.upd (s := State.mk _ _ _ _ _ _ _ _ _ _ _ _ _ _ _ _ _ _ _ _ _ _) ?_ rfl rfl rfl rfl rfl rfl rfl rfl)

theorem State.accept_kept {p : List Instr} {x0 x1} (h0 : Kept p x0) : Kept p (State.accept x0 x1) := by
  delta State.accept
  repeat' (first | with_reducible assumption | with_reducible exact Kept.upd ‹_› rfl rfl rfl rfl rfl rfl rfl rfl | (intro x; refine Kept.cut (p := p) (x := x) ?_ (fun hx => ?_); focus unfold x; rotate_left; clear_value x) | (intro x; refine Kept.isFun (f := x) ?_; (try unfold x); clear x) | (intro x; first | refine Kept.sub (α := Ods) x ?_ | refine Kept.sub (α := Faults) x ?_ | refine Kept.sub (α := Shelves) x ?_ | refine Kept.sub (α := Epm) x ?_ | refine Kept.sub (α := Pcs) x ?_; (try unfold x); clear x) | (intro x; clear_value x) | intro _ | with_reducible apply Kept.id | lift_lets -underBinder | with_reducible apply State.respond_kept | with_reducible apply Kept.foldl | with_reducible apply Kept.foldl₁ | (split <;> (first | (rename_i e; with_reducible obtain ⟨rfl, e⟩ := Prod.mk.inj e) | with_reducible apply FstKept.pair)) | split | with_reducible refine Kept.upd (s := State.mk _ _ _ _ _ _ _ _ _ _ _ _ _ _ _ _ _ _ _ _ _ _) ?_ rfl rfl rfl rfl rfl rfl rfl rfl)

theorem State.sendWrCur_kept {p : List Instr} {x0 x1} (h0 : Kept p x0) : Kept p (State.sendWrCur x0 x1) := by
  have e := Eq.refl (@State.sendWrCur); conv at e => rhs; delta State.sendWrCur
  refine of_body (a := @State.sendWrCur) (P := fun f => Kept p (f x0 x1)) (b := ?b) ?e ?h; case e => exact e
  clear e
  repeat' (first | with_reducible assumption | with_reducible refine fun (_ : Kept p _) => ?_ | (split <;> (first |(first | with_reducible apply State.fresh_kept) | (rename_i e; with_reducible refine Kept.cut (p := p) (State.fresh_kept_eq e ?_) (fun hx => ?_)) | (rename_i e _; with_reducible refine Kept.cut (p := p) (State.fresh_kept_eq e ?_) (fun hx => ?_)) | (rename_i e _ _; with_reducible refine Kept.cut (p := p) (State.fresh_kept_eq e ?_) (fun hx => ?_)))) | with_reducible exact Kept.upd ‹_› rfl rfl rfl rfl rfl rfl rfl rfl | (intro x; refine Kept.cut (p := p) (x := x) ?_ (fun hx => ?_); focus unfold x; rotate_left; clear_value x) | (intro x; refine Kept.isFun (f := x) ?_; (try unfold x); clear x) | (intro x; first | refine Kept.sub (α := Ods) x ?_ | refine Kept.sub (α := Faults) x ?_ | refine Kept.sub (α := Shelves) x ?_ | refine Kept.sub (α := Epm) x ?_ | refine Kept.sub (α := Pcs) x ?_; (try unfold x); clear x) | (intro x; clear_value x) | intro _ | with_reducible apply Kept.id | lift_lets -underBinder | with_reducible apply State.fresh_kept | with_reducible refine (State.fresh_kept ?_).out | with_reducible apply State.killResv_kept | with_reducible apply State.emit_kept | with_reducible apply State.accept_kept | with_reducible apply Kept.foldl | with_reducible apply Kept.foldl₁ | (split <;> (first | (rename_i e; with_reducible obtain ⟨rfl, e⟩ := Prod.mk.inj e) | with_reducible apply FstKept.pair)) | split | with_reducible refine Kept.upd (s := State.mk _ _ _ _ _ _ _ _ _ _ _ _ _ _ _ _ _ _ _ _ _ _) ?_ rfl rfl rfl rfl rfl rfl rfl rfl)

theorem State.trained_kept {p : List Instr} {x0 x1 x2 x3} (h0 : Kept p x0) : Kept p (State.trained x0 x1 x2 x3) := by
  delta State.trained
  repeat' (first | with_reducible assumption | with_reducible exact Kept.upd ‹_› rfl rfl rfl rfl rfl rfl rfl rfl | (intro x; refine Kept.cut (p := p) (x := x) ?_ (fun hx => ?_); focus unfold x; rotate_left; clear_value x) | (intro x; refine Kept.isFun (f := x) ?_; (try unfold x); clear x) | (intro x; first | refine Kept.sub (α := Ods) x ?_ | refine Kept.sub (α := Faults) x ?_ | refine Kept.sub (α := Shelves) x ?_ | refine Kept.sub (α := Epm) x ?_ | refine Kept.sub (α := Pcs) x ?_; (try unfold x); clear x) | (intro x; clear_value x) | intro _ | with_reducible apply Kept.id | lift_lets -underBinder | with_reducible apply State.bump_kept | with_reducible apply Kept.foldl | with_reducible apply Kept.foldl₁ | (split <;> (first | (rename_i e; with_reducible obtain ⟨rfl, e⟩ := Prod.mk.inj e) | with_reducible apply FstKept.pair)) | split | with_reducible refine Kept.upd (s := State.mk _ _ _ _ _ _ _ _ _ _ _ _ _ _ _ _ _ _ _ _ _ _) ?_ rfl rfl rfl rfl rfl rfl rfl rfl)

theorem State.startFill_kept {p : List Instr} {x0 x1 x2 x3 x4} (h0 : Kept p x0) : Kept p (State.startFill x0 x1 x2 x3 x4) := by
  delta State.startFill
  repeat' (first | with_reducible assumption | with_reducible refine fun (_ : Kept p _) => ?_ | (split <;> (first |(first | with_reducible apply State.fresh_kept) | (rename_i e; with_reducible refine Kept.cut (p := p) (State.fresh_kept_eq e ?_) (fun hx => ?_)) | (rename_i e _; with_reducible refine Kept.cut (p := p) (State.fresh_kept_eq e ?_) (fun hx => ?_)) | (rename_i e _ _; with_reducible refine Kept.cut (p := p) (State.fresh_kept_eq e ?_) (fun hx => ?_)))) | with_reducible exact Kept.upd ‹_› rfl rfl rfl rfl rfl rfl rfl rfl | (intro x; refine Kept.cut (p := p) (x := x) ?_ (fun hx => ?_); focus unfold x; rotate_left; clear_value x) | (intro x; refine Kept.isFun (f := x) ?_; (try unfold x); clear x) | (intro x; first | refine Kept.sub (α := Ods) x ?_ | refine Kept.sub (α := Faults) x ?_ | refine Kept.sub (α := Shelves) x ?_ | refine Kept.sub (α := Epm) x ?_ | refine Kept.sub (α := Pcs) x ?_; (try unfold x); clear x) | (intro x; clear_value x) | intro _ | with_reducible apply Kept.id | lift_lets -underBinder | with_reducible apply State.openRead_kept | with_reducible apply State.fresh_kept | with_reducible refine (State.fresh_kept ?_).out | with_reducible apply State.emit_kept | with_reducible apply Kept.foldl | with_reducible apply Kept.foldl₁ | (split <;> (first | (rename_i e; with_reducible obtain ⟨rfl, e⟩ := Prod.mk.inj e) | with_reducible apply FstKept.pair)) | split | with_reducible refine Kept.upd (s := State.mk _ _ _ _ _ _ _ _ _ _ _ _ _ _ _ _ _ _ _ _ _ _) ?_ rfl rfl rfl rfl rfl rfl rfl rfl)

theorem State.openMiss_kept {p : List Instr} {x0 x1 x2 x3 x4 x5} (h0 : Kept p x0) : OptKept p (State.openMiss x0 x1 x2 x3 x4 x5) := by
  delta State.openMiss
  repeat' (first | with_reducible assumption | with_reducible exact Kept.upd ‹_› rfl rfl rfl rfl rfl rfl rfl rfl | (intro x; refine Kept.cut (p := p) (x := x) ?_ (fun hx => ?_); focus unfold x; rotate_left; clear_value x) | (intro x; refine OptKept.cut (p := p) (x := x) ?_ (fun hx => ?_); focus unfold x; rotate_left; clear_value x) | (intro x; refine Kept.isFun (f := x) ?_; (try unfold x); clear x) | (intro x; first | refine Kept.sub (α := Ods) x ?_ | refine Kept.sub (α := Faults) x ?_ | refine Kept.sub (α := Shelves) x ?_ | refine Kept.sub (α := Epm) x ?_ | refine Kept.sub (α := Pcs) x ?_; (try unfold x); clear x) | (intro x; clear_value x) | intro _ | with_reducible apply Kept.id | lift_lets -underBinder | with_reducible apply State.setSlice_kept | with_reducible apply State.startFill_kept | with_reducible apply State.sliceCount_kept | with_reducible apply OptKept.none | with_reducible apply OptKept.some | with_reducible apply OptKept.map | with_reducible apply Kept.foldl | with_reducible apply Kept.foldl₁ | (split <;> (first | (rename_i e; with_reducible obtain ⟨rfl, e⟩ := Prod.mk.inj e) | with_reducible apply FstKept.pair)) | split | with_reducible refine Kept.upd (s := State.mk _ _ _ _ _ _ _ _ _ _ _ _ _ _ _ _ _ _ _ _ _ _) ?_ rfl rfl rfl rfl rfl rfl rfl rfl)
theorem State.openMiss_kept_eq {p : List Instr} {x0 x1 x2 x3 x4 x5} {t} (e : State.openMiss x0 x1 x2 x3 x4 x5 = some t) (h0 : Kept p x0) : Kept p t :=
  (@State.openMiss_kept p x0 x1 x2 x3 x4 x5 h0).out _ e

theorem State.sendFar_kept {p : List Instr} {x0 x1} (h0 : Kept p x0) : OptKept p (State.sendFar x0 x1) := by
  have e := Eq.refl (@State.sendFar); conv at e => rhs; delta State.sendFar
  refine of_body (a := @State.sendFar) (P := fun f => OptKept p (f x0 x1)) (b := ?b) ?e ?h; case e => exact e
  clear e
  repeat' (first | with_reducible assumption | with_reducible exact Kept.upd ‹_› rfl rfl rfl rfl rfl rfl rfl rfl | (intro x; refine Kept.cut (p := p) (x := x) ?_ (fun hx => ?_); focus unfold x; rotate_left; clear_value x) | (intro x; refine OptKept.cut (p := p) (x := x) ?_ (fun hx => ?_); focus unfold x; rotate_left; clear_value x) | (intro x; refine Kept.isFun (f := x) ?_; (try unfold x); clear x) | (intro x; first | refine Kept.sub (α := Ods) x ?_ | refine Kept.sub (α := Faults) x ?_ | refine Kept.sub (α := Shelves) x ?_ | refine Kept.sub (α := Epm) x ?_ | refine Kept.sub (α := Pcs) x ?_; (try unfold x); clear x) | (intro x; clear_value x) | intro _ | with_reducible apply Kept.id | lift_lets -underBinder | with_reducible apply State.openRead_kept | with_reducible apply State.trained_kept | with_reducible apply OptKept.none | with_reducible apply OptKept.some | with_reducible apply OptKept.map | with_reducible apply Kept.foldl | with_reducible apply Kept.foldl₁ | (split <;> (first | (rename_i e; with_reducible obtain ⟨rfl, e⟩ := Prod.mk.inj e) | with_reducible apply FstKept.pair)) | split | with_reducible refine Kept.upd (s := State.mk _ _ _ _ _ _ _ _ _ _ _ _ _ _ _ _ _ _ _ _ _ _) ?_ rfl rfl rfl rfl rfl rfl rfl rfl)
theorem State.sendFar_kept_eq {p : List Instr} {x0 x1} {t} (e : State.sendFar x0 x1 = some t) (h0 : Kept p x0) : Kept p t :=
  (@State.sendFar_kept p x0 x1 h0).out _ e

theorem State.serveHit_kept {p : List Instr} {x0 x1 x2 x3} (h0 : Kept p x0) : OptKept p (State.serveHit x0 x1 x2 x3) := by
  delta State.serveHit
  repeat' (first | with_reducible assumption | with_reducible refine fun (_ : Kept p _) => ?_ | (split <;> (first |(first | with_reducible apply State.applyTo_kept) | (rename_i e; with_reducible refine Kept.cut (p := p) (State.applyTo_kept_eq e ?_) (fun hx => ?_)) | (rename_i e _; with_reducible refine Kept.cut (p := p) (State.applyTo_kept_eq e ?_) (fun hx => ?_)) | (rename_i e _ _; with_reducible refine Kept.cut (p := p) (State.applyTo_kept_eq e ?_) (fun hx => ?_)))) | (rename_i e; ((first | with_reducible refine Kept.cut (p := p) (State.openMiss_kept_eq e ?_) (fun hx => ?_) | with_reducible refine Kept.cut (p := p) (State.sendFar_kept_eq e ?_) (fun hx => ?_))) <;> clear e) | (rename_i e; (with_reducible refine Kept.cut (p := p) ((OptKept.findSome (p := p) (fun _ => ?_)).out _ e) (fun hx => ?_)) <;> clear e) | with_reducible exact Kept.upd ‹_› rfl rfl rfl rfl rfl rfl rfl rfl | (intro x; refine Kept.cut (p := p) (x := x) ?_ (fun hx => ?_); focus unfold x; rotate_left; clear_value x) | (intro x; refine OptKept.cut (p := p) (x := x) ?_ (fun hx => ?_); focus unfold x; rotate_left; clear_value x) | (intro x; refine Kept.isFun (f := x) ?_; (try unfold x); clear x) | (intro x; first | refine Kept.sub (α := Ods) x ?_ | refine Kept.sub (α := Faults) x ?_ | refine Kept.sub (α := Shelves) x ?_ | refine Kept.sub (α := Epm) x ?_ | refine Kept.sub (α := Pcs) x ?_; (try unfold x); clear x) | (intro x; clear_value x) | intro _ | with_reducible apply Kept.id | lift_lets -underBinder | with_reducible apply State.sliceCount_kept | with_reducible apply State.setSlice_kept | with_reducible apply State.perform_kept | with_reducible apply State.sendWrCur_kept | with_reducible apply State.dcaDrop_kept | with_reducible apply State.trained_kept | with_reducible apply State.accept_kept | with_reducible apply State.killResv_kept | with_reducible apply State.openMiss_kept | with_reducible apply State.sendFar_kept | with_reducible apply State.pushOut_kept | with_reducible apply State.applyTo_kept | with_reducible refine (State.applyTo_kept ?_).out | with_reducible apply OptKept.map | with_reducible refine OptKept.getD ?_ ?_ | with_reducible refine OptKept.findSome ?_ | with_reducible apply OptKept.none | with_reducible apply OptKept.some | with_reducible apply OptKept.map | with_reducible apply Kept.foldl | with_reducible apply Kept.foldl₁ | (split <;> (first | (rename_i e; with_reducible obtain ⟨rfl, e⟩ := Prod.mk.inj e) | with_reducible apply FstKept.pair)) | split | with_reducible refine Kept.upd (s := State.mk _ _ _ _ _ _ _ _ _ _ _ _ _ _ _ _ _ _ _ _ _ _) ?_ rfl rfl rfl rfl rfl rfl rfl rfl)
theorem State.serveHit_kept_eq {p : List Instr} {x0 x1 x2 x3} {t} (e : State.serveHit x0 x1 x2 x3 = some t) (h0 : Kept p x0) : Kept p t :=
  (@State.serveHit_kept p x0 x1 x2 x3 h0).out _ e

theorem State.failReq_kept {p : List Instr} {x0 x1 x2} (h0 : Kept p x0) : Kept p (State.failReq x0 x1 x2) := by
  delta State.failReq
  repeat' (first | with_reducible assumption | with_reducible exact Kept.upd ‹_› rfl rfl rfl rfl rfl rfl rfl rfl | (intro x; refine Kept.cut (p := p) (x := x) ?_ (fun hx => ?_); focus unfold x; rotate_left; clear_value x) | (intro x; refine Kept.isFun (f := x) ?_; (try unfold x); clear x) | (intro x; first | refine Kept.sub (α := Ods) x ?_ | refine Kept.sub (α := Faults) x ?_ | refine Kept.sub (α := Shelves) x ?_ | refine Kept.sub (α := Epm) x ?_ | refine Kept.sub (α := Pcs) x ?_; (try unfold x); clear x) | (intro x; clear_value x) | intro _ | with_reducible apply Kept.id | lift_lets -underBinder | with_reducible apply State.respond_kept | with_reducible apply Kept.foldl | with_reducible apply Kept.foldl₁ | (split <;> (first | (rename_i e; with_reducible obtain ⟨rfl, e⟩ := Prod.mk.inj e) | with_reducible apply FstKept.pair)) | split | with_reducible refine Kept.upd (s := State.mk _ _ _ _ _ _ _ _ _ _ _ _ _ _ _ _ _ _ _ _ _ _) ?_ rfl rfl rfl rfl rfl rfl rfl rfl)

theorem State.evictWay_kept {p : List Instr} {x0 x1 x2} (h0 : Kept p x0) : Kept p (State.evictWay x0 x1 x2) := by
  delta State.evictWay
  repeat' (first | with_reducible assumption | with_reducible refine fun (_ : Kept p _) => ?_ | (split <;> (first |(first | with_reducible apply State.fresh_kept) | (rename_i e; with_reducible refine Kept.cut (p := p) (State.fresh_kept_eq e ?_) (fun hx => ?_)) | (rename_i e _; with_reducible refine Kept.cut (p := p) (State.fresh_kept_eq e ?_) (fun hx => ?_)) | (rename_i e _ _; with_reducible refine Kept.cut (p := p) (State.fresh_kept_eq e ?_) (fun hx => ?_)))) | with_reducible exact Kept.upd ‹_› rfl rfl rfl rfl rfl rfl rfl rfl | (intro x; refine Kept.cut (p := p) (x := x) ?_ (fun hx => ?_); focus unfold x; rotate_left; clear_value x) | (intro x; refine Kept.isFun (f := x) ?_; (try unfold x); clear x) | (intro x; first | refine Kept.sub (α := Ods) x ?_ | refine Kept.sub (α := Faults) x ?_ | refine Kept.sub (α := Shelves) x ?_ | refine Kept.sub (α := Epm) x ?_ | refine Kept.sub (α := Pcs) x ?_; (try unfold x); clear x) | (intro x; clear_value x) | intro _ | with_reducible apply Kept.id | lift_lets -underBinder | with_reducible apply State.setSlice_kept | with_reducible apply State.sliceCount_kept | with_reducible apply State.carveOffer_kept | with_reducible apply State.rawWrite_kept | with_reducible apply State.lineLeaves_kept | with_reducible apply State.fresh_kept | with_reducible refine (State.fresh_kept ?_).out | with_reducible apply State.emit_kept | with_reducible apply Kept.foldl | with_reducible apply Kept.foldl₁ | (split <;> (first | (rename_i e; with_reducible obtain ⟨rfl, e⟩ := Prod.mk.inj e) | with_reducible apply FstKept.pair)) | split | with_reducible refine Kept.upd (s := State.mk _ _ _ _ _ _ _ _ _ _ _ _ _ _ _ _ _ _ _ _ _ _) ?_ rfl rfl rfl rfl rfl rfl rfl rfl)

theorem State.takeWay_kept_eq {p : List Instr} {s t : State} {i key k : Nat} (e : s.takeWay i key = some (t, k)) (h : Kept p s) :
    Kept p t := by
  unfold State.takeWay at e
  dsimp only at e
  split at e
  · cases e; exact h
  · split at e
    · cases e; exact h
    · split at e
      · exact nomatch e
      · split at e
        · cases e; exact State.evictWay_kept h
        · exact nomatch e

theorem State.install_kept {p : List Instr} {x0 x1 x2 x3 x4 x5} (h0 : Kept p x0) : OptKept p (State.install x0 x1 x2 x3 x4 x5) := by
  delta State.install
  repeat' (first | with_reducible assumption | (rename_i e; (with_reducible refine Kept.cut (p := p) (State.takeWay_kept_eq e ?_) (fun hx => ?_)) <;> clear e) | (rename_i e; (with_reducible refine Kept.cut (p := p) ((OptKept.findSome (p := p) (fun _ => ?_)).out _ e) (fun hx => ?_)) <;> clear e) | with_reducible exact Kept.upd ‹_› rfl rfl rfl rfl rfl rfl rfl rfl | (intro x; refine Kept.cut (p := p) (x := x) ?_ (fun hx => ?_); focus unfold x; rotate_left; clear_value x) | (intro x; refine OptKept.cut (p := p) (x := x) ?_ (fun hx => ?_); focus unfold x; rotate_left; clear_value x) | (intro x; refine Kept.isFun (f := x) ?_; (try unfold x); clear x) | (intro x; first | refine Kept.sub (α := Ods) x ?_ | refine Kept.sub (α := Faults) x ?_ | refine Kept.sub (α := Shelves) x ?_ | refine Kept.sub (α := Epm) x ?_ | refine Kept.sub (α := Pcs) x ?_; (try unfold x); clear x) | (intro x; clear_value x) | intro _ | with_reducible apply Kept.id | lift_lets -underBinder | with_reducible apply State.setSlice_kept | with_reducible apply OptKept.map | with_reducible refine OptKept.getD ?_ ?_ | with_reducible refine OptKept.findSome ?_ | with_reducible apply OptKept.none | with_reducible apply OptKept.some | with_reducible apply OptKept.map | with_reducible apply Kept.foldl | with_reducible apply Kept.foldl₁ | (split <;> (first | (rename_i e; with_reducible obtain ⟨rfl, e⟩ := Prod.mk.inj e) | with_reducible apply FstKept.pair)) | split | with_reducible refine Kept.upd (s := State.mk _ _ _ _ _ _ _ _ _ _ _ _ _ _ _ _ _ _ _ _ _ _) ?_ rfl rfl rfl rfl rfl rfl rfl rfl)
theorem State.install_kept_eq {p : List Instr} {x0 x1 x2 x3 x4 x5} {t} (e : State.install x0 x1 x2 x3 x4 x5 = some t) (h0 : Kept p x0) : Kept p t :=
  (@State.install_kept p x0 x1 x2 x3 x4 x5 h0).out _ e

theorem State.serveMiss_kept {p : List Instr} {x0 x1 x2} (h0 : Kept p x0) : OptKept p (State.serveMiss x0 x1 x2) := by
  delta State.serveMiss
  repeat' (first | with_reducible assumption | (rename_i e; ((first | with_reducible refine Kept.cut (p := p) (State.openMiss_kept_eq e ?_) (fun hx => ?_) | with_reducible refine Kept.cut (p := p) (State.install_kept_eq e ?_) (fun hx => ?_) | with_reducible refine Kept.cut (p := p) (State.sendFar_kept_eq e ?_) (fun hx => ?_))) <;> clear e) | (rename_i e; (with_reducible refine Kept.cut (p := p) ((OptKept.findSome (p := p) (fun _ => ?_)).out _ e) (fun hx => ?_)) <;> clear e) | with_reducible exact Kept.upd ‹_› rfl rfl rfl rfl rfl rfl rfl rfl | (intro x; refine Kept.cut (p := p) (x := x) ?_ (fun hx => ?_); focus unfold x; rotate_left; clear_value x) | (intro x; refine OptKept.cut (p := p) (x := x) ?_ (fun hx => ?_); focus unfold x; rotate_left; clear_value x) | (intro x; refine Kept.isFun (f := x) ?_; (try unfold x); clear x) | (intro x; first | refine Kept.sub (α := Ods) x ?_ | refine Kept.sub (α := Faults) x ?_ | refine Kept.sub (α := Shelves) x ?_ | refine Kept.sub (α := Epm) x ?_ | refine Kept.sub (α := Pcs) x ?_; (try unfold x); clear x) | (intro x; clear_value x) | intro _ | with_reducible apply Kept.id | lift_lets -underBinder | with_reducible apply State.failReq_kept | with_reducible apply State.openMiss_kept | with_reducible apply State.accept_kept | with_reducible apply State.killResv_kept | with_reducible apply State.sendWrCur_kept | with_reducible apply State.trained_kept | with_reducible apply State.perform_kept | with_reducible apply State.sliceCount_kept | with_reducible apply State.install_kept | with_reducible apply State.backWrite_kept | with_reducible apply State.openRead_kept | with_reducible apply State.sendFar_kept | with_reducible apply OptKept.map | with_reducible refine OptKept.getD ?_ ?_ | with_reducible refine OptKept.findSome ?_ | with_reducible apply OptKept.none | with_reducible apply OptKept.some | with_reducible apply OptKept.map | with_reducible apply Kept.foldl | with_reducible apply Kept.foldl₁ | (split <;> (first | (rename_i e; with_reducible obtain ⟨rfl, e⟩ := Prod.mk.inj e) | with_reducible apply FstKept.pair)) | split | with_reducible refine Kept.upd (s := State.mk _ _ _ _ _ _ _ _ _ _ _ _ _ _ _ _ _ _ _ _ _ _) ?_ rfl rfl rfl rfl rfl rfl rfl rfl)
theorem State.serveMiss_kept_eq {p : List Instr} {x0 x1 x2} {t} (e : State.serveMiss x0 x1 x2 = some t) (h0 : Kept p x0) : Kept p t :=
  (@State.serveMiss_kept p x0 x1 x2 h0).out _ e

theorem State.serveLine_kept {p : List Instr} {x0 x1 x2} (h0 : Kept p x0) : OptKept p (State.serveLine x0 x1 x2) := by
  delta State.serveLine
  repeat' (first | with_reducible assumption | (rename_i e; ((first | with_reducible refine Kept.cut (p := p) (State.serveHit_kept_eq e ?_) (fun hx => ?_) | with_reducible refine Kept.cut (p := p) (State.serveMiss_kept_eq e ?_) (fun hx => ?_))) <;> clear e) | (rename_i e; (with_reducible refine Kept.cut (p := p) ((OptKept.findSome (p := p) (fun _ => ?_)).out _ e) (fun hx => ?_)) <;> clear e) | with_reducible exact Kept.upd ‹_› rfl rfl rfl rfl rfl rfl rfl rfl | (intro x; refine Kept.cut (p := p) (x := x) ?_ (fun hx => ?_); focus unfold x; rotate_left; clear_value x) | (intro x; refine OptKept.cut (p := p) (x := x) ?_ (fun hx => ?_); focus unfold x; rotate_left; clear_value x) | (intro x; refine Kept.isFun (f := x) ?_; (try unfold x); clear x) | (intro x; first | refine Kept.sub (α := Ods) x ?_ | refine Kept.sub (α := Faults) x ?_ | refine Kept.sub (α := Shelves) x ?_ | refine Kept.sub (α := Epm) x ?_ | refine Kept.sub (α := Pcs) x ?_; (try unfold x); clear x) | (intro x; clear_value x) | intro _ | with_reducible apply Kept.id | lift_lets -underBinder | with_reducible apply State.sliceCount_kept | with_reducible apply State.setSlice_kept | with_reducible apply State.serveHit_kept | with_reducible apply State.perform_kept | with_reducible apply State.serveMiss_kept | with_reducible apply OptKept.map | with_reducible refine OptKept.getD ?_ ?_ | with_reducible refine OptKept.findSome ?_ | with_reducible apply OptKept.none | with_reducible apply OptKept.some | with_reducible apply OptKept.map | with_reducible apply Kept.foldl | with_reducible apply Kept.foldl₁ | (split <;> (first | (rename_i e; with_reducible obtain ⟨rfl, e⟩ := Prod.mk.inj e) | with_reducible apply FstKept.pair)) | split | with_reducible refine Kept.upd (s := State.mk _ _ _ _ _ _ _ _ _ _ _ _ _ _ _ _ _ _ _ _ _ _) ?_ rfl rfl rfl rfl rfl rfl rfl rfl)
theorem State.serveLine_kept_eq {p : List Instr} {x0 x1 x2} {t} (e : State.serveLine x0 x1 x2 = some t) (h0 : Kept p x0) : Kept p t :=
  (@State.serveLine_kept p x0 x1 x2 h0).out _ e

theorem State.fillWhole_kept {p : List Instr} {x0 x1 x2} (h0 : Kept p x0) : Kept p (State.fillWhole x0 x1 x2) := by
  delta State.fillWhole
  repeat' (first | with_reducible assumption | with_reducible refine fun (_ : Kept p _) => ?_ | (split <;> (first |(first | with_reducible apply State.handOut_kept | with_reducible apply State.fresh_kept) | (rename_i e; (first | with_reducible refine Kept.cut (p := p) (State.handOut_kept_eq e ?_) (fun hx => ?_) | with_reducible refine Kept.cut (p := p) (State.fresh_kept_eq e ?_) (fun hx => ?_))) | (rename_i e _; (first | with_reducible refine Kept.cut (p := p) (State.handOut_kept_eq e ?_) (fun hx => ?_) | with_reducible refine Kept.cut (p := p) (State.fresh_kept_eq e ?_) (fun hx => ?_))) | (rename_i e _ _; (first | with_reducible refine Kept.cut (p := p) (State.handOut_kept_eq e ?_) (fun hx => ?_) | with_reducible refine Kept.cut (p := p) (State.fresh_kept_eq e ?_) (fun hx => ?_))))) | (rename_i e; (with_reducible refine Kept.cut (p := p) (State.install_kept_eq e ?_) (fun hx => ?_)) <;> clear e) | (rename_i e; (with_reducible refine Kept.cut (p := p) ((OptKept.findSome (p := p) (fun _ => ?_)).out _ e) (fun hx => ?_)) <;> clear e) | with_reducible exact Kept.upd ‹_› rfl rfl rfl rfl rfl rfl rfl rfl | (intro x; refine Kept.cut (p := p) (x := x) ?_ (fun hx => ?_); focus unfold x; rotate_left; clear_value x) | (intro x; refine OptKept.cut (p := p) (x := x) ?_ (fun hx => ?_); focus unfold x; rotate_left; clear_value x) | (intro x; refine Kept.isFun (f := x) ?_; (try unfold x); clear x) | (intro x; first | refine Kept.sub (α := Ods) x ?_ | refine Kept.sub (α := Faults) x ?_ | refine Kept.sub (α := Shelves) x ?_ | refine Kept.sub (α := Epm) x ?_ | refine Kept.sub (α := Pcs) x ?_; (try unfold x); clear x) | (intro x; clear_value x) | intro _ | with_reducible apply Kept.id | lift_lets -underBinder | with_reducible apply State.setSlice_kept | with_reducible apply State.failReq_kept | with_reducible apply State.handOut_kept | with_reducible refine (State.handOut_kept ?_).out | with_reducible apply State.lineLeaves_kept | with_reducible apply State.install_kept | with_reducible apply State.fresh_kept | with_reducible refine (State.fresh_kept ?_).out | with_reducible apply State.emit_kept | with_reducible apply State.backWrite_kept | with_reducible apply OptKept.map | with_reducible refine OptKept.getD ?_ ?_ | with_reducible refine OptKept.findSome ?_ | with_reducible apply Kept.foldl | with_reducible apply Kept.foldl₁ | (split <;> (first | (rename_i e; with_reducible obtain ⟨rfl, e⟩ := Prod.mk.inj e) | with_reducible apply FstKept.pair)) | split | with_reducible refine Kept.upd (s := State.mk _ _ _ _ _ _ _ _ _ _ _ _ _ _ _ _ _ _ _ _ _ _) ?_ rfl rfl rfl rfl rfl rfl rfl rfl)

theorem State.fillReady_kept {p : List Instr} {x0 x1 x2 x3 x4} (h0 : Kept p x0) : Kept p (State.fillReady x0 x1 x2 x3 x4) := by
  delta State.fillReady
  repeat' (first | with_reducible assumption | with_reducible exact Kept.upd ‹_› rfl rfl rfl rfl rfl rfl rfl rfl | (intro x; refine Kept.cut (p := p) (x := x) ?_ (fun hx => ?_); focus unfold x; rotate_left; clear_value x) | (intro x; refine Kept.isFun (f := x) ?_; (try unfold x); clear x) | (intro x; first | refine Kept.sub (α := Ods) x ?_ | refine Kept.sub (α := Faults) x ?_ | refine Kept.sub (α := Shelves) x ?_ | refine Kept.sub (α := Epm) x ?_ | refine Kept.sub (α := Pcs) x ?_; (try unfold x); clear x) | (intro x; clear_value x) | intro _ | with_reducible apply Kept.id | lift_lets -underBinder | with_reducible apply State.setSlice_kept | with_reducible apply Kept.foldl | with_reducible apply Kept.foldl₁ | (split <;> (first | (rename_i e; with_reducible obtain ⟨rfl, e⟩ := Prod.mk.inj e) | with_reducible apply FstKept.pair)) | split | with_reducible refine Kept.upd (s := State.mk _ _ _ _ _ _ _ _ _ _ _ _ _ _ _ _ _ _ _ _ _ _) ?_ rfl rfl rfl rfl rfl rfl rfl rfl)

theorem State.serve_kept {p : List Instr} {x0 x1 x2} (h0 : Kept p x0) : ServedKept p (State.serve x0 x1 x2) := by
  delta State.serve
  repeat' (first | with_reducible assumption | with_reducible refine fun (_ : Kept p _) => ?_ | (split <;> (first |(first | with_reducible apply State.prepare_kept) | (rename_i e; with_reducible refine Kept.cut (p := p) (State.prepare_kept_eq e ?_) (fun hx => ?_)) | (rename_i e _; with_reducible refine Kept.cut (p := p) (State.prepare_kept_eq e ?_) (fun hx => ?_)) | (rename_i e _ _; with_reducible refine Kept.cut (p := p) (State.prepare_kept_eq e ?_) (fun hx => ?_)))) | (rename_i e; (with_reducible refine Kept.cut (p := p) (State.serveLine_kept_eq e ?_) (fun hx => ?_)) <;> clear e) | (rename_i e; (with_reducible refine Kept.cut (p := p) ((OptKept.findSome (p := p) (fun _ => ?_)).out _ e) (fun hx => ?_)) <;> clear e) | with_reducible exact Kept.upd ‹_› rfl rfl rfl rfl rfl rfl rfl rfl | (intro x; refine Kept.cut (p := p) (x := x) ?_ (fun hx => ?_); focus unfold x; rotate_left; clear_value x) | (intro x; refine OptKept.cut (p := p) (x := x) ?_ (fun hx => ?_); focus unfold x; rotate_left; clear_value x) | (intro x; refine Kept.isFun (f := x) ?_; (try unfold x); clear x) | (intro x; first | refine Kept.sub (α := Ods) x ?_ | refine Kept.sub (α := Faults) x ?_ | refine Kept.sub (α := Shelves) x ?_ | refine Kept.sub (α := Epm) x ?_ | refine Kept.sub (α := Pcs) x ?_; (try unfold x); clear x) | (intro x; clear_value x) | intro _ | with_reducible apply Kept.id | lift_lets -underBinder | with_reducible apply State.failReq_kept | with_reducible apply State.serveLine_kept | with_reducible apply State.orderCount_kept | with_reducible apply State.dropResv_kept | with_reducible apply State.ownerRefused_kept | with_reducible apply State.perform_kept | with_reducible apply State.prepare_kept | with_reducible refine (State.prepare_kept ?_).out | with_reducible exact ServedKept.waits | with_reducible apply ServedKept.served | with_reducible apply ServedKept.asked | with_reducible refine ServedKept.ite ?_ ?_ | with_reducible apply OptKept.map | with_reducible refine OptKept.getD ?_ ?_ | with_reducible refine OptKept.findSome ?_ | with_reducible apply Kept.foldl | with_reducible apply Kept.foldl₁ | (split <;> (first | (rename_i e; with_reducible obtain ⟨rfl, e⟩ := Prod.mk.inj e) | with_reducible apply FstKept.pair)) | split | with_reducible refine Kept.upd (s := State.mk _ _ _ _ _ _ _ _ _ _ _ _ _ _ _ _ _ _ _ _ _ _) ?_ rfl rfl rfl rfl rfl rfl rfl rfl)

theorem State.serveNext_kept {p : List Instr} {s : State} {i : Nat} {b a : List MemReq} {bl : List (Nat × Nat)} (h : Kept p s) :
    Kept p (s.serveNext i b a bl) := by
  induction a generalizing b bl with
  | nil => exact h
  | cons r rest ih =>
    have k := (State.serve_kept (x1 := i) (x2 := r) h).out
    unfold State.serveNext
    dsimp only
    split
    · exact ih
    · split
      · split
        · exact State.sliceCount_kept (State.setSlice_kept h)
        · exact ih
      · next e => rw [e] at k; exact State.setSlice_kept k
      · next e => rw [e] at k; exact State.setSlice_kept k

end Sys2Proof.Machine
end

