-- ==== Sys2Proof/Laws/KeptCoherence.lean ====
section
/-! SUPPORT. The operations and meanings of Machine/Coherence.lean keep the queue and the rules of `Inv`. -/
namespace Sys2Proof.Machine

theorem State.cleanCopy_kept {p : List Instr} {x0 x1 x2} (h0 : Kept p x0) : Kept p (State.cleanCopy x0 x1 x2) := by
  delta State.cleanCopy
  repeat' (first | with_reducible assumption | with_reducible exact Kept.upd ‹_› rfl rfl rfl rfl rfl rfl rfl rfl | (intro x; refine Kept.cut (p := p) (x := x) ?_ (fun hx => ?_); focus unfold x; rotate_left; clear_value x) | (intro x; refine Kept.isFun (f := x) ?_; (try unfold x); clear x) | (intro x; first | refine Kept.sub (α := Ods) x ?_ | refine Kept.sub (α := Faults) x ?_ | refine Kept.sub (α := Shelves) x ?_ | refine Kept.sub (α := Epm) x ?_ | refine Kept.sub (α := Pcs) x ?_; (try unfold x); clear x) | (intro x; clear_value x) | intro _ | with_reducible apply Kept.id | lift_lets -underBinder | with_reducible apply State.backWrite_kept | with_reducible apply State.sliceCount_kept | with_reducible apply State.setSlice_kept | with_reducible apply Kept.foldl | with_reducible apply Kept.foldl₁ | (split <;> (first | (rename_i e; with_reducible obtain ⟨rfl, e⟩ := Prod.mk.inj e) | with_reducible apply FstKept.pair)) | split | with_reducible refine Kept.upd (s := State.mk _ _ _ _ _ _ _ _ _ _ _ _ _ _ _ _ _ _ _ _ _ _) ?_ rfl rfl rfl rfl rfl rfl rfl rfl)

theorem State.addAcc_kept {p : List Instr} {x0 x1} (h0 : Kept p x0) : Kept p (State.addAcc x0 x1) := by
  have e := Eq.refl (@State.addAcc); conv at e => rhs; delta State.addAcc
  refine of_body (a := @State.addAcc) (P := fun f => Kept p (f x0 x1)) (b := ?b) ?e ?h; case e => exact e
  clear e
  repeat' (first | with_reducible assumption | with_reducible exact Kept.upd ‹_› rfl rfl rfl rfl rfl rfl rfl rfl | (intro x; refine Kept.cut (p := p) (x := x) ?_ (fun hx => ?_); focus unfold x; rotate_left; clear_value x) | (intro x; refine Kept.isFun (f := x) ?_; (try unfold x); clear x) | (intro x; first | refine Kept.sub (α := Ods) x ?_ | refine Kept.sub (α := Faults) x ?_ | refine Kept.sub (α := Shelves) x ?_ | refine Kept.sub (α := Epm) x ?_ | refine Kept.sub (α := Pcs) x ?_; (try unfold x); clear x) | (intro x; clear_value x) | intro _ | with_reducible apply Kept.id | lift_lets -underBinder | with_reducible apply Kept.foldl | with_reducible apply Kept.foldl₁ | (split <;> (first | (rename_i e; with_reducible obtain ⟨rfl, e⟩ := Prod.mk.inj e) | with_reducible apply FstKept.pair)) | split | with_reducible refine Kept.upd (s := State.mk _ _ _ _ _ _ _ _ _ _ _ _ _ _ _ _ _ _ _ _ _ _) ?_ rfl rfl rfl rfl rfl rfl rfl rfl)

theorem State.cacheResponse_kept {p : List Instr} {x0 x1 x2 x3} (h0 : Kept p x0) : Kept p (State.cacheResponse x0 x1 x2 x3) := by
  delta State.cacheResponse
  repeat' (first | with_reducible assumption | with_reducible exact Kept.upd ‹_› rfl rfl rfl rfl rfl rfl rfl rfl | (intro x; refine Kept.cut (p := p) (x := x) ?_ (fun hx => ?_); focus unfold x; rotate_left; clear_value x) | (intro x; refine Kept.isFun (f := x) ?_; (try unfold x); clear x) | (intro x; first | refine Kept.sub (α := Ods) x ?_ | refine Kept.sub (α := Faults) x ?_ | refine Kept.sub (α := Shelves) x ?_ | refine Kept.sub (α := Epm) x ?_ | refine Kept.sub (α := Pcs) x ?_; (try unfold x); clear x) | (intro x; clear_value x) | intro _ | with_reducible apply Kept.id | lift_lets -underBinder | with_reducible apply State.fillReady_kept | with_reducible apply State.perform_kept | with_reducible apply Kept.foldl | with_reducible apply Kept.foldl₁ | (split <;> (first | (rename_i e; with_reducible obtain ⟨rfl, e⟩ := Prod.mk.inj e) | with_reducible apply FstKept.pair)) | split | with_reducible refine Kept.upd (s := State.mk _ _ _ _ _ _ _ _ _ _ _ _ _ _ _ _ _ _ _ _ _ _) ?_ rfl rfl rfl rfl rfl rfl rfl rfl)

theorem State.flushSlice_kept {p : List Instr} {x0 x1 x2} (h0 : Kept p x0) : Kept p (State.flushSlice x0 x1 x2) := by
  delta State.flushSlice
  repeat' (first | with_reducible assumption | with_reducible exact Kept.upd ‹_› rfl rfl rfl rfl rfl rfl rfl rfl | (intro x; refine Kept.cut (p := p) (x := x) ?_ (fun hx => ?_); focus unfold x; rotate_left; clear_value x) | (intro x; refine Kept.isFun (f := x) ?_; (try unfold x); clear x) | (intro x; first | refine Kept.sub (α := Ods) x ?_ | refine Kept.sub (α := Faults) x ?_ | refine Kept.sub (α := Shelves) x ?_ | refine Kept.sub (α := Epm) x ?_ | refine Kept.sub (α := Pcs) x ?_; (try unfold x); clear x) | (intro x; clear_value x) | intro _ | with_reducible apply Kept.id | lift_lets -underBinder | with_reducible apply State.evictWay_kept | with_reducible apply Kept.foldl | with_reducible apply Kept.foldl₁ | (split <;> (first | (rename_i e; with_reducible obtain ⟨rfl, e⟩ := Prod.mk.inj e) | with_reducible apply FstKept.pair)) | split | with_reducible refine Kept.upd (s := State.mk _ _ _ _ _ _ _ _ _ _ _ _ _ _ _ _ _ _ _ _ _ _) ?_ rfl rfl rfl rfl rfl rfl rfl rfl)

theorem State.flushOn_kept {p : List Instr} {x0 x1} (h0 : Kept p x0) : Kept p (State.flushOn x0 x1) := by
  have e := Eq.refl (@State.flushOn); conv at e => rhs; delta State.flushOn
  refine of_body (a := @State.flushOn) (P := fun f => Kept p (f x0 x1)) (b := ?b) ?e ?h; case e => exact e
  clear e
  repeat' (first | with_reducible assumption | with_reducible exact Kept.upd ‹_› rfl rfl rfl rfl rfl rfl rfl rfl | (intro x; refine Kept.cut (p := p) (x := x) ?_ (fun hx => ?_); focus unfold x; rotate_left; clear_value x) | (intro x; refine Kept.isFun (f := x) ?_; (try unfold x); clear x) | (intro x; first | refine Kept.sub (α := Ods) x ?_ | refine Kept.sub (α := Faults) x ?_ | refine Kept.sub (α := Shelves) x ?_ | refine Kept.sub (α := Epm) x ?_ | refine Kept.sub (α := Pcs) x ?_; (try unfold x); clear x) | (intro x; clear_value x) | intro _ | with_reducible apply Kept.id | lift_lets -underBinder | with_reducible apply State.flushSlice_kept | with_reducible apply Kept.foldl | with_reducible apply Kept.foldl₁ | (split <;> (first | (rename_i e; with_reducible obtain ⟨rfl, e⟩ := Prod.mk.inj e) | with_reducible apply FstKept.pair)) | split | with_reducible refine Kept.upd (s := State.mk _ _ _ _ _ _ _ _ _ _ _ _ _ _ _ _ _ _ _ _ _ _) ?_ rfl rfl rfl rfl rfl rfl rfl rfl)

theorem State.engReady_kept {p : List Instr} {x0 x1 x2} (h0 : Kept p x0) : Kept p (State.engReady x0 x1 x2) := by
  have e := Eq.refl (@State.engReady); conv at e => rhs; delta State.engReady
  refine of_body (a := @State.engReady) (P := fun f => Kept p (f x0 x1 x2)) (b := ?b) ?e ?h; case e => exact e
  clear e
  repeat' (first | with_reducible assumption | with_reducible exact Kept.upd ‹_› rfl rfl rfl rfl rfl rfl rfl rfl | (intro x; refine Kept.cut (p := p) (x := x) ?_ (fun hx => ?_); focus unfold x; rotate_left; clear_value x) | (intro x; refine Kept.isFun (f := x) ?_; (try unfold x); clear x) | (intro x; first | refine Kept.sub (α := Ods) x ?_ | refine Kept.sub (α := Faults) x ?_ | refine Kept.sub (α := Shelves) x ?_ | refine Kept.sub (α := Epm) x ?_ | refine Kept.sub (α := Pcs) x ?_; (try unfold x); clear x) | (intro x; clear_value x) | intro _ | with_reducible apply Kept.id | lift_lets -underBinder | with_reducible apply Kept.foldl | with_reducible apply Kept.foldl₁ | (split <;> (first | (rename_i e; with_reducible obtain ⟨rfl, e⟩ := Prod.mk.inj e) | with_reducible apply FstKept.pair)) | split | with_reducible refine Kept.upd (s := State.mk _ _ _ _ _ _ _ _ _ _ _ _ _ _ _ _ _ _ _ _ _ _) ?_ rfl rfl rfl rfl rfl rfl rfl rfl)

theorem State.snoopAnswer_kept {p : List Instr} {x0 x1} (h0 : Kept p x0) : Kept p (State.snoopAnswer x0 x1) := by
  have e := Eq.refl (@State.snoopAnswer); conv at e => rhs; delta State.snoopAnswer
  refine of_body (a := @State.snoopAnswer) (P := fun f => Kept p (f x0 x1)) (b := ?b) ?e ?h; case e => exact e
  clear e
  repeat' (first | with_reducible assumption | with_reducible exact Kept.upd ‹_› rfl rfl rfl rfl rfl rfl rfl rfl | (intro x; refine Kept.cut (p := p) (x := x) ?_ (fun hx => ?_); focus unfold x; rotate_left; clear_value x) | (intro x; refine Kept.isFun (f := x) ?_; (try unfold x); clear x) | (intro x; first | refine Kept.sub (α := Ods) x ?_ | refine Kept.sub (α := Faults) x ?_ | refine Kept.sub (α := Shelves) x ?_ | refine Kept.sub (α := Epm) x ?_ | refine Kept.sub (α := Pcs) x ?_; (try unfold x); clear x) | (intro x; clear_value x) | intro _ | with_reducible apply Kept.id | lift_lets -underBinder | with_reducible apply State.emit_kept | with_reducible apply State.dcaDrop_kept | with_reducible apply State.setSlice_kept | with_reducible apply Kept.foldl | with_reducible apply Kept.foldl₁ | (split <;> (first | (rename_i e; with_reducible obtain ⟨rfl, e⟩ := Prod.mk.inj e) | with_reducible apply FstKept.pair)) | split | with_reducible refine Kept.upd (s := State.mk _ _ _ _ _ _ _ _ _ _ _ _ _ _ _ _ _ _ _ _ _ _) ?_ rfl rfl rfl rfl rfl rfl rfl rfl)

theorem State.snoopTry_kept {p : List Instr} {x0 x1} (h0 : Kept p x0) : Kept p (State.snoopTry x0 x1) := by
  have e := Eq.refl (@State.snoopTry); conv at e => rhs; delta State.snoopTry
  refine of_body (a := @State.snoopTry) (P := fun f => Kept p (f x0 x1)) (b := ?b) ?e ?h; case e => exact e
  clear e
  repeat' (first | with_reducible assumption | with_reducible exact Kept.upd ‹_› rfl rfl rfl rfl rfl rfl rfl rfl | (intro x; refine Kept.cut (p := p) (x := x) ?_ (fun hx => ?_); focus unfold x; rotate_left; clear_value x) | (intro x; refine Kept.isFun (f := x) ?_; (try unfold x); clear x) | (intro x; first | refine Kept.sub (α := Ods) x ?_ | refine Kept.sub (α := Faults) x ?_ | refine Kept.sub (α := Shelves) x ?_ | refine Kept.sub (α := Epm) x ?_ | refine Kept.sub (α := Pcs) x ?_; (try unfold x); clear x) | (intro x; clear_value x) | intro _ | with_reducible apply Kept.id | lift_lets -underBinder | with_reducible apply State.snoopAnswer_kept | with_reducible apply Kept.foldl | with_reducible apply Kept.foldl₁ | (split <;> (first | (rename_i e; with_reducible obtain ⟨rfl, e⟩ := Prod.mk.inj e) | with_reducible apply FstKept.pair)) | split | with_reducible refine Kept.upd (s := State.mk _ _ _ _ _ _ _ _ _ _ _ _ _ _ _ _ _ _ _ _ _ _) ?_ rfl rfl rfl rfl rfl rfl rfl rfl)

theorem State.dropAccs_kept {p : List Instr} {x0 x1} (h0 : Kept p x0) : Kept p (State.dropAccs x0 x1) := by
  have e := Eq.refl (@State.dropAccs); conv at e => rhs; delta State.dropAccs
  refine of_body (a := @State.dropAccs) (P := fun f => Kept p (f x0 x1)) (b := ?b) ?e ?h; case e => exact e
  clear e
  repeat' (first | with_reducible assumption | with_reducible exact Kept.upd ‹_› rfl rfl rfl rfl rfl rfl rfl rfl | (intro x; refine Kept.cut (p := p) (x := x) ?_ (fun hx => ?_); focus unfold x; rotate_left; clear_value x) | (intro x; refine Kept.isFun (f := x) ?_; (try unfold x); clear x) | (intro x; first | refine Kept.sub (α := Ods) x ?_ | refine Kept.sub (α := Faults) x ?_ | refine Kept.sub (α := Shelves) x ?_ | refine Kept.sub (α := Epm) x ?_ | refine Kept.sub (α := Pcs) x ?_; (try unfold x); clear x) | (intro x; clear_value x) | intro _ | with_reducible apply Kept.id | lift_lets -underBinder | with_reducible apply Kept.foldl | with_reducible apply Kept.foldl₁ | (split <;> (first | (rename_i e; with_reducible obtain ⟨rfl, e⟩ := Prod.mk.inj e) | with_reducible apply FstKept.pair)) | split | with_reducible refine Kept.upd (s := State.mk _ _ _ _ _ _ _ _ _ _ _ _ _ _ _ _ _ _ _ _ _ _) ?_ rfl rfl rfl rfl rfl rfl rfl rfl)

theorem State.hdmData_kept {p : List Instr} {x0 x1 x2} (h0 : Kept p x0) : FstKept p (State.hdmData x0 x1 x2) := by
  have e := Eq.refl (@State.hdmData); conv at e => rhs; delta State.hdmData
  refine of_body (a := @State.hdmData) (P := fun f => FstKept p (f x0 x1 x2)) (b := ?b) ?e ?h; case e => exact e
  clear e
  repeat' (first | with_reducible assumption | with_reducible refine fun (_ : Kept p _) => ?_ | (split <;> (first |(first | with_reducible apply State.fresh_kept) | (rename_i e; with_reducible refine Kept.cut (p := p) (State.fresh_kept_eq e ?_) (fun hx => ?_)) | (rename_i e _; with_reducible refine Kept.cut (p := p) (State.fresh_kept_eq e ?_) (fun hx => ?_)) | (rename_i e _ _; with_reducible refine Kept.cut (p := p) (State.fresh_kept_eq e ?_) (fun hx => ?_)))) | with_reducible exact Kept.upd ‹_› rfl rfl rfl rfl rfl rfl rfl rfl | (intro x; refine Kept.cut (p := p) (x := x) ?_ (fun hx => ?_); focus unfold x; rotate_left; clear_value x) | (intro x; refine Kept.isFun (f := x) ?_; (try unfold x); clear x) | (intro x; first | refine Kept.sub (α := Ods) x ?_ | refine Kept.sub (α := Faults) x ?_ | refine Kept.sub (α := Shelves) x ?_ | refine Kept.sub (α := Epm) x ?_ | refine Kept.sub (α := Pcs) x ?_; (try unfold x); clear x) | (intro x; clear_value x) | intro _ | with_reducible apply Kept.id | lift_lets -underBinder | with_reducible apply State.fresh_kept | with_reducible refine (State.fresh_kept ?_).out | with_reducible apply State.openRead_kept | with_reducible apply State.addAcc_kept | with_reducible apply Kept.foldl | with_reducible apply Kept.foldl₁ | (split <;> (first | (rename_i e; with_reducible obtain ⟨rfl, e⟩ := Prod.mk.inj e) | with_reducible apply FstKept.pair)) | split | with_reducible refine Kept.upd (s := State.mk _ _ _ _ _ _ _ _ _ _ _ _ _ _ _ _ _ _ _ _ _ _) ?_ rfl rfl rfl rfl rfl rfl rfl rfl | with_reducible apply FstKept.pair | with_reducible apply SndKept.pair)
theorem State.hdmData_kept_eq {p : List Instr} {x0 x1 x2} {t r1} (e : State.hdmData x0 x1 x2 = (t, r1)) (h0 : Kept p x0) : Kept p t := by
  have k := (@State.hdmData_kept p x0 x1 x2 h0).out
  rw [e] at k; exact k

theorem State.snfEntry_kept {p : List Instr} {x0 x1 x2} (h0 : Kept p x0) : FstKept p (State.snfEntry x0 x1 x2) := by
  delta State.snfEntry
  repeat' (first | with_reducible assumption | with_reducible refine fun (_ : Kept p _) => ?_ | (split <;> (first |(first | with_reducible apply State.prepare_kept) | (rename_i e; with_reducible refine Kept.cut (p := p) (State.prepare_kept_eq e ?_) (fun hx => ?_)) | (rename_i e _; with_reducible refine Kept.cut (p := p) (State.prepare_kept_eq e ?_) (fun hx => ?_)) | (rename_i e _ _; with_reducible refine Kept.cut (p := p) (State.prepare_kept_eq e ?_) (fun hx => ?_)))) | with_reducible exact Kept.upd ‹_› rfl rfl rfl rfl rfl rfl rfl rfl | (intro x; refine Kept.cut (p := p) (x := x) ?_ (fun hx => ?_); focus unfold x; rotate_left; clear_value x) | (intro x; refine Kept.isFun (f := x) ?_; (try unfold x); clear x) | (intro x; first | refine Kept.sub (α := Ods) x ?_ | refine Kept.sub (α := Faults) x ?_ | refine Kept.sub (α := Shelves) x ?_ | refine Kept.sub (α := Epm) x ?_ | refine Kept.sub (α := Pcs) x ?_; (try unfold x); clear x) | (intro x; clear_value x) | intro _ | with_reducible apply Kept.id | lift_lets -underBinder | with_reducible apply State.setSlice_kept | with_reducible apply State.prepare_kept | with_reducible refine (State.prepare_kept ?_).out | with_reducible apply State.snfCount_kept | with_reducible apply Kept.foldl | with_reducible apply Kept.foldl₁ | (split <;> (first | (rename_i e; with_reducible obtain ⟨rfl, e⟩ := Prod.mk.inj e) | with_reducible apply FstKept.pair)) | split | with_reducible refine Kept.upd (s := State.mk _ _ _ _ _ _ _ _ _ _ _ _ _ _ _ _ _ _ _ _ _ _) ?_ rfl rfl rfl rfl rfl rfl rfl rfl | with_reducible apply FstKept.pair | with_reducible apply SndKept.pair)
theorem State.snfEntry_kept_eq {p : List Instr} {x0 x1 x2} {t r1 r2} (e : State.snfEntry x0 x1 x2 = (t, r1, r2)) (h0 : Kept p x0) : Kept p t := by
  have k := (@State.snfEntry_kept p x0 x1 x2 h0).out
  rw [e] at k; exact k

theorem State.hdmServe_kept {p : List Instr} {x0 x1} (h0 : Kept p x0) : FstKept p (State.hdmServe x0 x1) := by
  delta State.hdmServe
  repeat' (first | with_reducible assumption | with_reducible refine fun (_ : Kept p _) => ?_ | (split <;> (first |(first | with_reducible apply State.prepare_kept | with_reducible apply State.hdmData_kept | with_reducible apply State.snfEntry_kept) | (rename_i e; (first | with_reducible refine Kept.cut (p := p) (State.prepare_kept_eq e ?_) (fun hx => ?_) | with_reducible refine Kept.cut (p := p) (State.hdmData_kept_eq e ?_) (fun hx => ?_) | with_reducible refine Kept.cut (p := p) (State.snfEntry_kept_eq e ?_) (fun hx => ?_))) | (rename_i e _; (first | with_reducible refine Kept.cut (p := p) (State.prepare_kept_eq e ?_) (fun hx => ?_) | with_reducible refine Kept.cut (p := p) (State.hdmData_kept_eq e ?_) (fun hx => ?_) | with_reducible refine Kept.cut (p := p) (State.snfEntry_kept_eq e ?_) (fun hx => ?_))) | (rename_i e _ _; (first | with_reducible refine Kept.cut (p := p) (State.prepare_kept_eq e ?_) (fun hx => ?_) | with_reducible refine Kept.cut (p := p) (State.hdmData_kept_eq e ?_) (fun hx => ?_) | with_reducible refine Kept.cut (p := p) (State.snfEntry_kept_eq e ?_) (fun hx => ?_))))) | with_reducible exact Kept.upd ‹_› rfl rfl rfl rfl rfl rfl rfl rfl | (intro x; refine Kept.cut (p := p) (x := x) ?_ (fun hx => ?_); focus unfold x; rotate_left; clear_value x) | (intro x; refine Kept.isFun (f := x) ?_; (try unfold x); clear x) | (intro x; first | refine Kept.sub (α := Ods) x ?_ | refine Kept.sub (α := Faults) x ?_ | refine Kept.sub (α := Shelves) x ?_ | refine Kept.sub (α := Epm) x ?_ | refine Kept.sub (α := Pcs) x ?_; (try unfold x); clear x) | (intro x; clear_value x) | intro _ | with_reducible apply Kept.id | lift_lets -underBinder | with_reducible apply State.emit_kept | with_reducible apply State.dropAccs_kept | with_reducible apply State.fire_kept | with_reducible apply State.bump_kept | with_reducible apply State.prepare_kept | with_reducible refine (State.prepare_kept ?_).out | with_reducible apply State.hdmData_kept | with_reducible refine (State.hdmData_kept ?_).out | with_reducible apply State.snfEntry_kept | with_reducible refine (State.snfEntry_kept ?_).out | with_reducible apply State.cleanCopy_kept | with_reducible apply State.setSnf_kept | with_reducible apply State.killResv_kept | with_reducible apply State.backWrite_kept | with_reducible apply State.snfCount_kept | with_reducible apply State.setSlice_kept | with_reducible apply Kept.foldl | with_reducible apply Kept.foldl₁ | (split <;> (first | (rename_i e; with_reducible obtain ⟨rfl, e⟩ := Prod.mk.inj e) | with_reducible apply FstKept.pair)) | split | with_reducible refine Kept.upd (s := State.mk _ _ _ _ _ _ _ _ _ _ _ _ _ _ _ _ _ _ _ _ _ _) ?_ rfl rfl rfl rfl rfl rfl rfl rfl | with_reducible apply FstKept.pair | with_reducible apply SndKept.pair)
theorem State.hdmServe_kept_eq {p : List Instr} {x0 x1} {t r1} (e : State.hdmServe x0 x1 = (t, r1)) (h0 : Kept p x0) : Kept p t := by
  have k := (@State.hdmServe_kept p x0 x1 h0).out
  rw [e] at k; exact k

theorem State.hdmTry_kept {p : List Instr} {x0 x1} (h0 : Kept p x0) : Kept p (State.hdmTry x0 x1) := by
  have e := Eq.refl (@State.hdmTry); conv at e => rhs; delta State.hdmTry
  refine of_body (a := @State.hdmTry) (P := fun f => Kept p (f x0 x1)) (b := ?b) ?e ?h; case e => exact e
  clear e
  repeat' (first | with_reducible assumption | with_reducible refine fun (_ : Kept p _) => ?_ | (split <;> (first |(first | with_reducible apply State.hdmServe_kept) | (rename_i e; with_reducible refine Kept.cut (p := p) (State.hdmServe_kept_eq e ?_) (fun hx => ?_)) | (rename_i e _; with_reducible refine Kept.cut (p := p) (State.hdmServe_kept_eq e ?_) (fun hx => ?_)) | (rename_i e _ _; with_reducible refine Kept.cut (p := p) (State.hdmServe_kept_eq e ?_) (fun hx => ?_)))) | with_reducible exact Kept.upd ‹_› rfl rfl rfl rfl rfl rfl rfl rfl | (intro x; refine Kept.cut (p := p) (x := x) ?_ (fun hx => ?_); focus unfold x; rotate_left; clear_value x) | (intro x; refine Kept.isFun (f := x) ?_; (try unfold x); clear x) | (intro x; first | refine Kept.sub (α := Ods) x ?_ | refine Kept.sub (α := Faults) x ?_ | refine Kept.sub (α := Shelves) x ?_ | refine Kept.sub (α := Epm) x ?_ | refine Kept.sub (α := Pcs) x ?_; (try unfold x); clear x) | (intro x; clear_value x) | intro _ | with_reducible apply Kept.id | lift_lets -underBinder | with_reducible apply State.hdmServe_kept | with_reducible refine (State.hdmServe_kept ?_).out | with_reducible apply Kept.foldl | with_reducible apply Kept.foldl₁ | (split <;> (first | (rename_i e; with_reducible obtain ⟨rfl, e⟩ := Prod.mk.inj e) | with_reducible apply FstKept.pair)) | split | with_reducible refine Kept.upd (s := State.mk _ _ _ _ _ _ _ _ _ _ _ _ _ _ _ _ _ _ _ _ _ _) ?_ rfl rfl rfl rfl rfl rfl rfl rfl)

theorem State.hdmArrive_kept {p : List Instr} {x0 x1 x2} (h0 : Kept p x0) : Kept p (State.hdmArrive x0 x1 x2) := by
  delta State.hdmArrive
  repeat' (first | with_reducible assumption | with_reducible refine fun (_ : Kept p _) => ?_ | (split <;> (first |(first | with_reducible apply State.fresh_kept) | (rename_i e; with_reducible refine Kept.cut (p := p) (State.fresh_kept_eq e ?_) (fun hx => ?_)) | (rename_i e _; with_reducible refine Kept.cut (p := p) (State.fresh_kept_eq e ?_) (fun hx => ?_)) | (rename_i e _ _; with_reducible refine Kept.cut (p := p) (State.fresh_kept_eq e ?_) (fun hx => ?_)))) | with_reducible exact Kept.upd ‹_› rfl rfl rfl rfl rfl rfl rfl rfl | (intro x; refine Kept.cut (p := p) (x := x) ?_ (fun hx => ?_); focus unfold x; rotate_left; clear_value x) | (intro x; refine Kept.isFun (f := x) ?_; (try unfold x); clear x) | (intro x; first | refine Kept.sub (α := Ods) x ?_ | refine Kept.sub (α := Faults) x ?_ | refine Kept.sub (α := Shelves) x ?_ | refine Kept.sub (α := Epm) x ?_ | refine Kept.sub (α := Pcs) x ?_; (try unfold x); clear x) | (intro x; clear_value x) | intro _ | with_reducible apply Kept.id | lift_lets -underBinder | with_reducible apply State.setPort_kept | with_reducible apply State.fresh_kept | with_reducible refine (State.fresh_kept ?_).out | with_reducible apply State.hdmTry_kept | with_reducible apply Kept.foldl | with_reducible apply Kept.foldl₁ | (split <;> (first | (rename_i e; with_reducible obtain ⟨rfl, e⟩ := Prod.mk.inj e) | with_reducible apply FstKept.pair)) | split | with_reducible refine Kept.upd (s := State.mk _ _ _ _ _ _ _ _ _ _ _ _ _ _ _ _ _ _ _ _ _ _) ?_ rfl rfl rfl rfl rfl rfl rfl rfl)

theorem State.retryHeld_kept {p : List Instr} {x0} (h0 : Kept p x0) : Kept p (State.retryHeld x0) := by
  delta State.retryHeld
  repeat' (first | with_reducible assumption | with_reducible exact Kept.upd ‹_› rfl rfl rfl rfl rfl rfl rfl rfl | (intro x; refine Kept.cut (p := p) (x := x) ?_ (fun hx => ?_); focus unfold x; rotate_left; clear_value x) | (intro x; refine Kept.isFun (f := x) ?_; (try unfold x); clear x) | (intro x; first | refine Kept.sub (α := Ods) x ?_ | refine Kept.sub (α := Faults) x ?_ | refine Kept.sub (α := Shelves) x ?_ | refine Kept.sub (α := Epm) x ?_ | refine Kept.sub (α := Pcs) x ?_; (try unfold x); clear x) | (intro x; clear_value x) | intro _ | with_reducible apply Kept.id | lift_lets -underBinder | with_reducible apply State.hdmTry_kept | with_reducible apply Kept.foldl | with_reducible apply Kept.foldl₁ | (split <;> (first | (rename_i e; with_reducible obtain ⟨rfl, e⟩ := Prod.mk.inj e) | with_reducible apply FstKept.pair)) | split | with_reducible refine Kept.upd (s := State.mk _ _ _ _ _ _ _ _ _ _ _ _ _ _ _ _ _ _ _ _ _ _) ?_ rfl rfl rfl rfl rfl rfl rfl rfl)

theorem State.invalidateSlice_kept {p : List Instr} {x0 x1} (h0 : Kept p x0) : Kept p (State.invalidateSlice x0 x1) := by
  delta State.invalidateSlice
  repeat' (first | with_reducible assumption | with_reducible exact Kept.upd ‹_› rfl rfl rfl rfl rfl rfl rfl rfl | (intro x; refine Kept.cut (p := p) (x := x) ?_ (fun hx => ?_); focus unfold x; rotate_left; clear_value x) | (intro x; refine Kept.isFun (f := x) ?_; (try unfold x); clear x) | (intro x; first | refine Kept.sub (α := Ods) x ?_ | refine Kept.sub (α := Faults) x ?_ | refine Kept.sub (α := Shelves) x ?_ | refine Kept.sub (α := Epm) x ?_ | refine Kept.sub (α := Pcs) x ?_; (try unfold x); clear x) | (intro x; clear_value x) | intro _ | with_reducible apply Kept.id | lift_lets -underBinder | with_reducible apply State.backMerge_kept | with_reducible apply State.setSlice_kept | with_reducible apply Kept.foldl | with_reducible apply Kept.foldl₁ | (split <;> (first | (rename_i e; with_reducible obtain ⟨rfl, e⟩ := Prod.mk.inj e) | with_reducible apply FstKept.pair)) | split | with_reducible refine Kept.upd (s := State.mk _ _ _ _ _ _ _ _ _ _ _ _ _ _ _ _ _ _ _ _ _ _) ?_ rfl rfl rfl rfl rfl rfl rfl rfl)

theorem State.sliceServe_kept {p : List Instr} {x0 x1} (h0 : Kept p x0) : Kept p (State.sliceServe x0 x1) := by
  delta State.sliceServe
  repeat' (first | with_reducible assumption | with_reducible exact Kept.upd ‹_› rfl rfl rfl rfl rfl rfl rfl rfl | (intro x; refine Kept.cut (p := p) (x := x) ?_ (fun hx => ?_); focus unfold x; rotate_left; clear_value x) | (intro x; refine Kept.isFun (f := x) ?_; (try unfold x); clear x) | (intro x; first | refine Kept.sub (α := Ods) x ?_ | refine Kept.sub (α := Faults) x ?_ | refine Kept.sub (α := Shelves) x ?_ | refine Kept.sub (α := Epm) x ?_ | refine Kept.sub (α := Pcs) x ?_; (try unfold x); clear x) | (intro x; clear_value x) | intro _ | with_reducible apply Kept.id | lift_lets -underBinder | with_reducible apply State.retryHeld_kept | with_reducible apply State.serveNext_kept | with_reducible apply Kept.foldl | with_reducible apply Kept.foldl₁ | (split <;> (first | (rename_i e; with_reducible obtain ⟨rfl, e⟩ := Prod.mk.inj e) | with_reducible apply FstKept.pair)) | split | with_reducible refine Kept.upd (s := State.mk _ _ _ _ _ _ _ _ _ _ _ _ _ _ _ _ _ _ _ _ _ _) ?_ rfl rfl rfl rfl rfl rfl rfl rfl)

theorem State.biEnd_kept {p : List Instr} {x0 x1 x2 x3} (h0 : Kept p x0) : Kept p (State.biEnd x0 x1 x2 x3) := by
  delta State.biEnd
  repeat' (first | with_reducible assumption | with_reducible exact Kept.upd ‹_› rfl rfl rfl rfl rfl rfl rfl rfl | (intro x; refine Kept.cut (p := p) (x := x) ?_ (fun hx => ?_); focus unfold x; rotate_left; clear_value x) | (intro x; refine Kept.isFun (f := x) ?_; (try unfold x); clear x) | (intro x; first | refine Kept.sub (α := Ods) x ?_ | refine Kept.sub (α := Faults) x ?_ | refine Kept.sub (α := Shelves) x ?_ | refine Kept.sub (α := Epm) x ?_ | refine Kept.sub (α := Pcs) x ?_; (try unfold x); clear x) | (intro x; clear_value x) | intro _ | with_reducible apply Kept.id | lift_lets -underBinder | with_reducible apply State.setSnf_kept | with_reducible apply Kept.foldl | with_reducible apply Kept.foldl₁ | (split <;> (first | (rename_i e; with_reducible obtain ⟨rfl, e⟩ := Prod.mk.inj e) | with_reducible apply FstKept.pair)) | split | with_reducible refine Kept.upd (s := State.mk _ _ _ _ _ _ _ _ _ _ _ _ _ _ _ _ _ _ _ _ _ _) ?_ rfl rfl rfl rfl rfl rfl rfl rfl)

theorem State.dropVictim_kept {p : List Instr} {x0 x1} (h0 : Kept p x0) : Kept p (State.dropVictim x0 x1) := by
  have e := Eq.refl (@State.dropVictim); conv at e => rhs; delta State.dropVictim
  refine of_body (a := @State.dropVictim) (P := fun f => Kept p (f x0 x1)) (b := ?b) ?e ?h; case e => exact e
  clear e
  repeat' (first | with_reducible assumption | with_reducible exact Kept.upd ‹_› rfl rfl rfl rfl rfl rfl rfl rfl | (intro x; refine Kept.cut (p := p) (x := x) ?_ (fun hx => ?_); focus unfold x; rotate_left; clear_value x) | (intro x; refine Kept.isFun (f := x) ?_; (try unfold x); clear x) | (intro x; first | refine Kept.sub (α := Ods) x ?_ | refine Kept.sub (α := Faults) x ?_ | refine Kept.sub (α := Shelves) x ?_ | refine Kept.sub (α := Epm) x ?_ | refine Kept.sub (α := Pcs) x ?_; (try unfold x); clear x) | (intro x; clear_value x) | intro _ | with_reducible apply Kept.id | lift_lets -underBinder | with_reducible apply State.setSlice_kept | with_reducible apply Kept.foldl | with_reducible apply Kept.foldl₁ | (split <;> (first | (rename_i e; with_reducible obtain ⟨rfl, e⟩ := Prod.mk.inj e) | with_reducible apply FstKept.pair)) | split | with_reducible refine Kept.upd (s := State.mk _ _ _ _ _ _ _ _ _ _ _ _ _ _ _ _ _ _ _ _ _ _) ?_ rfl rfl rfl rfl rfl rfl rfl rfl)

theorem State.biTimeout_kept {p : List Instr} {x0 x1 x2} (h0 : Kept p x0) : Kept p (State.biTimeout x0 x1 x2) := by
  delta State.biTimeout
  repeat' (first | with_reducible assumption | with_reducible exact Kept.upd ‹_› rfl rfl rfl rfl rfl rfl rfl rfl | (intro x; refine Kept.cut (p := p) (x := x) ?_ (fun hx => ?_); focus unfold x; rotate_left; clear_value x) | (intro x; refine Kept.isFun (f := x) ?_; (try unfold x); clear x) | (intro x; first | refine Kept.sub (α := Ods) x ?_ | refine Kept.sub (α := Faults) x ?_ | refine Kept.sub (α := Shelves) x ?_ | refine Kept.sub (α := Epm) x ?_ | refine Kept.sub (α := Pcs) x ?_; (try unfold x); clear x) | (intro x; clear_value x) | intro _ | with_reducible apply Kept.id | lift_lets -underBinder | with_reducible apply State.biEnd_kept | with_reducible apply State.poisonLine_kept | with_reducible apply State.dropVictim_kept | with_reducible apply State.retryHeld_kept | with_reducible apply State.fire_kept | with_reducible apply State.snfCount_kept | with_reducible apply Kept.foldl | with_reducible apply Kept.foldl₁ | (split <;> (first | (rename_i e; with_reducible obtain ⟨rfl, e⟩ := Prod.mk.inj e) | with_reducible apply FstKept.pair)) | split | with_reducible refine Kept.upd (s := State.mk _ _ _ _ _ _ _ _ _ _ _ _ _ _ _ _ _ _ _ _ _ _) ?_ rfl rfl rfl rfl rfl rfl rfl rfl)

theorem State.birsp_kept {p : List Instr} {x0 x1 x2 x3} (h0 : Kept p x0) : Kept p (State.birsp x0 x1 x2 x3) := by
  delta State.birsp
  repeat' (first | with_reducible assumption | with_reducible exact Kept.upd ‹_› rfl rfl rfl rfl rfl rfl rfl rfl | (intro x; refine Kept.cut (p := p) (x := x) ?_ (fun hx => ?_); focus unfold x; rotate_left; clear_value x) | (intro x; refine Kept.isFun (f := x) ?_; (try unfold x); clear x) | (intro x; first | refine Kept.sub (α := Ods) x ?_ | refine Kept.sub (α := Faults) x ?_ | refine Kept.sub (α := Shelves) x ?_ | refine Kept.sub (α := Epm) x ?_ | refine Kept.sub (α := Pcs) x ?_; (try unfold x); clear x) | (intro x; clear_value x) | intro _ | with_reducible apply Kept.id | lift_lets -underBinder | with_reducible apply State.snfCount_kept | with_reducible apply State.backWrite_kept | with_reducible apply State.killResv_kept | with_reducible apply State.dropVictim_kept | with_reducible apply State.retryHeld_kept | with_reducible apply State.biEnd_kept | with_reducible apply Kept.foldl | with_reducible apply Kept.foldl₁ | (split <;> (first | (rename_i e; with_reducible obtain ⟨rfl, e⟩ := Prod.mk.inj e) | with_reducible apply FstKept.pair)) | split | with_reducible refine Kept.upd (s := State.mk _ _ _ _ _ _ _ _ _ _ _ _ _ _ _ _ _ _ _ _ _ _) ?_ rfl rfl rfl rfl rfl rfl rfl rfl)

theorem State.victimDone_kept {p : List Instr} {x0 x1 x2} (h0 : Kept p x0) : Kept p (State.victimDone x0 x1 x2) := by
  delta State.victimDone
  repeat' (first | with_reducible assumption | with_reducible exact Kept.upd ‹_› rfl rfl rfl rfl rfl rfl rfl rfl | (intro x; refine Kept.cut (p := p) (x := x) ?_ (fun hx => ?_); focus unfold x; rotate_left; clear_value x) | (intro x; refine Kept.isFun (f := x) ?_; (try unfold x); clear x) | (intro x; first | refine Kept.sub (α := Ods) x ?_ | refine Kept.sub (α := Faults) x ?_ | refine Kept.sub (α := Shelves) x ?_ | refine Kept.sub (α := Epm) x ?_ | refine Kept.sub (α := Pcs) x ?_; (try unfold x); clear x) | (intro x; clear_value x) | intro _ | with_reducible apply Kept.id | lift_lets -underBinder | with_reducible apply State.setSlice_kept | with_reducible apply Kept.foldl | with_reducible apply Kept.foldl₁ | (split <;> (first | (rename_i e; with_reducible obtain ⟨rfl, e⟩ := Prod.mk.inj e) | with_reducible apply FstKept.pair)) | split | with_reducible refine Kept.upd (s := State.mk _ _ _ _ _ _ _ _ _ _ _ _ _ _ _ _ _ _ _ _ _ _) ?_ rfl rfl rfl rfl rfl rfl rfl rfl)

theorem State.answerSnoops_kept {p : List Instr} {x0} (h0 : Kept p x0) : Kept p (State.answerSnoops x0) := by
  have e := Eq.refl (@State.answerSnoops); conv at e => rhs; delta State.answerSnoops
  refine of_body (a := @State.answerSnoops) (P := fun f => Kept p (f x0)) (b := ?b) ?e ?h; case e => exact e
  clear e
  repeat' (first | with_reducible assumption | with_reducible exact Kept.upd ‹_› rfl rfl rfl rfl rfl rfl rfl rfl | (intro x; refine Kept.cut (p := p) (x := x) ?_ (fun hx => ?_); focus unfold x; rotate_left; clear_value x) | (intro x; refine Kept.isFun (f := x) ?_; (try unfold x); clear x) | (intro x; first | refine Kept.sub (α := Ods) x ?_ | refine Kept.sub (α := Faults) x ?_ | refine Kept.sub (α := Shelves) x ?_ | refine Kept.sub (α := Epm) x ?_ | refine Kept.sub (α := Pcs) x ?_; (try unfold x); clear x) | (intro x; clear_value x) | intro _ | with_reducible apply Kept.id | lift_lets -underBinder | with_reducible apply State.snoopTry_kept | with_reducible apply Kept.foldl | with_reducible apply Kept.foldl₁ | (split <;> (first | (rename_i e; with_reducible obtain ⟨rfl, e⟩ := Prod.mk.inj e) | with_reducible apply FstKept.pair)) | split | with_reducible refine Kept.upd (s := State.mk _ _ _ _ _ _ _ _ _ _ _ _ _ _ _ _ _ _ _ _ _ _) ?_ rfl rfl rfl rfl rfl rfl rfl rfl)

theorem State.readDone_kept {p : List Instr} {x0 x1 x2 x3} (h0 : Kept p x0) : Kept p (State.readDone x0 x1 x2 x3) := by
  have e := Eq.refl (@State.readDone); conv at e => rhs; delta State.readDone
  refine of_body (a := @State.readDone) (P := fun f => Kept p (f x0 x1 x2 x3)) (b := ?b) ?e ?h; case e => exact e
  clear e
  repeat' (first | with_reducible assumption | with_reducible refine fun (_ : Kept p _) => ?_ | (split <;> (first |(first | with_reducible apply State.applyTo_kept) | (rename_i e; with_reducible refine Kept.cut (p := p) (State.applyTo_kept_eq e ?_) (fun hx => ?_)) | (rename_i e _; with_reducible refine Kept.cut (p := p) (State.applyTo_kept_eq e ?_) (fun hx => ?_)) | (rename_i e _ _; with_reducible refine Kept.cut (p := p) (State.applyTo_kept_eq e ?_) (fun hx => ?_)))) | with_reducible exact Kept.upd ‹_› rfl rfl rfl rfl rfl rfl rfl rfl | (intro x; refine Kept.cut (p := p) (x := x) ?_ (fun hx => ?_); focus unfold x; rotate_left; clear_value x) | (intro x; refine Kept.isFun (f := x) ?_; (try unfold x); clear x) | (intro x; first | refine Kept.sub (α := Ods) x ?_ | refine Kept.sub (α := Faults) x ?_ | refine Kept.sub (α := Shelves) x ?_ | refine Kept.sub (α := Epm) x ?_ | refine Kept.sub (α := Pcs) x ?_; (try unfold x); clear x) | (intro x; clear_value x) | intro _ | with_reducible apply Kept.id | lift_lets -underBinder | with_reducible apply State.fillReady_kept | with_reducible apply State.applyTo_kept | with_reducible refine (State.applyTo_kept ?_).out | with_reducible apply State.retryHeld_kept | with_reducible apply State.backWrite_kept | with_reducible apply State.perform_kept | with_reducible apply State.engReady_kept | with_reducible apply Kept.foldl | with_reducible apply Kept.foldl₁ | (split <;> (first | (rename_i e; with_reducible obtain ⟨rfl, e⟩ := Prod.mk.inj e) | with_reducible apply FstKept.pair)) | split | with_reducible refine Kept.upd (s := State.mk _ _ _ _ _ _ _ _ _ _ _ _ _ _ _ _ _ _ _ _ _ _) ?_ rfl rfl rfl rfl rfl rfl rfl rfl)

theorem State.lineReturn_kept {p : List Instr} {x0 x1 x2 x3} (h0 : Kept p x0) : Kept p (State.lineReturn x0 x1 x2 x3) := by
  delta State.lineReturn
  repeat' (first | with_reducible assumption | with_reducible exact Kept.upd ‹_› rfl rfl rfl rfl rfl rfl rfl rfl | (intro x; refine Kept.cut (p := p) (x := x) ?_ (fun hx => ?_); focus unfold x; rotate_left; clear_value x) | (intro x; refine Kept.isFun (f := x) ?_; (try unfold x); clear x) | (intro x; first | refine Kept.sub (α := Ods) x ?_ | refine Kept.sub (α := Faults) x ?_ | refine Kept.sub (α := Shelves) x ?_ | refine Kept.sub (α := Epm) x ?_ | refine Kept.sub (α := Pcs) x ?_; (try unfold x); clear x) | (intro x; clear_value x) | intro _ | with_reducible apply Kept.id | lift_lets -underBinder | with_reducible apply State.eccFound_kept | with_reducible apply State.scrubDone_kept | with_reducible apply State.retryHeld_kept | with_reducible apply State.copyDone_kept | with_reducible apply State.readDone_kept | with_reducible apply Kept.foldl | with_reducible apply Kept.foldl₁ | (split <;> (first | (rename_i e; with_reducible obtain ⟨rfl, e⟩ := Prod.mk.inj e) | with_reducible apply FstKept.pair)) | split | with_reducible refine Kept.upd (s := State.mk _ _ _ _ _ _ _ _ _ _ _ _ _ _ _ _ _ _ _ _ _ _) ?_ rfl rfl rfl rfl rfl rfl rfl rfl)

theorem State.cohPortLost_kept {p : List Instr} {x0 x1} (h0 : Kept p x0) : Kept p (State.cohPortLost x0 x1) := by
  delta State.cohPortLost
  repeat' (first | with_reducible assumption | with_reducible exact Kept.upd ‹_› rfl rfl rfl rfl rfl rfl rfl rfl | (intro x; refine Kept.cut (p := p) (x := x) ?_ (fun hx => ?_); focus unfold x; rotate_left; clear_value x) | (intro x; refine Kept.isFun (f := x) ?_; (try unfold x); clear x) | (intro x; first | refine Kept.sub (α := Ods) x ?_ | refine Kept.sub (α := Faults) x ?_ | refine Kept.sub (α := Shelves) x ?_ | refine Kept.sub (α := Epm) x ?_ | refine Kept.sub (α := Pcs) x ?_; (try unfold x); clear x) | (intro x; clear_value x) | intro _ | with_reducible apply Kept.id | lift_lets -underBinder | with_reducible apply State.orderCount_kept | with_reducible apply State.setSlice_kept | with_reducible apply State.failReq_kept | with_reducible apply State.snfCount_kept | with_reducible apply State.setSnf_kept | with_reducible apply State.retryHeld_kept | with_reducible apply Kept.foldl | with_reducible apply Kept.foldl₁ | (split <;> (first | (rename_i e; with_reducible obtain ⟨rfl, e⟩ := Prod.mk.inj e) | with_reducible apply FstKept.pair)) | split | with_reducible refine Kept.upd (s := State.mk _ _ _ _ _ _ _ _ _ _ _ _ _ _ _ _ _ _ _ _ _ _) ?_ rfl rfl rfl rfl rfl rfl rfl rfl)

theorem State.tagReturn_kept {p : List Instr} {x0 x1 x2} (h0 : Kept p x0) : Kept p (State.tagReturn x0 x1 x2) := by
  delta State.tagReturn
  repeat' (first | with_reducible assumption | with_reducible exact Kept.upd ‹_› rfl rfl rfl rfl rfl rfl rfl rfl | (intro x; refine Kept.cut (p := p) (x := x) ?_ (fun hx => ?_); focus unfold x; rotate_left; clear_value x) | (intro x; refine Kept.isFun (f := x) ?_; (try unfold x); clear x) | (intro x; first | refine Kept.sub (α := Ods) x ?_ | refine Kept.sub (α := Faults) x ?_ | refine Kept.sub (α := Shelves) x ?_ | refine Kept.sub (α := Epm) x ?_ | refine Kept.sub (α := Pcs) x ?_; (try unfold x); clear x) | (intro x; clear_value x) | intro _ | with_reducible apply Kept.id | lift_lets -underBinder | with_reducible apply State.eccFound_kept | with_reducible apply State.carveTouch_kept | with_reducible apply State.setCarve_kept | with_reducible apply State.carveCount_kept | with_reducible apply State.setReuse_kept | with_reducible apply State.readDone_kept | with_reducible apply Kept.foldl | with_reducible apply Kept.foldl₁ | (split <;> (first | (rename_i e; with_reducible obtain ⟨rfl, e⟩ := Prod.mk.inj e) | with_reducible apply FstKept.pair)) | split | with_reducible refine Kept.upd (s := State.mk _ _ _ _ _ _ _ _ _ _ _ _ _ _ _ _ _ _ _ _ _ _) ?_ rfl rfl rfl rfl rfl rfl rfl rfl)

end Sys2Proof.Machine
end

