-- ==== Sys2Proof/Laws/KeptMem.lean ====
section
/-! SUPPORT. The operations and meanings of Machine/Mem.lean keep the queue and the rules of `Inv`. -/
namespace Sys2Proof.Machine

theorem State.forget_kept {p : List Instr} {x0 x1} (h0 : Kept p x0) : Kept p (State.forget x0 x1) := by
  delta State.forget
  repeat' (first | with_reducible assumption | with_reducible exact Kept.upd ‹_› rfl rfl rfl rfl rfl rfl rfl rfl | (intro x; refine Kept.cut (p := p) (x := x) ?_ (fun hx => ?_); focus unfold x; rotate_left; clear_value x) | (intro x; refine Kept.isFun (f := x) ?_; (try unfold x); clear x) | (intro x; first | refine Kept.sub (α := Ods) x ?_ | refine Kept.sub (α := Faults) x ?_ | refine Kept.sub (α := Shelves) x ?_ | refine Kept.sub (α := Epm) x ?_ | refine Kept.sub (α := Pcs) x ?_; (try unfold x); clear x) | (intro x; clear_value x) | intro _ | with_reducible apply Kept.id | lift_lets -underBinder | with_reducible apply Kept.foldl | with_reducible apply Kept.foldl₁ | (split <;> (first | (rename_i e; with_reducible obtain ⟨rfl, e⟩ := Prod.mk.inj e) | with_reducible apply FstKept.pair)) | split | with_reducible refine Kept.upd (s := State.mk _ _ _ _ _ _ _ _ _ _ _ _ _ _ _ _ _ _ _ _ _ _) ?_ rfl rfl rfl rfl rfl rfl rfl rfl)

theorem State.discardReqs_kept {p : List Instr} {x0 x1} (h0 : Kept p x0) : Kept p (State.discardReqs x0 x1) := by
  delta State.discardReqs
  repeat' (first | with_reducible assumption | with_reducible exact Kept.upd ‹_› rfl rfl rfl rfl rfl rfl rfl rfl | (intro x; refine Kept.cut (p := p) (x := x) ?_ (fun hx => ?_); focus unfold x; rotate_left; clear_value x) | (intro x; refine Kept.isFun (f := x) ?_; (try unfold x); clear x) | (intro x; first | refine Kept.sub (α := Ods) x ?_ | refine Kept.sub (α := Faults) x ?_ | refine Kept.sub (α := Shelves) x ?_ | refine Kept.sub (α := Epm) x ?_ | refine Kept.sub (α := Pcs) x ?_; (try unfold x); clear x) | (intro x; clear_value x) | intro _ | with_reducible apply Kept.id | lift_lets -underBinder | with_reducible apply State.forget_kept | with_reducible apply Kept.foldl | with_reducible apply Kept.foldl₁ | (split <;> (first | (rename_i e; with_reducible obtain ⟨rfl, e⟩ := Prod.mk.inj e) | with_reducible apply FstKept.pair)) | split | with_reducible refine Kept.upd (s := State.mk _ _ _ _ _ _ _ _ _ _ _ _ _ _ _ _ _ _ _ _ _ _) ?_ rfl rfl rfl rfl rfl rfl rfl rfl)

theorem State.wrote_kept {p : List Instr} {x0 x1 x2 x3 x4} (h0 : Kept p x0) : Kept p (State.wrote x0 x1 x2 x3 x4) := by
  have e := Eq.refl (@State.wrote); conv at e => rhs; delta State.wrote
  refine of_body (a := @State.wrote) (P := fun f => Kept p (f x0 x1 x2 x3 x4)) (b := ?b) ?e ?h; case e => exact e
  clear e
  repeat' (first | with_reducible assumption | with_reducible refine fun (_ : Kept p _) => ?_ | (split <;> (first |(first | with_reducible apply State.fresh_kept) | (rename_i e; with_reducible refine Kept.cut (p := p) (State.fresh_kept_eq e ?_) (fun hx => ?_)) | (rename_i e _; with_reducible refine Kept.cut (p := p) (State.fresh_kept_eq e ?_) (fun hx => ?_)) | (rename_i e _ _; with_reducible refine Kept.cut (p := p) (State.fresh_kept_eq e ?_) (fun hx => ?_)))) | with_reducible exact Kept.upd ‹_› rfl rfl rfl rfl rfl rfl rfl rfl | (intro x; refine Kept.cut (p := p) (x := x) ?_ (fun hx => ?_); focus unfold x; rotate_left; clear_value x) | (intro x; refine Kept.isFun (f := x) ?_; (try unfold x); clear x) | (intro x; first | refine Kept.sub (α := Ods) x ?_ | refine Kept.sub (α := Faults) x ?_ | refine Kept.sub (α := Shelves) x ?_ | refine Kept.sub (α := Epm) x ?_ | refine Kept.sub (α := Pcs) x ?_; (try unfold x); clear x) | (intro x; clear_value x) | intro _ | with_reducible apply Kept.id | lift_lets -underBinder | with_reducible apply State.fresh_kept | with_reducible refine (State.fresh_kept ?_).out | with_reducible apply State.addAcc_kept | with_reducible apply Kept.foldl | with_reducible apply Kept.foldl₁ | (split <;> (first | (rename_i e; with_reducible obtain ⟨rfl, e⟩ := Prod.mk.inj e) | with_reducible apply FstKept.pair)) | split | with_reducible refine Kept.upd (s := State.mk _ _ _ _ _ _ _ _ _ _ _ _ _ _ _ _ _ _ _ _ _ _) ?_ rfl rfl rfl rfl rfl rfl rfl rfl)

theorem State.needs_kept {p : List Instr} {x0 x1} (h0 : Kept p x0) : Kept p (State.needs x0 x1) := by
  delta State.needs
  repeat' (first | with_reducible assumption | with_reducible exact Kept.upd ‹_› rfl rfl rfl rfl rfl rfl rfl rfl | (intro x; refine Kept.cut (p := p) (x := x) ?_ (fun hx => ?_); focus unfold x; rotate_left; clear_value x) | (intro x; refine Kept.isFun (f := x) ?_; (try unfold x); clear x) | (intro x; first | refine Kept.sub (α := Ods) x ?_ | refine Kept.sub (α := Faults) x ?_ | refine Kept.sub (α := Shelves) x ?_ | refine Kept.sub (α := Epm) x ?_ | refine Kept.sub (α := Pcs) x ?_; (try unfold x); clear x) | (intro x; clear_value x) | intro _ | with_reducible apply Kept.id | lift_lets -underBinder | with_reducible apply Kept.foldl | with_reducible apply Kept.foldl₁ | (split <;> (first | (rename_i e; with_reducible obtain ⟨rfl, e⟩ := Prod.mk.inj e) | with_reducible apply FstKept.pair)) | split | with_reducible refine Kept.upd (s := State.mk _ _ _ _ _ _ _ _ _ _ _ _ _ _ _ _ _ _ _ _ _ _) ?_ rfl rfl rfl rfl rfl rfl rfl rfl)

theorem State.wants_kept {p : List Instr} {x0 x1 x2 x3} (h0 : Kept p x0) : Kept p (State.wants x0 x1 x2 x3) := by
  have e := Eq.refl (@State.wants); conv at e => rhs; delta State.wants
  refine of_body (a := @State.wants) (P := fun f => Kept p (f x0 x1 x2 x3)) (b := ?b) ?e ?h; case e => exact e
  clear e
  repeat' (first | with_reducible assumption | with_reducible exact Kept.upd ‹_› rfl rfl rfl rfl rfl rfl rfl rfl | (intro x; refine Kept.cut (p := p) (x := x) ?_ (fun hx => ?_); focus unfold x; rotate_left; clear_value x) | (intro x; refine Kept.isFun (f := x) ?_; (try unfold x); clear x) | (intro x; first | refine Kept.sub (α := Ods) x ?_ | refine Kept.sub (α := Faults) x ?_ | refine Kept.sub (α := Shelves) x ?_ | refine Kept.sub (α := Epm) x ?_ | refine Kept.sub (α := Pcs) x ?_; (try unfold x); clear x) | (intro x; clear_value x) | intro _ | with_reducible apply Kept.id | lift_lets -underBinder | with_reducible apply State.needs_kept | with_reducible apply Kept.foldl | with_reducible apply Kept.foldl₁ | (split <;> (first | (rename_i e; with_reducible obtain ⟨rfl, e⟩ := Prod.mk.inj e) | with_reducible apply FstKept.pair)) | split | with_reducible refine Kept.upd (s := State.mk _ _ _ _ _ _ _ _ _ _ _ _ _ _ _ _ _ _ _ _ _ _) ?_ rfl rfl rfl rfl rfl rfl rfl rfl)

theorem State.getPiece_kept {p : List Instr} {x0 x1 x2 x3 x4} (h0 : Kept p x0) : FstKept p (State.getPiece x0 x1 x2 x3 x4) := by
  have e := Eq.refl (@State.getPiece); conv at e => rhs; delta State.getPiece
  refine of_body (a := @State.getPiece) (P := fun f => FstKept p (f x0 x1 x2 x3 x4)) (b := ?b) ?e ?h; case e => exact e
  clear e
  repeat' (first | with_reducible assumption | with_reducible exact Kept.upd ‹_› rfl rfl rfl rfl rfl rfl rfl rfl | (intro x; refine Kept.cut (p := p) (x := x) ?_ (fun hx => ?_); focus unfold x; rotate_left; clear_value x) | (intro x; refine Kept.isFun (f := x) ?_; (try unfold x); clear x) | (intro x; first | refine Kept.sub (α := Ods) x ?_ | refine Kept.sub (α := Faults) x ?_ | refine Kept.sub (α := Shelves) x ?_ | refine Kept.sub (α := Epm) x ?_ | refine Kept.sub (α := Pcs) x ?_; (try unfold x); clear x) | (intro x; clear_value x) | intro _ | with_reducible apply Kept.id | lift_lets -underBinder | with_reducible apply State.needs_kept | with_reducible apply State.wants_kept | with_reducible apply Kept.foldl | with_reducible apply Kept.foldl₁ | (split <;> (first | (rename_i e; with_reducible obtain ⟨rfl, e⟩ := Prod.mk.inj e) | with_reducible apply FstKept.pair)) | split | with_reducible refine Kept.upd (s := State.mk _ _ _ _ _ _ _ _ _ _ _ _ _ _ _ _ _ _ _ _ _ _) ?_ rfl rfl rfl rfl rfl rfl rfl rfl | with_reducible apply FstKept.pair | with_reducible apply SndKept.pair)
theorem State.getPiece_kept_eq {p : List Instr} {x0 x1 x2 x3 x4} {t r1 r2 r3} (e : State.getPiece x0 x1 x2 x3 x4 = (t, r1, r2, r3)) (h0 : Kept p x0) : Kept p t := by
  have k := (@State.getPiece_kept p x0 x1 x2 x3 x4 h0).out
  rw [e] at k; exact k

theorem State.devPut_kept {p : List Instr} {x0 x1 x2 x3 x4 x5} (h0 : Kept p x0) : Kept p (State.devPut x0 x1 x2 x3 x4 x5) := by
  have e := Eq.refl (@State.devPut); conv at e => rhs; delta State.devPut
  refine of_body (a := @State.devPut) (P := fun f => Kept p (f x0 x1 x2 x3 x4 x5)) (b := ?b) ?e ?h; case e => exact e
  clear e
  repeat' (first | with_reducible assumption | with_reducible exact Kept.upd ‹_› rfl rfl rfl rfl rfl rfl rfl rfl | (intro x; refine Kept.cut (p := p) (x := x) ?_ (fun hx => ?_); focus unfold x; rotate_left; clear_value x) | (intro x; refine Kept.isFun (f := x) ?_; (try unfold x); clear x) | (intro x; first | refine Kept.sub (α := Ods) x ?_ | refine Kept.sub (α := Faults) x ?_ | refine Kept.sub (α := Shelves) x ?_ | refine Kept.sub (α := Epm) x ?_ | refine Kept.sub (α := Pcs) x ?_; (try unfold x); clear x) | (intro x; clear_value x) | intro _ | with_reducible apply Kept.id | lift_lets -underBinder | with_reducible apply State.killResv_kept | with_reducible apply State.wrote_kept | with_reducible apply State.setSlice_kept | with_reducible apply State.backWrite_kept | with_reducible apply State.backMerge_kept | with_reducible apply Kept.foldl | with_reducible apply Kept.foldl₁ | (split <;> (first | (rename_i e; with_reducible obtain ⟨rfl, e⟩ := Prod.mk.inj e) | with_reducible apply FstKept.pair)) | split | with_reducible refine Kept.upd (s := State.mk _ _ _ _ _ _ _ _ _ _ _ _ _ _ _ _ _ _ _ _ _ _) ?_ rfl rfl rfl rfl rfl rfl rfl rfl)

theorem State.devWrite_kept {p : List Instr} {x0 x1 x2 x3 x4 x5} (h0 : Kept p x0) : FstKept p (State.devWrite x0 x1 x2 x3 x4 x5) := by
  delta State.devWrite
  repeat' (first | with_reducible assumption | with_reducible refine fun (_ : Kept p _) => ?_ | (split <;> (first |(first | with_reducible apply State.prepare_kept) | (rename_i e; with_reducible refine Kept.cut (p := p) (State.prepare_kept_eq e ?_) (fun hx => ?_)) | (rename_i e _; with_reducible refine Kept.cut (p := p) (State.prepare_kept_eq e ?_) (fun hx => ?_)) | (rename_i e _ _; with_reducible refine Kept.cut (p := p) (State.prepare_kept_eq e ?_) (fun hx => ?_)))) | with_reducible exact Kept.upd ‹_› rfl rfl rfl rfl rfl rfl rfl rfl | (intro x; refine Kept.cut (p := p) (x := x) ?_ (fun hx => ?_); focus unfold x; rotate_left; clear_value x) | (intro x; refine Kept.isFun (f := x) ?_; (try unfold x); clear x) | (intro x; first | refine Kept.sub (α := Ods) x ?_ | refine Kept.sub (α := Faults) x ?_ | refine Kept.sub (α := Shelves) x ?_ | refine Kept.sub (α := Epm) x ?_ | refine Kept.sub (α := Pcs) x ?_; (try unfold x); clear x) | (intro x; clear_value x) | intro _ | with_reducible apply Kept.id | lift_lets -underBinder | with_reducible apply State.ownerRefused_kept | with_reducible apply State.needs_kept | with_reducible apply State.prepare_kept | with_reducible refine (State.prepare_kept ?_).out | with_reducible apply State.devPut_kept | with_reducible apply State.wants_kept | with_reducible apply Kept.foldl | with_reducible apply Kept.foldl₁ | (split <;> (first | (rename_i e; with_reducible obtain ⟨rfl, e⟩ := Prod.mk.inj e) | with_reducible apply FstKept.pair)) | split | with_reducible refine Kept.upd (s := State.mk _ _ _ _ _ _ _ _ _ _ _ _ _ _ _ _ _ _ _ _ _ _) ?_ rfl rfl rfl rfl rfl rfl rfl rfl | with_reducible apply FstKept.pair | with_reducible apply SndKept.pair)
theorem State.devWrite_kept_eq {p : List Instr} {x0 x1 x2 x3 x4 x5} {t r1} (e : State.devWrite x0 x1 x2 x3 x4 x5 = (t, r1)) (h0 : Kept p x0) : Kept p t := by
  have k := (@State.devWrite_kept p x0 x1 x2 x3 x4 x5 h0).out
  rw [e] at k; exact k

theorem State.putPiece_kept {p : List Instr} {x0 x1 x2 x3 x4 x5} (h0 : Kept p x0) : FstKept p (State.putPiece x0 x1 x2 x3 x4 x5) := by
  have e := Eq.refl (@State.putPiece); conv at e => rhs; delta State.putPiece
  refine of_body (a := @State.putPiece) (P := fun f => FstKept p (f x0 x1 x2 x3 x4 x5)) (b := ?b) ?e ?h; case e => exact e
  clear e
  repeat' (first | with_reducible assumption | with_reducible exact Kept.upd ‹_› rfl rfl rfl rfl rfl rfl rfl rfl | (intro x; refine Kept.cut (p := p) (x := x) ?_ (fun hx => ?_); focus unfold x; rotate_left; clear_value x) | (intro x; refine Kept.isFun (f := x) ?_; (try unfold x); clear x) | (intro x; first | refine Kept.sub (α := Ods) x ?_ | refine Kept.sub (α := Faults) x ?_ | refine Kept.sub (α := Shelves) x ?_ | refine Kept.sub (α := Epm) x ?_ | refine Kept.sub (α := Pcs) x ?_; (try unfold x); clear x) | (intro x; clear_value x) | intro _ | with_reducible apply Kept.id | lift_lets -underBinder | with_reducible apply State.needs_kept | with_reducible apply State.wants_kept | with_reducible apply Kept.foldl | with_reducible apply Kept.foldl₁ | (split <;> (first | (rename_i e; with_reducible obtain ⟨rfl, e⟩ := Prod.mk.inj e) | with_reducible apply FstKept.pair)) | split | with_reducible refine Kept.upd (s := State.mk _ _ _ _ _ _ _ _ _ _ _ _ _ _ _ _ _ _ _ _ _ _) ?_ rfl rfl rfl rfl rfl rfl rfl rfl | with_reducible apply FstKept.pair | with_reducible apply SndKept.pair)
theorem State.putPiece_kept_eq {p : List Instr} {x0 x1 x2 x3 x4 x5} {t r1} (e : State.putPiece x0 x1 x2 x3 x4 x5 = (t, r1)) (h0 : Kept p x0) : Kept p t := by
  have k := (@State.putPiece_kept p x0 x1 x2 x3 x4 x5 h0).out
  rw [e] at k; exact k

theorem State.lineSwap_kept {p : List Instr} {x0 x1 x2 x3 x4} (h0 : Kept p x0) : FstKept p (State.lineSwap x0 x1 x2 x3 x4) := by
  have e := Eq.refl (@State.lineSwap); conv at e => rhs; delta State.lineSwap
  refine of_body (a := @State.lineSwap) (P := fun f => FstKept p (f x0 x1 x2 x3 x4)) (b := ?b) ?e ?h; case e => exact e
  clear e
  repeat' (first | with_reducible assumption | with_reducible refine fun (_ : Kept p _) => ?_ | (split <;> (first |(first | with_reducible apply State.prepare_kept) | (rename_i e; with_reducible refine Kept.cut (p := p) (State.prepare_kept_eq e ?_) (fun hx => ?_)) | (rename_i e _; with_reducible refine Kept.cut (p := p) (State.prepare_kept_eq e ?_) (fun hx => ?_)) | (rename_i e _ _; with_reducible refine Kept.cut (p := p) (State.prepare_kept_eq e ?_) (fun hx => ?_)))) | (rename_i e; (with_reducible refine Kept.cut (p := p) (State.install_kept_eq e ?_) (fun hx => ?_)) <;> clear e) | (rename_i e; (with_reducible refine Kept.cut (p := p) ((OptKept.findSome (p := p) (fun _ => ?_)).out _ e) (fun hx => ?_)) <;> clear e) | with_reducible exact Kept.upd ‹_› rfl rfl rfl rfl rfl rfl rfl rfl | (intro x; refine Kept.cut (p := p) (x := x) ?_ (fun hx => ?_); focus unfold x; rotate_left; clear_value x) | (intro x; refine OptKept.cut (p := p) (x := x) ?_ (fun hx => ?_); focus unfold x; rotate_left; clear_value x) | (intro x; refine Kept.isFun (f := x) ?_; (try unfold x); clear x) | (intro x; first | refine Kept.sub (α := Ods) x ?_ | refine Kept.sub (α := Faults) x ?_ | refine Kept.sub (α := Shelves) x ?_ | refine Kept.sub (α := Epm) x ?_ | refine Kept.sub (α := Pcs) x ?_; (try unfold x); clear x) | (intro x; clear_value x) | intro _ | with_reducible apply Kept.id | lift_lets -underBinder | with_reducible apply State.ownerRefused_kept | with_reducible apply State.needs_kept | with_reducible apply State.prepare_kept | with_reducible refine (State.prepare_kept ?_).out | with_reducible apply State.trained_kept | with_reducible apply State.killResv_kept | with_reducible apply State.sliceCount_kept | with_reducible apply State.setSlice_kept | with_reducible apply State.wants_kept | with_reducible apply State.pushOut_kept | with_reducible apply State.backMerge_kept | with_reducible apply State.install_kept | with_reducible apply OptKept.map | with_reducible refine OptKept.getD ?_ ?_ | with_reducible refine OptKept.findSome ?_ | with_reducible apply Kept.foldl | with_reducible apply Kept.foldl₁ | (split <;> (first | (rename_i e; with_reducible obtain ⟨rfl, e⟩ := Prod.mk.inj e) | with_reducible apply FstKept.pair)) | split | with_reducible refine Kept.upd (s := State.mk _ _ _ _ _ _ _ _ _ _ _ _ _ _ _ _ _ _ _ _ _ _) ?_ rfl rfl rfl rfl rfl rfl rfl rfl | with_reducible apply FstKept.pair | with_reducible apply SndKept.pair)
theorem State.lineSwap_kept_eq {p : List Instr} {x0 x1 x2 x3 x4} {t r1} (e : State.lineSwap x0 x1 x2 x3 x4 = (t, r1)) (h0 : Kept p x0) : Kept p t := by
  have k := (@State.lineSwap_kept p x0 x1 x2 x3 x4 h0).out
  rw [e] at k; exact k

theorem State.devRead_kept {p : List Instr} {x0 x1 x2 x3 x4} (h0 : Kept p x0) : FstKept p (State.devRead x0 x1 x2 x3 x4) := by
  delta State.devRead
  repeat' (first | with_reducible assumption | with_reducible refine fun (_ : Kept p _) => ?_ | (split <;> (first |(first | with_reducible apply State.prepare_kept) | (rename_i e; with_reducible refine Kept.cut (p := p) (State.prepare_kept_eq e ?_) (fun hx => ?_)) | (rename_i e _; with_reducible refine Kept.cut (p := p) (State.prepare_kept_eq e ?_) (fun hx => ?_)) | (rename_i e _ _; with_reducible refine Kept.cut (p := p) (State.prepare_kept_eq e ?_) (fun hx => ?_)))) | with_reducible exact Kept.upd ‹_› rfl rfl rfl rfl rfl rfl rfl rfl | (intro x; refine Kept.cut (p := p) (x := x) ?_ (fun hx => ?_); focus unfold x; rotate_left; clear_value x) | (intro x; refine Kept.isFun (f := x) ?_; (try unfold x); clear x) | (intro x; first | refine Kept.sub (α := Ods) x ?_ | refine Kept.sub (α := Faults) x ?_ | refine Kept.sub (α := Shelves) x ?_ | refine Kept.sub (α := Epm) x ?_ | refine Kept.sub (α := Pcs) x ?_; (try unfold x); clear x) | (intro x; clear_value x) | intro _ | with_reducible apply Kept.id | lift_lets -underBinder | with_reducible apply State.ownerRefused_kept | with_reducible apply State.needs_kept | with_reducible apply State.prepare_kept | with_reducible refine (State.prepare_kept ?_).out | with_reducible apply State.sliceCount_kept | with_reducible apply State.wants_kept | with_reducible apply Kept.foldl | with_reducible apply Kept.foldl₁ | (split <;> (first | (rename_i e; with_reducible obtain ⟨rfl, e⟩ := Prod.mk.inj e) | with_reducible apply FstKept.pair)) | split | with_reducible refine Kept.upd (s := State.mk _ _ _ _ _ _ _ _ _ _ _ _ _ _ _ _ _ _ _ _ _ _) ?_ rfl rfl rfl rfl rfl rfl rfl rfl | with_reducible apply FstKept.pair | with_reducible apply SndKept.pair)
theorem State.devRead_kept_eq {p : List Instr} {x0 x1 x2 x3 x4} {t r1 r2 r3} (e : State.devRead x0 x1 x2 x3 x4 = (t, r1, r2, r3)) (h0 : Kept p x0) : Kept p t := by
  have k := (@State.devRead_kept p x0 x1 x2 x3 x4 h0).out
  rw [e] at k; exact k

theorem State.readAt_kept {p : List Instr} {s : State} {who : Agent} {acid : Nat} {t : Target} {n : Nat} (h : Kept p s) :
    FstKept p (s.readAt who acid t n) := by
  unfold State.readAt
  generalize who.route t = u
  dsimp only
  split
  · exact ⟨h⟩
  · refine Kept.foldl₁ (fun s b oc h => ?_) h
    obtain ⟨d, q, e⟩ := b
    cases e <;> first | exact ⟨h⟩ | skip
    cases u
    · exact ⟨(State.devRead_kept h).out⟩
    all_goals exact ⟨(State.getPiece_kept h).out⟩
theorem State.readAt_kept_eq {p : List Instr} {s t : State} {who : Agent} {acid : Nat} {tg : Target} {n : Nat} {b q m}
    (e : s.readAt who acid tg n = (t, b, q, m)) (h : Kept p s) : Kept p t := by
  have k := (State.readAt_kept (who := who) (acid := acid) (t := tg) (n := n) h).out
  rw [e] at k; exact k

theorem State.toRouter_kept {p : List Instr} {x0 x1 x2} (h0 : Kept p x0) : Kept p (State.toRouter x0 x1 x2) := by
  delta State.toRouter
  repeat' (first | with_reducible assumption | with_reducible refine fun (_ : Kept p _) => ?_ | (split <;> (first |(first | with_reducible apply State.fresh_kept) | (rename_i e; with_reducible refine Kept.cut (p := p) (State.fresh_kept_eq e ?_) (fun hx => ?_)) | (rename_i e _; with_reducible refine Kept.cut (p := p) (State.fresh_kept_eq e ?_) (fun hx => ?_)) | (rename_i e _ _; with_reducible refine Kept.cut (p := p) (State.fresh_kept_eq e ?_) (fun hx => ?_)))) | with_reducible exact Kept.upd ‹_› rfl rfl rfl rfl rfl rfl rfl rfl | (intro x; refine Kept.cut (p := p) (x := x) ?_ (fun hx => ?_); focus unfold x; rotate_left; clear_value x) | (intro x; refine Kept.isFun (f := x) ?_; (try unfold x); clear x) | (intro x; first | refine Kept.sub (α := Ods) x ?_ | refine Kept.sub (α := Faults) x ?_ | refine Kept.sub (α := Shelves) x ?_ | refine Kept.sub (α := Epm) x ?_ | refine Kept.sub (α := Pcs) x ?_; (try unfold x); clear x) | (intro x; clear_value x) | intro _ | with_reducible apply Kept.id | lift_lets -underBinder | with_reducible apply State.fresh_kept | with_reducible refine (State.fresh_kept ?_).out | with_reducible apply Kept.foldl | with_reducible apply Kept.foldl₁ | (split <;> (first | (rename_i e; with_reducible obtain ⟨rfl, e⟩ := Prod.mk.inj e) | with_reducible apply FstKept.pair)) | split | with_reducible refine Kept.upd (s := State.mk _ _ _ _ _ _ _ _ _ _ _ _ _ _ _ _ _ _ _ _ _ _) ?_ rfl rfl rfl rfl rfl rfl rfl rfl)

theorem State.done_kept {p : List Instr} {x0 x1} (h1 : Kept p x1) : Kept p (State.done x0 x1) := by
  have e := Eq.refl (@State.done); conv at e => rhs; delta State.done
  refine of_body (a := @State.done) (P := fun f => Kept p (f x0 x1)) (b := ?b) ?e ?h; case e => exact e
  clear e
  repeat' (first | with_reducible assumption | with_reducible exact Kept.upd ‹_› rfl rfl rfl rfl rfl rfl rfl rfl | (intro x; refine Kept.cut (p := p) (x := x) ?_ (fun hx => ?_); focus unfold x; rotate_left; clear_value x) | (intro x; refine Kept.isFun (f := x) ?_; (try unfold x); clear x) | (intro x; first | refine Kept.sub (α := Ods) x ?_ | refine Kept.sub (α := Faults) x ?_ | refine Kept.sub (α := Shelves) x ?_ | refine Kept.sub (α := Epm) x ?_ | refine Kept.sub (α := Pcs) x ?_; (try unfold x); clear x) | (intro x; clear_value x) | intro _ | with_reducible apply Kept.id | lift_lets -underBinder | with_reducible apply State.devPut_kept | with_reducible apply Kept.foldl | with_reducible apply Kept.foldl₁ | (split <;> (first | (rename_i e; with_reducible obtain ⟨rfl, e⟩ := Prod.mk.inj e) | with_reducible apply FstKept.pair)) | split | with_reducible refine Kept.upd (s := State.mk _ _ _ _ _ _ _ _ _ _ _ _ _ _ _ _ _ _ _ _ _ _) ?_ rfl rfl rfl rfl rfl rfl rfl rfl)

theorem State.fabRequest_kept {p : List Instr} {x0 x1 x2 x3 x4 x5 x6 x7} (h0 : Kept p x0) : OptKept p (State.fabRequest x0 x1 x2 x3 x4 x5 x6 x7) := by
  delta State.fabRequest
  repeat' (first | with_reducible assumption | with_reducible exact Kept.upd ‹_› rfl rfl rfl rfl rfl rfl rfl rfl | (intro x; refine Kept.cut (p := p) (x := x) ?_ (fun hx => ?_); focus unfold x; rotate_left; clear_value x) | (intro x; refine OptKept.cut (p := p) (x := x) ?_ (fun hx => ?_); focus unfold x; rotate_left; clear_value x) | (intro x; refine Kept.isFun (f := x) ?_; (try unfold x); clear x) | (intro x; first | refine Kept.sub (α := Ods) x ?_ | refine Kept.sub (α := Faults) x ?_ | refine Kept.sub (α := Shelves) x ?_ | refine Kept.sub (α := Epm) x ?_ | refine Kept.sub (α := Pcs) x ?_; (try unfold x); clear x) | (intro x; clear_value x) | intro _ | with_reducible apply Kept.id | lift_lets -underBinder | with_reducible apply State.toRouter_kept | with_reducible apply OptKept.none | with_reducible apply OptKept.some | with_reducible apply OptKept.map | with_reducible apply Kept.foldl | with_reducible apply Kept.foldl₁ | (split <;> (first | (rename_i e; with_reducible obtain ⟨rfl, e⟩ := Prod.mk.inj e) | with_reducible apply FstKept.pair)) | split | with_reducible refine Kept.upd (s := State.mk _ _ _ _ _ _ _ _ _ _ _ _ _ _ _ _ _ _ _ _ _ _) ?_ rfl rfl rfl rfl rfl rfl rfl rfl)
theorem State.fabRequest_kept_eq {p : List Instr} {x0 x1 x2 x3 x4 x5 x6 x7} {t} (e : State.fabRequest x0 x1 x2 x3 x4 x5 x6 x7 = some t) (h0 : Kept p x0) : Kept p t :=
  (@State.fabRequest_kept p x0 x1 x2 x3 x4 x5 x6 x7 h0).out _ e

theorem State.writeAt_kept {p : List Instr} {s : State} {who : Agent} {acid : Nat} {t : Target} {b : Bytes} {q : Bool} (h : Kept p s) :
    FstKept p (s.writeAt who acid t b q) := by
  unfold State.writeAt
  generalize who.route t = u
  dsimp only
  split
  · exact ⟨h⟩
  · refine Kept.foldl₁ (fun s e oc h => ?_) h
    cases e <;> first | exact ⟨h⟩ | skip
    cases u
    · exact State.devWrite_kept h
    all_goals exact State.putPiece_kept h
theorem State.writeAt_kept_eq {p : List Instr} {s t : State} {who : Agent} {acid : Nat} {tg : Target} {b : Bytes} {q : Bool} {m}
    (e : s.writeAt who acid tg b q = (t, m)) (h : Kept p s) : Kept p t := by
  have k := (State.writeAt_kept (who := who) (acid := acid) (t := tg) (b := b) (q := q) h).out
  rw [e] at k; exact k

end Sys2Proof.Machine
end

