-- ==== Sys2Proof/Laws/KeptJob.lean ====
section
/-! SUPPORT. The operations and meanings of Machine/Job.lean keep the queue and the rules of `Inv`. -/
namespace Sys2Proof.Machine

/-- A job keeps them, however it ends. -/
structure JobKept {α : Type} (p : List Instr) (j : Job α) : Prop where
  out : ∀ s, Kept p s → Kept p (j.go s).2

theorem JobKept.pure {α : Type} {p : List Instr} {a : α} : JobKept p (Pure.pure a : Job α) := ⟨fun _ h => h⟩

theorem JobKept.throw {α : Type} {p : List Instr} {e : Nat} : JobKept p (MonadExcept.throw e : Job α) := ⟨fun _ h => h⟩

theorem JobKept.set {p : List Instr} {s : State} (h : Kept p s) : JobKept p (MonadStateOf.set s : Job PUnit) := ⟨fun _ _ => h⟩

theorem JobKept.modify {p : List Instr} {f : State → State} (hf : ∀ s, Kept p s → Kept p (f s)) :
    JobKept p (modify f : Job PUnit) := ⟨fun s h => hf s h⟩

theorem JobKept.bind {α β : Type} {p : List Instr} {j : Job α} {f : α → Job β} (hj : JobKept p j) (hf : ∀ a, JobKept p (f a)) :
    JobKept p (j >>= f) := by
  refine ⟨fun s h => ?_⟩
  have k := hj.out s h
  have e : (j >>= f).go s = (match j.go s with
                             | (.ok a, t) => (f a).go t
                             | (.error r, t) => (.error r, t)) := by
    simp only [Job.go, ExceptT.run, StateT.run, Bind.bind, ExceptT.bind, ExceptT.mk, StateT.bind, ExceptT.bindCont]
    rcases j s with ⟨r | a, t⟩ <;> rfl
  rw [e]
  generalize j.go s = r at k
  obtain ⟨r, t⟩ := r
  cases r with
  | ok a => exact (hf a).out t k
  | error r => exact k

theorem JobKept.get {β : Type} {p : List Instr} {f : State → Job β} (hf : ∀ s, Kept p s → JobKept p (f s)) :
    JobKept p (MonadState.get >>= f) := ⟨fun s h => (hf s h).out s h⟩

theorem JobKept.ite {α : Type} {p : List Instr} {a b : Job α} {c : Prop} [Decidable c] (h1 : JobKept p a) (h2 : JobKept p b) :
    JobKept p (if c then a else b) := by split <;> assumption

theorem JobKept.eq {α : Type} {p : List Instr} {j : Job α} {s t : State} {r : Except Nat α} (e : j.go s = (r, t))
    (hj : JobKept p j) (h : Kept p s) : Kept p t := by
  have k := hj.out s h
  rw [e] at k; exact k

theorem JobKept.isFun {α β : Type} {f : α → β} {Q : Prop} (h : Q) : Q := f |> fun _ => h

theorem State.jobFault_kept {p : List Instr} {x0 x1 x2 x3 x4 x5 x6} (h0 : Kept p x0) : Kept p (State.jobFault x0 x1 x2 x3 x4 x5 x6) := by
  delta State.jobFault
  repeat' (first | with_reducible assumption | with_reducible exact Kept.upd ‹_› rfl rfl rfl rfl rfl rfl rfl rfl | (intro x; refine Kept.cut (p := p) (x := x) ?_ (fun hx => ?_); focus unfold x; rotate_left; clear_value x) | (intro x; refine Kept.isFun (f := x) ?_; (try unfold x); clear x) | (intro x; first | refine Kept.sub (α := Ods) x ?_ | refine Kept.sub (α := Faults) x ?_ | refine Kept.sub (α := Shelves) x ?_ | refine Kept.sub (α := Epm) x ?_ | refine Kept.sub (α := Pcs) x ?_; (try unfold x); clear x) | (intro x; clear_value x) | intro _ | with_reducible apply Kept.id | lift_lets -underBinder | with_reducible apply State.engineFault_kept | with_reducible apply State.setRing_kept | with_reducible apply State.setEvRing_kept | with_reducible apply Kept.foldl | with_reducible apply Kept.foldl₁ | (split <;> (first | (rename_i e; with_reducible obtain ⟨rfl, e⟩ := Prod.mk.inj e) | with_reducible apply FstKept.pair)) | split | with_reducible refine Kept.upd (s := State.mk _ _ _ _ _ _ _ _ _ _ _ _ _ _ _ _ _ _ _ _ _ _) ?_ rfl rfl rfl rfl rfl rfl rfl rfl)

theorem jReadP_kept {p : List Instr} {x0 x1 x2 x3}  : JobKept p (jReadP x0 x1 x2 x3) := by
  delta jReadP
  repeat' (first | with_reducible assumption | with_reducible refine fun (_ : Kept p _) => ?_ | (split <;> (first |(first | with_reducible apply State.vread_kept) | (rename_i e; with_reducible refine Kept.cut (p := p) (State.vread_kept_eq e ?_) (fun hx => ?_)) | (rename_i e _; with_reducible refine Kept.cut (p := p) (State.vread_kept_eq e ?_) (fun hx => ?_)) | (rename_i e _ _; with_reducible refine Kept.cut (p := p) (State.vread_kept_eq e ?_) (fun hx => ?_)))) | with_reducible exact Kept.upd ‹_› rfl rfl rfl rfl rfl rfl rfl rfl | (intro x; refine Kept.cut (p := p) (x := x) ?_ (fun hx => ?_); focus unfold x; rotate_left; clear_value x) | (intro x; refine Kept.isFun (f := x) ?_; (try unfold x); clear x) | (intro x; first | refine Kept.sub (α := Ods) x ?_ | refine Kept.sub (α := Faults) x ?_ | refine Kept.sub (α := Shelves) x ?_ | refine Kept.sub (α := Epm) x ?_ | refine Kept.sub (α := Pcs) x ?_; (try unfold x); clear x) | (intro x; clear_value x) | intro _ | with_reducible apply Kept.id | lift_lets -underBinder | with_reducible apply State.vread_kept | with_reducible refine (State.vread_kept ?_).out | with_reducible apply State.jobFault_kept | with_reducible exact JobKept.pure | with_reducible exact JobKept.throw | with_reducible refine JobKept.get ?_ | with_reducible refine JobKept.bind ?_ ?_ | with_reducible refine JobKept.set ?_ | with_reducible refine JobKept.modify ?_ | with_reducible refine JobKept.ite ?_ ?_ | with_reducible apply Kept.foldl | with_reducible apply Kept.foldl₁ | (split <;> (first | (rename_i e; with_reducible obtain ⟨rfl, e⟩ := Prod.mk.inj e) | with_reducible apply FstKept.pair)) | split | with_reducible refine Kept.upd (s := State.mk _ _ _ _ _ _ _ _ _ _ _ _ _ _ _ _ _ _ _ _ _ _) ?_ rfl rfl rfl rfl rfl rfl rfl rfl)

theorem jRead_kept {p : List Instr} {x0 x1 x2 x3}  : JobKept p (jRead x0 x1 x2 x3) := by
  delta jRead
  repeat' (first | with_reducible assumption | with_reducible refine fun (_ : Kept p _) => ?_ | with_reducible exact Kept.upd ‹_› rfl rfl rfl rfl rfl rfl rfl rfl | (intro x; refine Kept.cut (p := p) (x := x) ?_ (fun hx => ?_); focus unfold x; rotate_left; clear_value x) | (intro x; refine Kept.isFun (f := x) ?_; (try unfold x); clear x) | (intro x; first | refine Kept.sub (α := Ods) x ?_ | refine Kept.sub (α := Faults) x ?_ | refine Kept.sub (α := Shelves) x ?_ | refine Kept.sub (α := Epm) x ?_ | refine Kept.sub (α := Pcs) x ?_; (try unfold x); clear x) | (intro x; clear_value x) | intro _ | with_reducible apply Kept.id | lift_lets -underBinder | with_reducible exact jReadP_kept | with_reducible exact JobKept.pure | with_reducible exact JobKept.throw | with_reducible refine JobKept.get ?_ | with_reducible refine JobKept.bind ?_ ?_ | with_reducible refine JobKept.set ?_ | with_reducible refine JobKept.modify ?_ | with_reducible refine JobKept.ite ?_ ?_ | with_reducible apply Kept.foldl | with_reducible apply Kept.foldl₁ | (split <;> (first | (rename_i e; with_reducible obtain ⟨rfl, e⟩ := Prod.mk.inj e) | with_reducible apply FstKept.pair)) | split | with_reducible refine Kept.upd (s := State.mk _ _ _ _ _ _ _ _ _ _ _ _ _ _ _ _ _ _ _ _ _ _) ?_ rfl rfl rfl rfl rfl rfl rfl rfl)

theorem jWrite_kept {p : List Instr} {x0 x1 x2 x3 x4}  : JobKept p (jWrite x0 x1 x2 x3 x4) := by
  delta jWrite
  repeat' (first | with_reducible assumption | with_reducible refine fun (_ : Kept p _) => ?_ | (split <;> (first |(first | with_reducible apply State.vwrite_kept) | (rename_i e; with_reducible refine Kept.cut (p := p) (State.vwrite_kept_eq e ?_) (fun hx => ?_)) | (rename_i e _; with_reducible refine Kept.cut (p := p) (State.vwrite_kept_eq e ?_) (fun hx => ?_)) | (rename_i e _ _; with_reducible refine Kept.cut (p := p) (State.vwrite_kept_eq e ?_) (fun hx => ?_)))) | with_reducible exact Kept.upd ‹_› rfl rfl rfl rfl rfl rfl rfl rfl | (intro x; refine Kept.cut (p := p) (x := x) ?_ (fun hx => ?_); focus unfold x; rotate_left; clear_value x) | (intro x; refine Kept.isFun (f := x) ?_; (try unfold x); clear x) | (intro x; first | refine Kept.sub (α := Ods) x ?_ | refine Kept.sub (α := Faults) x ?_ | refine Kept.sub (α := Shelves) x ?_ | refine Kept.sub (α := Epm) x ?_ | refine Kept.sub (α := Pcs) x ?_; (try unfold x); clear x) | (intro x; clear_value x) | intro _ | with_reducible apply Kept.id | lift_lets -underBinder | with_reducible apply State.vwrite_kept | with_reducible refine (State.vwrite_kept ?_).out | with_reducible apply State.jobFault_kept | with_reducible exact JobKept.pure | with_reducible exact JobKept.throw | with_reducible refine JobKept.get ?_ | with_reducible refine JobKept.bind ?_ ?_ | with_reducible refine JobKept.set ?_ | with_reducible refine JobKept.modify ?_ | with_reducible refine JobKept.ite ?_ ?_ | with_reducible apply Kept.foldl | with_reducible apply Kept.foldl₁ | (split <;> (first | (rename_i e; with_reducible obtain ⟨rfl, e⟩ := Prod.mk.inj e) | with_reducible apply FstKept.pair)) | split | with_reducible refine Kept.upd (s := State.mk _ _ _ _ _ _ _ _ _ _ _ _ _ _ _ _ _ _ _ _ _ _) ?_ rfl rfl rfl rfl rfl rfl rfl rfl)

theorem State.allDev_kept {p : List Instr} {x0 x1 x2 x3 x4} (h0 : Kept p x0) : FstKept p (State.allDev x0 x1 x2 x3 x4) := by
  have e := Eq.refl (@State.allDev); conv at e => rhs; delta State.allDev
  refine of_body (a := @State.allDev) (P := fun f => FstKept p (f x0 x1 x2 x3 x4)) (b := ?b) ?e ?h; case e => exact e
  clear e
  repeat' (first | with_reducible assumption | with_reducible refine fun (_ : Kept p _) => ?_ | (split <;> (first |(first | with_reducible apply State.xlateNow_kept) | (rename_i e; with_reducible refine Kept.cut (p := p) (State.xlateNow_kept_eq e ?_) (fun hx => ?_)) | (rename_i e _; with_reducible refine Kept.cut (p := p) (State.xlateNow_kept_eq e ?_) (fun hx => ?_)) | (rename_i e _ _; with_reducible refine Kept.cut (p := p) (State.xlateNow_kept_eq e ?_) (fun hx => ?_)))) | with_reducible exact Kept.upd ‹_› rfl rfl rfl rfl rfl rfl rfl rfl | (intro x; refine Kept.cut (p := p) (x := x) ?_ (fun hx => ?_); focus unfold x; rotate_left; clear_value x) | (intro x; refine Kept.isFun (f := x) ?_; (try unfold x); clear x) | (intro x; first | refine Kept.sub (α := Ods) x ?_ | refine Kept.sub (α := Faults) x ?_ | refine Kept.sub (α := Shelves) x ?_ | refine Kept.sub (α := Epm) x ?_ | refine Kept.sub (α := Pcs) x ?_; (try unfold x); clear x) | (intro x; clear_value x) | intro _ | with_reducible apply Kept.id | lift_lets -underBinder | with_reducible apply State.xlateNow_kept | with_reducible refine (State.xlateNow_kept ?_).out | with_reducible apply Kept.foldl | with_reducible apply Kept.foldl₁ | (split <;> (first | (rename_i e; with_reducible obtain ⟨rfl, e⟩ := Prod.mk.inj e) | with_reducible apply FstKept.pair)) | split | with_reducible refine Kept.upd (s := State.mk _ _ _ _ _ _ _ _ _ _ _ _ _ _ _ _ _ _ _ _ _ _) ?_ rfl rfl rfl rfl rfl rfl rfl rfl | with_reducible apply FstKept.pair | with_reducible apply SndKept.pair)
theorem State.allDev_kept_eq {p : List Instr} {x0 x1 x2 x3 x4} {t r1} (e : State.allDev x0 x1 x2 x3 x4 = (t, r1)) (h0 : Kept p x0) : Kept p t := by
  have k := (@State.allDev_kept p x0 x1 x2 x3 x4 h0).out
  rw [e] at k; exact k

theorem jHome_kept {p : List Instr} {x0 x1 x2 x3}  : JobKept p (jHome x0 x1 x2 x3) := by
  delta jHome
  repeat' (first | with_reducible assumption | with_reducible refine fun (_ : Kept p _) => ?_ | (split <;> (first |(first | with_reducible apply State.allDev_kept) | (rename_i e; with_reducible refine Kept.cut (p := p) (State.allDev_kept_eq e ?_) (fun hx => ?_)) | (rename_i e _; with_reducible refine Kept.cut (p := p) (State.allDev_kept_eq e ?_) (fun hx => ?_)) | (rename_i e _ _; with_reducible refine Kept.cut (p := p) (State.allDev_kept_eq e ?_) (fun hx => ?_)))) | with_reducible exact Kept.upd ‹_› rfl rfl rfl rfl rfl rfl rfl rfl | (intro x; refine Kept.cut (p := p) (x := x) ?_ (fun hx => ?_); focus unfold x; rotate_left; clear_value x) | (intro x; refine Kept.isFun (f := x) ?_; (try unfold x); clear x) | (intro x; first | refine Kept.sub (α := Ods) x ?_ | refine Kept.sub (α := Faults) x ?_ | refine Kept.sub (α := Shelves) x ?_ | refine Kept.sub (α := Epm) x ?_ | refine Kept.sub (α := Pcs) x ?_; (try unfold x); clear x) | (intro x; clear_value x) | intro _ | with_reducible apply Kept.id | lift_lets -underBinder | with_reducible apply State.allDev_kept | with_reducible refine (State.allDev_kept ?_).out | with_reducible exact JobKept.pure | with_reducible exact JobKept.throw | with_reducible refine JobKept.get ?_ | with_reducible refine JobKept.bind ?_ ?_ | with_reducible refine JobKept.set ?_ | with_reducible refine JobKept.modify ?_ | with_reducible refine JobKept.ite ?_ ?_ | with_reducible apply Kept.foldl | with_reducible apply Kept.foldl₁ | (split <;> (first | (rename_i e; with_reducible obtain ⟨rfl, e⟩ := Prod.mk.inj e) | with_reducible apply FstKept.pair)) | split | with_reducible refine Kept.upd (s := State.mk _ _ _ _ _ _ _ _ _ _ _ _ _ _ _ _ _ _ _ _ _ _) ?_ rfl rfl rfl rfl rfl rfl rfl rfl)

theorem jSwap_kept {p : List Instr} {x0 x1 x2 x3}  : JobKept p (jSwap x0 x1 x2 x3) := by
  delta jSwap
  repeat' (first | with_reducible assumption | with_reducible refine fun (_ : Kept p _) => ?_ | (split <;> (first |(first | with_reducible apply State.xlateNow_kept | with_reducible apply State.lineSwap_kept | with_reducible apply State.writeAt_kept) | (rename_i e; (first | with_reducible refine Kept.cut (p := p) (State.xlateNow_kept_eq e ?_) (fun hx => ?_) | with_reducible refine Kept.cut (p := p) (State.lineSwap_kept_eq e ?_) (fun hx => ?_) | with_reducible refine Kept.cut (p := p) (State.writeAt_kept_eq e ?_) (fun hx => ?_))) | (rename_i e _; (first | with_reducible refine Kept.cut (p := p) (State.xlateNow_kept_eq e ?_) (fun hx => ?_) | with_reducible refine Kept.cut (p := p) (State.lineSwap_kept_eq e ?_) (fun hx => ?_) | with_reducible refine Kept.cut (p := p) (State.writeAt_kept_eq e ?_) (fun hx => ?_))) | (rename_i e _ _; (first | with_reducible refine Kept.cut (p := p) (State.xlateNow_kept_eq e ?_) (fun hx => ?_) | with_reducible refine Kept.cut (p := p) (State.lineSwap_kept_eq e ?_) (fun hx => ?_) | with_reducible refine Kept.cut (p := p) (State.writeAt_kept_eq e ?_) (fun hx => ?_))))) | with_reducible exact Kept.upd ‹_› rfl rfl rfl rfl rfl rfl rfl rfl | (intro x; refine Kept.cut (p := p) (x := x) ?_ (fun hx => ?_); focus unfold x; rotate_left; clear_value x) | (intro x; refine Kept.isFun (f := x) ?_; (try unfold x); clear x) | (intro x; first | refine Kept.sub (α := Ods) x ?_ | refine Kept.sub (α := Faults) x ?_ | refine Kept.sub (α := Shelves) x ?_ | refine Kept.sub (α := Epm) x ?_ | refine Kept.sub (α := Pcs) x ?_; (try unfold x); clear x) | (intro x; clear_value x) | intro _ | with_reducible apply Kept.id | lift_lets -underBinder | with_reducible apply State.xlateNow_kept | with_reducible refine (State.xlateNow_kept ?_).out | with_reducible apply State.lineSwap_kept | with_reducible refine (State.lineSwap_kept ?_).out | with_reducible apply State.writeAt_kept | with_reducible refine (State.writeAt_kept ?_).out | with_reducible apply State.markPage_kept | with_reducible apply State.jobFault_kept | with_reducible exact JobKept.pure | with_reducible exact JobKept.throw | with_reducible refine JobKept.get ?_ | with_reducible refine JobKept.bind ?_ ?_ | with_reducible refine JobKept.set ?_ | with_reducible refine JobKept.modify ?_ | with_reducible refine JobKept.ite ?_ ?_ | with_reducible apply Kept.foldl | with_reducible apply Kept.foldl₁ | (split <;> (first | (rename_i e; with_reducible obtain ⟨rfl, e⟩ := Prod.mk.inj e) | with_reducible apply FstKept.pair)) | split | with_reducible refine Kept.upd (s := State.mk _ _ _ _ _ _ _ _ _ _ _ _ _ _ _ _ _ _ _ _ _ _) ?_ rfl rfl rfl rfl rfl rfl rfl rfl)

end Sys2Proof.Machine
end

