-- ==== Sys2Proof/Laws/KeptStep.lean ====
section
/-! SUPPORT. Every command keeps the rules of `Inv` and leaves the queue alone. -/
namespace Sys2Proof.Machine

/-- A command answers a next state, in which the queue is as before and the rules hold. -/
theorem exec_kept {p : List Instr} {c : Instr} {s : State} (h : Kept p s) : Lands p (exec c s) := by
  cases c with
  | mbxDoorbell _ _ => exact execMbxDoorbell_kept h
  | oPathRequest _ _ => exact execOPathRequest_kept h
  | fPathRequest _ _ => exact execFPathRequest_kept h
  | dictRead _ => exact execDictRead_kept h
  | dictWrite => exact execDictWrite_kept h
  | dictStage => exact execDictStage_kept h
  | dictCommit => exact execDictCommit_kept h
  | dictCommitArmed => exact execDictCommitArmed_kept h
  | dictAbort => exact execDictAbort_kept h
  | dictAbortArmed => exact execDictAbortArmed_kept h
  | dictClaim => exact execDictClaim_kept h
  | dictRelease => exact execDictRelease_kept h
  | claimLeaseExpiry _ => exact execClaimLeaseExpiry_kept h
  | stageLeaseExpiry => exact execStageLeaseExpiry_kept h
  | trestleFire _ => exact execTrestleFire_kept h
  | clearRefusals => exact execClearRefusals_kept h
  | sqTailDoorbell _ _ _ _ => exact execSqTailDoorbell_kept h
  | cqHeadDoorbell _ _ _ _ => exact execCqHeadDoorbell_kept h
  | descriptorFetch _ => exact execDescriptorFetch_kept h
  | descriptorReadReturn _ => exact execDescriptorReadReturn_kept h
  | descriptorReread _ => exact execDescriptorReread_kept h
  | queueStall _ => exact execQueueStall_kept h
  | queueResume => exact execQueueResume_kept h
  | queueClear => exact execQueueClear_kept h
  | requestPolice _ _ => exact execRequestPolice_kept h
  | requestBind _ _ => exact execRequestBind_kept h
  | requestRecordAck _ => exact execRequestRecordAck_kept h
  | taskComplete _ => exact execTaskComplete_kept h
  | completionWrite _ => exact execCompletionWrite_kept h
  | completionWriteAck _ => exact execCompletionWriteAck_kept h
  | requestEnd _ => exact execRequestEnd_kept h
  | classClear => exact execClassClear_kept h
  | forcedAdmissionTest => exact execForcedAdmissionTest_kept h
  | sessionBind _ _ => exact execSessionBind_kept h
  | drawerReload _ => exact execDrawerReload_kept h
  | drawerSpill => exact execDrawerSpill_kept h
  | evRingTailWrite => exact execEvRingTailWrite_kept h
  | evBatchStart => exact execEvBatchStart_kept h
  | evRingReread _ => exact execEvRingReread_kept h
  | evRingStall _ => exact execEvRingStall_kept h
  | eventAppend _ => exact execEventAppend_kept h
  | sessionEndApply _ => exact execSessionEndApply_kept h
  | evBatchComplete _ => exact execEvBatchComplete_kept h
  | sessionExpire _ => exact execSessionExpire_kept h
  | summaryRebuild _ _ => exact execSummaryRebuild_kept h
  | hseScanAccept _ => exact execHseScanAccept_kept h
  | hseScanStart _ => exact execHseScanStart_kept h
  | hseLineArrive _ _ _ => exact execHseLineArrive_kept h
  | hseScanComplete _ => exact execHseScanComplete_kept h
  | ssuClear => exact execSsuClear_kept h
  | ssuResume => exact execSsuResume_kept h
  | sessionQuery => exact execSessionQuery_kept h
  | ringTailWrite => exact execRingTailWrite_kept h
  | epmBatchStart => exact execEpmBatchStart_kept h
  | ringReread _ => exact execRingReread_kept h
  | ringStall _ => exact execRingStall_kept h
  | batchRowApply _ => exact execBatchRowApply_kept h
  | batchComplete _ => exact execBatchComplete_kept h
  | epmFlip => exact execEpmFlip_kept h
  | epochRefusedReceive _ => exact execEpochRefusedReceive_kept h
  | drainComplete _ => exact execDrainComplete_kept h
  | compactionStep _ => exact execCompactionStep_kept h
  | compactionEnd _ => exact execCompactionEnd_kept h
  | epmDiscard => exact execEpmDiscard_kept h
  | discardSweepEnd _ => exact execDiscardSweepEnd_kept h
  | ringResume => exact execRingResume_kept h
  | epmResumeTable => exact execEpmResumeTable_kept h
  | gpeCommandEnqueue _ => exact execGpeCommandEnqueue_kept h
  | gatherCommandStart _ => exact execGatherCommandStart_kept h
  | gpeLineReadIssue _ => exact execGpeLineReadIssue_kept h
  | gpeLineArrive _ _ _ => exact execGpeLineArrive_kept h
  | gatherCommandComplete _ => exact execGatherCommandComplete_kept h
  | pdRequestSend _ => exact execPdRequestSend_kept h
  | pdRequestArrive _ => exact execPdRequestArrive_kept h
  | pdPartStart => exact execPdPartStart_kept h
  | pdResponseReceive _ => exact execPdResponseReceive_kept h
  | pdSlotTimeout _ _ => exact execPdSlotTimeout_kept h
  | gpeClear => exact execGpeClear_kept h
  | tableClear => exact execTableClear_kept h
  | mma _ => exact execMma_kept h
  | mmaComplete _ _ => exact execMmaComplete_kept h
  | vaddVsubVmulVfma _ => exact execVaddVsubVmulVfma_kept h
  | vminVmax _ => exact execVminVmax_kept h
  | vcmpeqVcmpltVcmple _ => exact execVcmpeqVcmpltVcmple_kept h
  | vselVmovVbcast _ => exact execVselVmovVbcast_kept h
  | vrcpVrsqVsqrtVexp2Vlog2 _ => exact execVrcpVrsqVsqrtVexp2Vlog2_kept h
  | vredaddVredmax _ => exact execVredaddVredmax_kept h
  | cvt _ => exact execCvt_kept h
  | tnarrow _ => exact execTnarrow_kept h
  | twiden _ => exact execTwiden_kept h
  | histRd _ => exact execHistRd_kept h
  | histClr _ => exact execHistClr_kept h
  | streamOpComplete _ => exact execStreamOpComplete_kept h
  | vld _ _ => exact execVld_kept h
  | vst _ => exact execVst_kept h
  | ld _ => exact execLd_kept h
  | st _ => exact execSt_kept h
  | lds _ => exact execLds_kept h
  | sts _ => exact execSts_kept h
  | ldp _ => exact execLdp_kept h
  | stp _ => exact execStp_kept h
  | ldr _ => exact execLdr_kept h
  | stc _ => exact execStc_kept h
  | fetchAtomic _ => exact execFetchAtomic_kept h
  | acas _ => exact execAcas_kept h
  | gpost _ => exact execGpost_kept h
  | hpost _ => exact execHpost_kept h
  | barL _ => exact execBarL_kept h
  | barS _ => exact execBarS_kept h
  | barA _ => exact execBarA_kept h
  | xfuTransferIssue _ => exact execXfuTransferIssue_kept h
  | xferComplete _ _ => exact execXferComplete_kept h
  | xferTimeout _ _ => exact execXferTimeout_kept h
  | reservationTimeout _ _ => exact execReservationTimeout_kept h
  | addSubMul _ => exact execAddSubMul_kept h
  | andOrXor _ => exact execAndOrXor_kept h
  | shlShrSra _ => exact execShlShrSra_kept h
  | sltSltu _ => exact execSltSltu_kept h
  | sel _ => exact execSel_kept h
  | addi _ => exact execAddi_kept h
  | shori _ => exact execShori_kept h
  | xlane _ => exact execXlane_kept h
  | waitGrp _ => exact execWaitGrp_kept h
  | endSeg _ => exact execEndSeg_kept h
  | gtcr _ => exact execGtcr_kept h
  | csrr _ => exact execCsrr_kept h
  | contextPick _ _ => exact execContextPick_kept h
  | contextRelease _ _ => exact execContextRelease_kept h
  | trapStart _ => exact execTrapStart_kept h
  | tileSwap => exact execTileSwap_kept h
  | spareCheckEnd _ => exact execSpareCheckEnd_kept h
  | swapRemap => exact execSwapRemap_kept h
  | tileClear => exact execTileClear_kept h
  | numClear => exact execNumClear_kept h
  | histClear => exact execHistClear_kept h
  | progLoad => exact execProgLoad_kept h
  | progLoadDone => exact execProgLoadDone_kept h
  | progUnload => exact execProgUnload_kept h
  | cabClear => exact execCabClear_kept h
  | lockRun => exact execLockRun_kept h
  | lockRunEnd => exact execLockRunEnd_kept h
  | detClear => exact execDetClear_kept h
  | sliceAccess _ _ => exact execSliceAccess_kept h
  | missFillReturn _ _ _ => exact execMissFillReturn_kept h
  | victimWritebackDone _ _ => exact execVictimWritebackDone_kept h
  | hostSnoop _ _ _ => exact execHostSnoop_kept h
  | hostCacheResponse _ _ _ => exact execHostCacheResponse_kept h
  | hdmHostRequest _ _ => exact execHdmHostRequest_kept h
  | birspReceive _ _ _ => exact execBirspReceive_kept h
  | biTimeout _ _ => exact execBiTimeout_kept h
  | dcaEnableWrite => exact execDcaEnableWrite_kept h
  | dcaFlushDone => exact execDcaFlushDone_kept h
  | dcaInvalidate => exact execDcaInvalidate_kept h
  | dcaInvalidateDone _ => exact execDcaInvalidateDone_kept h
  | dcaClear => exact execDcaClear_kept h
  | cohClear => exact execCohClear_kept h
  | orderClear => exact execOrderClear_kept h
  | lineReadReturn _ _ _ => exact execLineReadReturn_kept h
  | carveTagReturn _ _ => exact execCarveTagReturn_kept h
  | refDue _ _ _ => exact execRefDue_kept h
  | bgSlotStart _ _ _ _ => exact execBgSlotStart_kept h
  | bgSlotEnd _ _ => exact execBgSlotEnd_kept h
  | phyRecalDue _ _ _ => exact execPhyRecalDue_kept h
  | pcSpare => exact execPcSpare_kept h
  | rankSpare => exact execRankSpare_kept h
  | carveFlush => exact execCarveFlush_kept h
  | hbmClear => exact execHbmClear_kept h
  | capClear => exact execCapClear_kept h
  | bgClear => exact execBgClear_kept h
  | walkStart => exact execWalkStart_kept h
  | walkStep _ _ => exact execWalkStep_kept h
  | atsResponse _ _ _ _ _ _ => exact execAtsResponse_kept h
  | faultBatchWrite _ => exact execFaultBatchWrite_kept h
  | faultBatchPerformed _ => exact execFaultBatchPerformed_kept h
  | fqHeadWrite => exact execFqHeadWrite_kept h
  | invSlot => exact execInvSlot_kept h
  | invalidationComplete _ => exact execInvalidationComplete_kept h
  | atsInvalidateRequest _ _ _ _ => exact execAtsInvalidateRequest_kept h
  | counterSweepDue => exact execCounterSweepDue_kept h
  | granuleSet => exact execGranuleSet_kept h
  | granuleQuery => exact execGranuleQuery_kept h
  | ctxFaultClear => exact execCtxFaultClear_kept h
  | mtuClear => exact execMtuClear_kept h
  | flr _ => exact execFlr_kept h
  | flrDone _ => exact execFlrDone_kept h
  | hostLinkReset _ _ => exact execHostLinkReset_kept h
  | lostWriteLogAppend _ => exact execLostWriteLogAppend_kept h
  | hostLinkUp _ _ _ _ _ => exact execHostLinkUp_kept h
  | linkRecovery _ _ _ => exact execLinkRecovery_kept h
  | busMasterEnableClear _ => exact execBusMasterEnableClear_kept h
  | d3hotEntry _ _ => exact execD3hotEntry_kept h
  | d0Return _ _ => exact execD0Return_kept h
  | hdmDecoderCommit _ _ _ _ => exact execHdmDecoderCommit_kept h
  | stagingApertureWrite _ _ _ => exact execStagingApertureWrite_kept h
  | stagingApertureRead _ _ _ => exact execStagingApertureRead_kept h
  | hdmMove => exact execHdmMove_kept h
  | hdmMoveRecallDone _ => exact execHdmMoveRecallDone_kept h
  | hdmMoveCopyStep _ => exact execHdmMoveCopyStep_kept h
  | msixVectorUnmask _ _ => exact execMsixVectorUnmask_kept h
  | spdmRequest _ _ => exact execSpdmRequest_kept h
  | portClear => exact execPortClear_kept h
  | lostClear => exact execLostClear_kept h
  | pmeTurnOff _ => exact execPmeTurnOff_kept h
  | d3coldQuiesceDone => exact execD3coldQuiesceDone_kept h
  | d3c => exact execD3c_kept h
  | flitReceive _ _ _ => exact execFlitReceive_kept h
  | flitAckDue _ => exact execFlitAckDue_kept h
  | linkRetrain _ => exact execLinkRetrain_kept h
  | retrainLimitExpiry _ => exact execRetrainLimitExpiry_kept h
  | laneLossOfLock _ _ => exact execLaneLossOfLock_kept h
  | laneRecalDue _ => exact execLaneRecalDue_kept h
  | laneSpare => exact execLaneSpare_kept h
  | gfrForward _ _ => exact execGfrForward_kept h
  | gfrStaleDiscard _ => exact execGfrStaleDiscard_kept h
  | fabricRequestReceive _ => exact execFabricRequestReceive_kept h
  | fabricResponseReceive _ => exact execFabricResponseReceive_kept h
  | portDown _ => exact execPortDown_kept h
  | linkQueryReceive _ _ => exact execLinkQueryReceive_kept h
  | linkReplyReceive _ _ _ => exact execLinkReplyReceive_kept h
  | failoverHoldExpiry _ => exact execFailoverHoldExpiry_kept h
  | lqTimeout _ => exact execLqTimeout_kept h
  | portTrained _ _ _ _ => exact execPortTrained_kept h
  | mgtBroadcastReceive _ _ _ _ => exact execMgtBroadcastReceive_kept h
  | announce => exact execAnnounce_kept h
  | syncSend _ => exact execSyncSend_kept h
  | syncReceive _ _ _ => exact execSyncReceive_kept h
  | delayReqReceive _ _ => exact execDelayReqReceive_kept h
  | delayRspReceive _ _ _ _ => exact execDelayRspReceive_kept h
  | holdover => exact execHoldover_kept h
  | timepulseInEdge => exact execTimepulseInEdge_kept h
  | timepulseOut => exact execTimepulseOut_kept h
  | attnButtonPress _ => exact execAttnButtonPress_kept h
  | presenceChange _ _ => exact execPresenceChange_kept h
  | hpCtlWrite => exact execHpCtlWrite_kept h
  | pwrenTrainingStart _ => exact execPwrenTrainingStart_kept h
  | portReset => exact execPortReset_kept h
  | hpClear => exact execHpClear_kept h
  | gfrClear => exact execGfrClear_kept h
  | gtcClear => exact execGtcClear_kept h
  | vfLimitChange _ => exact execVfLimitChange_kept h
  | thermalLimitChange _ _ => exact execThermalLimitChange_kept h
  | capPointWrite => exact execCapPointWrite_kept h
  | vfAck => exact execVfAck_kept h
  | vfAckTimeout => exact execVfAckTimeout_kept h
  | clkAck _ => exact execClkAck_kept h
  | clkAckTimeout _ => exact execClkAckTimeout_kept h
  | cabPswAck _ => exact execCabPswAck_kept h
  | cabPswTimeout _ => exact execCabPswTimeout_kept h
  | idleEntry _ => exact execIdleEntry_kept h
  | idleEntryComplete _ => exact execIdleEntryComplete_kept h
  | wake _ => exact execWake_kept h
  | por _ => exact execPor_kept h
  | mainPwrgdRise _ => exact execMainPwrgdRise_kept h
  | startupRomCheck _ => exact execStartupRomCheck_kept h
  | trimRecalibrationDone => exact execTrimRecalibrationDone_kept h
  | tileSelfcheckDone _ => exact execTileSelfcheckDone_kept h
  | shelfTrainingDone _ _ _ _ => exact execShelfTrainingDone_kept h
  | shelf2FillDone => exact execShelf2FillDone_kept h
  | aliveToggle => exact execAliveToggle_kept h
  | pldmRequest _ => exact execPldmRequest_kept h
  | pcsClear => exact execPcsClear_kept h
  | blkReset => exact execBlkReset_kept h
  | blkFlushDone => exact execBlkFlushDone_kept h
  | blkCarveWritebackDone => exact execBlkCarveWritebackDone_kept h
  | blkShelfRetrainDone _ _ _ => exact execBlkShelfRetrainDone_kept h
  | chipResetReq => exact execChipResetReq_kept h
  | unitResetEnd _ _ => exact execUnitResetEnd_kept h
  | faultClear => exact execFaultClear_kept h
  | mbxReqWrite _ _ _ => exact execMbxReqWrite_kept h
  | completionWriteRetry _ => exact execCompletionWriteRetry_kept h
  | matchingTransferCancel _ => exact execMatchingTransferCancel_kept h
  | carveFlushDone => exact execCarveFlushDone_kept h
  | granuleSetDone => exact execGranuleSetDone_kept h
  | thermalWarn _ _ => exact execThermalWarn_kept h
  | reachNodeExpiry _ => exact execReachNodeExpiry_kept h
  | linkL1Change _ _ => exact execLinkL1Change_kept h

end Sys2Proof.Machine
end

