-- ==== Sys2Proof/WellFormed.lean ====
section
/-! DEFINITION. What a command's operands must satisfy to be one that the interfaces can carry: lengths, offsets and ranges that the
operand types do not already bound. A step runs every command; one that is not well-formed is one that no sender can form. -/
namespace Sys2Proof

/-- A line of 64 bytes (R315, R330). -/
def lineLen (b : Bytes) : Bool := b.length == 64

/-- A host's CXL.mem write carries one line (R330). -/
def HdmReq.wf : HdmReq → Bool
  | .wb _ d _ => lineLen d
  | .wr _ d => lineLen d
  | _ => true

/-- A message's payload is as long as its header can say: LEN has 13 bits, and counts bytes or 4-byte units (R427). -/
def FabMsg.wf (m : FabMsg) : Bool := decide (m.len < 2 ^ 13) && decide (m.payload.length < 2 ^ 15)

/-- A flit's credit counts have 9 bits each (Table 15.2). -/
def Flit.wf (f : Flit) : Bool := decide (f.cra < 2 ^ 9) && decide (f.crb < 2 ^ 9) && f.msgs.all FabMsg.wf

/-- A command is well-formed. -/
def Instr.wf (c : Instr) : Bool :=
  match c with
  | .oPathRequest t m => decide (t < 8) && decide (m.length < 2 ^ 16)
  | .fPathRequest _ m => decide (m.length < 2 ^ 15)
  | .mbxReqWrite _ o d => decide (0x100 ≤ o) && decide (o + d.length ≤ 0x510)
  | .sqTailDoorbell _ _ w _ => decide (1 ≤ w) && decide (w ≤ 8)
  | .cqHeadDoorbell _ _ w _ => decide (1 ≤ w) && decide (w ≤ 8)
  | .summaryRebuild _ b => decide (b < 2 ^ 16)
  | .hseLineArrive _ t _ => decide (t < 4096)
  | .epochRefusedReceive p => decide (p.length < 2 ^ 15)
  | .gpeLineArrive _ t _ => decide (t < 2048)
  | .pdSlotTimeout _ k => decide (k < 64)
  | .xferComplete _ t => decide (t < 256)
  | .victimWritebackDone _ k => decide (k < 2 ^ 59)
  | .hdmHostRequest _ r => r.wf
  | .birspReceive _ l r => decide (l < 2 ^ 58) && r.data.all lineLen
  | .biTimeout _ l => decide (l < 2 ^ 58)
  | .atsInvalidateRequest _ _ lo n => decide (4096 ≤ n) && decide (lo.toNat + n ≤ 2 ^ 64)
  | .hostLinkUp _ _ w _ _ => decide (w = 16) || decide (w = 8)
  | .stagingApertureWrite _ o d => decide (0 < d.length) && decide (o.toNat + d.length ≤ 2 ^ 32)
  | .stagingApertureRead _ o n => decide (0 < n) && decide (o.toNat + n ≤ 2 ^ 32)
  | .flitReceive _ f _ => f.wf
  | .mgtBroadcastReceive _ _ _ p => decide (p.length < 2 ^ 15)
  | .delayRspReceive _ _ h _ => decide (h < 256)
  | .shelfTrainingDone _ g r l =>
    decide (g.length = 12) && (decide (r = 1) || decide (r = 2) || decide (r = 4)) && l.all (fun p => decide (p.2 < 64))
  | .blkShelfRetrainDone _ _ l => l.all (fun p => decide (p.2 < 64))
  | .unitResetEnd _ n => decide (n < 256)
  | .matchingTransferCancel (.gpe _ t) => decide (t < 2048)
  | .matchingTransferCancel (.hse _ t) => decide (t < 4096)
  | _ => true

end Sys2Proof
end

