-- ==== Sys2Proof/Tests/Slice0.lean ====
section
/-! SUPPORT. The tests. `test_meets_<Obligation>_<n>` shows operands and a state that meet the hypotheses of the n-th clause of an
obligation together; the expected values of the other tests stand in the spec at the rule each names. -/
open Sys2Proof Sys2Proof.Machine

section Witnesses
set_option Elab.async false
set_option linter.unusedVariables false

namespace Sys2Proof.Tests

/-- A block at work: the dictionary is served, and both host links are up. -/
def live : State :=
  { pcs := { phase := 7, odsUp := true, aliveOn := true },
    hlc := [(0, { link := 3, rate := 4, width := 16, bme := true, perst := false, msix := true }),
            (1, { link := 3, rate := 4, width := 16, bme := true, perst := false, msix := true })] }

/-- A dictionary message (Table 2.3). -/
def dmsg (op ix sub : Nat) (data : Bytes := []) (flags : Nat := 0) (len : Nat := data.length) (off : Nat := 0) : Bytes :=
  natLe op 1 ++ natLe flags 1 ++ natLe ix 2 ++ natLe sub 1 ++ [0] ++ natLe 0x1234 2 ++ natLe len 2 ++ [0, 0] ++ natLe off 4 ++ data

/-- A request of the manageability path. -/
def reqO (m : Bytes) : DictReq := { who := { path := .o }, mctpTag := 3, msg := m }

/-- The state `s` with one request waiting on the O path. -/
def asks (s : State) (m : Bytes) : State := { s with ods := { s.ods with waitO := [reqO m] } }

/-- A request of host 0's mailbox, and the state with it waiting. -/
def reqH (m : Bytes) : DictReq := { who := { path := .h0 }, msg := m }
def asksH (s : State) (m : Bytes) : State := { s with ods := { s.ods with waitH0 := [reqH m] } }

/-- The dictionary's row of an entry that exists. -/
def row (ix sub : Nat) : EntRow := (entAt ix sub).getD ⟨.clearRefusals, 0, 0, 1, 0, 0, .cmd, 0, .cmd, .blk, 0, []⟩

/-- A claim of the H0 path, over 0x1100 to 0x11FF. -/
def claimed (who : Sender) : State :=
  { live with ods := { live.ods with claims := [(0, { first := 0x1100, last := 0x11FF, owner := who })] } }


/-- `n` bytes that hold each value at its bit position. -/
def pack (n : Nat) (fs : List (Nat × Nat)) : Bytes := natLe ((fs.map (fun p => 2 ^ p.1 * p.2)).foldl (· + ·) 0) n

/-- The state with an entry's bytes. -/
def put (s : State) (ix sub : Nat) (b : Bytes) : State :=
  { s with ods := { s.ods with store := sput s.ods.store (entKey ix sub) b } }

/-- The device is node 7, translation context 5 is enabled, and the first 2 MiB of shelf 1 is owned by it. -/
def node7 : State :=
  let s := put (put live 0x8000 0 (natLe 7 2)) (ctxIx 5) 5 (zeros 12 ++ [1] ++ zeros 19)
  { s with mtu := { s.mtu with owners := [(0, { mode := 1, acid := 5 })] }, shelves := { s.shelves with hbmUp := 1 } }

/-- A page of 2 MiB at virtual address 0, mapped to shelf 1's first granule. -/
def page : TlbEnt := { acid := 5, base := 0, size := 2 ^ 21, tgt := .dev 0, w := true }

/-- A task runs: request 0, class 2, on cabinet 0, whose frame 0 starts at byte 0 of every tile. -/
def task : State :=
  let s := { node7 with sqe := { node7.sqe with reqs := [(0, { cls := 2, acid := 5, admitted := true, phase := 3, lanes := 0xFF })] },
                        mtu := { node7.mtu with cab := [(0, [page])] } }
  { s with sched := { s.sched with cabs := [(0, { frames := [(0, { req := some 0, bases := [0, 0, 0, 0, 0, 0, 0, 0] })] })],
                                    progs := [(0, { state := 2, image := pack 128 ([416, 384, 352, 320, 288, 256, 224].map (fun b => (512 + b, 1000))) })] } }

/-- Table 3: DIRECT, FP32 rows of 32 elements at virtual address 0x1000, immediate. -/
def table : Bytes := pack 64 [(112, 1), (115, 1), (136, 5), (149, 31), (161, 127), (280, 1023), (448, 0x1000)]

/-- A GATHER of one ID of table 3. -/
def gather : GCmd := { raw := pack 64 [(500, 3), (494, 1), (399, 1), (386, 1), (298, 64), (282, 128), (260, 256)], req := 0 }


/-- Segment 0 with the descriptors and the bundles given. -/
def segOf (descs bundles : List Bytes) : Bytes :=
  pack 64 [(176, bundles.length), (255, descs.length)] ++ descs.flatten ++ bundles.flatten

/-- A program image of that one segment, with demand for everything. -/
def image (descs bundles : List Bytes) : Bytes :=
  let g := segOf descs bundles
  pack 64 [(416, 1)] ++ pack 64 ([416, 384, 352, 320, 288, 256, 224].map (fun b => (b, 1000))) ++ natLe 144 8 ++ natLe g.length 4 ++ zeros 4 ++ g

/-- A context that runs the first bundle of segment 0. -/
def ctx0 : Ctx := { phase := 3, x := [(1, 7#64), (2, 9#64)], v := [(1, BitVec.ofNat 8192 0x3F800000), (2, BitVec.ofNat 8192 0x40000000)] }

/-- Tile 0 runs one bundle of `task`'s request on context 0. -/
def runs (descs : List Bytes) (b : Bytes) : State :=
  { task with sched := { task.sched with progs := [(0, { state := 2, image := image descs [b] })] },
              tiles := { task.tiles with tile := [(0, { active := some 0, ctxs := [(0, ctx0)] })], bundles := [(0, [(0, [segOf descs [b]])])] } }

/-- A bundle with fields of its slots. -/
def bundle (fs : List (Nat × Nat)) : Bytes := pack 32 fs


/-- A block of bytes with its CRC-32C in bytes 60 to 63. -/
def sealed (b : Bytes) : Bytes := patch b 60 (natLe (crc32c b) 4)

/-- A segment image of one END bundle. -/
def segment (id trap : Nat) (bufs : List Bytes := []) : Bytes :=
  sealed (pack 64 [(0, 0x31475359), (48, 1), (176, 1), (209, trap), (228, id), (264, bufs.length), (320, 1), (352, 1), (384, 1)] ++
    bufs.flatten ++ pack 32 [(242, 0x11)])

/-- A program that the load checker accepts: lane 0 runs segment 0, and segment 1 is the trap segment; one frame on cabinet 0. -/
def program (bufs : List Bytes := []) : Bytes :=
  let g := segment 0 0 bufs
  let t := segment 1 1
  sealed (pack 64 ([(0, 0x31505359), (48, 1), (212, 1), (232, 1), (240, 32), (416, 2), (432, 1)] ++
      (List.range 7).map (fun n => (272 + 16 * n, 0xFFFF))) ++ zeros 64 ++
    natLe 160 8 ++ natLe g.length 4 ++ natLe 0 4 ++ natLe (160 + g.length) 8 ++ natLe t.length 4 ++ natLe 1 4 ++ g ++ t)


/-- Queue 0 is enabled: 16 entries at virtual addresses 0x6000 and 0x7000 of context 5, for class 2, whose requests run the program of
slot 0 on cabinets 0 and 1. -/
def queued (x : Queue) (z : Nat := 5000000000) : State :=
  let s := put (put task 0x2801 0 (pack 64 [(105, 4), (110, 2), (116, 5), (135, 0x7000), (199, 0x6000), (1, 1)]))
    0x7801 2 (pack 64 [(320, 1), (332, 3), (338, 0), (344, 5), (356, 3), (368, 100), (400, 8), (416, 1000), (448, 0x8000)])
  { s with sqe := { s.sqe with queues := [(0, { x with enabled := true })], classes := [(2, { z := z })] },
           mtu := { s.mtu with ctl := [page] } }


/-- The lines 0 to 63 of a test memory: byte n is n. -/
def ramp (n : Nat) : Bytes := (List.range n).map (BitVec.ofNat 8)

/-- `node7` with the DCA enabled. -/
def dca : State := put node7 0x3200 0 [1]

/-- Slice `i` with one request waiting, for 8 bytes at device address 0x1008. -/
def mreq (op : MemOp) : MemReq := { id := 40, src := .tile 3 1, acid := 5, op := op, tgt := .dev 0x1008, len := 8, data := [9, 8, 7, 6, 5, 4, 3, 2], alloc := true }
def waits (s : State) (i : Nat) (r : MemReq) : State := s.setSlice i { s.slice i with inq := [r] }

/-- The DCA holds the line of device address 0x1000. -/
def cached (s : State) (i : Nat) : State :=
  s.setSlice i ((s.slice i).setWay (dcaSet 64 * 16 + 3) { key := 64, st := .cl, data := ramp 64 })


/-- Host 0 has a window over the first granule of shelf 1 at host address 0x10_0000_0000. -/
def hdm : State :=
  let s := put dca 0x2010 0 (zeros 8 ++ [21] ++ [5, 0] ++ zeros 5)
  { s with hlc := sput s.hlc 0 { (s.port 0) with memEn := true, decoded := true, decBase := 0x1000000000 } }

/-- Context 5 walks from a table at device address 0x10000, whose entries are the 8 bytes given. -/
def walks (w : Walk) (e : Nat) : State :=
  let s := put dca (ctxIx 5) 5 (natLe 0x10000 8 ++ zeros 4 ++ [1] ++ zeros 19)
  { s with mtu := { s.mtu with walkers := [(7, w)] }, shelves := { s.shelves with mem := mwrite [] (w.table + 8 * ((w.va >>> (12 + 9 * w.level)) % 512)) (natLe e 8) } }

/-- Host 1's fault queue: 16 records at host address 0x50000, vector 3. -/
def fqueue (q : FaultQ) : State :=
  let s := put live 0x4031 1 (natLe 0x50000 8 ++ [4, 1, 3, 0] ++ natLe 10 4)
  { s with mtu := { s.mtu with fq := [(1, q)] }, gtc := { count := 100000 } }

/-- A request of host 1's mailbox, and the state with it waiting. -/
def reqH1 (m : Bytes) : DictReq := { who := { path := .h1 }, msg := m }
def asksH1 (s : State) (m : Bytes) : State := { s with ods := { s.ods with waitH1 := [reqH1 m] } }

/-- Node 7's fabric: port 2 in a state of its own, port 1 UP, and node 9 behind port 1. -/
def fabric (x : FabPort) : State :=
  let s := put (put (put node7 0x8001 4 (pack 8 [(48, 9), (43, 16), (40, 1), (34, 1)])) 0x8000 1 [0, 0, 0, 0, 50, 0, 20, 0, 100, 0, 0, 0])
    0x8800 3 (pack 16 [(86, 0), (80, 21), (68, 5), (52, 9), (47, 16), (46, 1), (45, 1)])
  { s with fab := { s.fab with ports := [(1, { state := 3, nbrNode := 9, txSeq := 0xFFE, txAck := 0xFFE }), (2, x)] }, gtc := { count := 200000000000 } }

/-- A message of node 9, and the state with it waiting at the router. -/
def fmsg (op : BitVec 4) (dst : BitVec 16) : FabMsg :=
  { dst := dst, src := 9, op := op, len := 8, tag := 33, sent := sentOf 200000000000, addr := BitVec.ofNat 48 (3 * 2 ^ 36 + 0x1010) }
def atGfr (w : Waiting) : State := let s := fabric {}; { s with fab := { s.fab with msgs := [(4, w)] }, nextId := 50 }


/-- The state after a command, or the state itself where it stops. -/
def nx (c : Instr) (s : State) : State :=
  match exec c s with
  | .next t => t
  | _ => s

/-- A WRITE of an entry passes every step of R39 and its commit needs no line's holder. -/
def puttable (s : State) (i : Nat) (q : DictReq) (r : EntRow) (e : Ent) : Bool :=
  let u := s.taken i
  let items : List StageItem := [{ index := q.index, sub := q.sub, data := q.data }]
  decide (s.serves i q (.put e)) && decide (u.mayChange q r) && (r.acc = .rw || r.acc = .rwq) && decide (r.sizeOk q.data = none) &&
    u.valueOk r q.index q.sub q.data &&
    (match u.changeCheck false none items with
     | .ok p => decide ((u.commitNow q.who items p).coh.need = [])
     | .error _ => false)

/-- `n` lines from the `a`-th on. -/
def linesAt (a n : Nat) : List EngKey := (List.range n).map (fun k => .line (a + k))

/-- What a job asked of memory has come, without an error. -/
def fetched (j : EngJob) (l : List EngKey) (s : State) : State :=
  { s with coh := { s.coh with eng := l.map (fun k => { job := j, key := k, ready := true }) } }

end Sys2Proof.Tests

namespace Sys2Proof.Tests.Dictionary

theorem test_meets_RequestsAreAnswered_1 : ∃ (s : State) (p : Fin 2) (x : Mailbox), x = sget {} s.ods.mbx p ∧ s.odsUp = true ∧ s.linkUp p = true ∧
    s.hostHeld p = false ∧ s.barHeld p = false ∧ x.busy = false :=
  ⟨live, (1 : Fin 2), _, rfl, by decide +kernel⟩

theorem test_meets_RequestsAreAnswered_2 : ∃ (s : State) (p : Fin 2) (x : Mailbox), x = sget {} s.ods.mbx p ∧ s.odsUp = true ∧ s.linkUp p = true ∧
    s.hostHeld p = false ∧ s.barHeld p = false ∧ x.busy = true :=
  ⟨({ live with ods := { live.ods with mbx := [(1, { busy := true, dropped := 0xFF })] } } : State), (1 : Fin 2), _, rfl, by decide +kernel⟩

theorem test_meets_RequestsAreAnswered_3 : ∃ (s : State) (p : Fin 2) (off : Nat) (data : Bytes) (x : Mailbox), x = sget {} s.ods.mbx p ∧ s.odsUp =
    true ∧ s.linkUp p = true ∧ s.hostHeld p = false ∧ s.barHeld p = false ∧ 0x100 ≤ off ∧ off + data.length ≤ 0x510 :=
  ⟨({ live with ods := { live.ods with mbx := [(1, { busy := true, dropped := 0xFF })] } } : State), (0 : Fin 2), (0x10F : Nat), ([1,2,3] : Bytes), _,
    rfl, by decide +kernel⟩

theorem test_meets_RequestsAreAnswered_4 : ∃ (s : State) (tag : Nat) (msg : Bytes), s.odsUp = true ∧ s.ods.waitO.length < 4 :=
  ⟨live, (7 : Nat), ([1,2] : Bytes), by decide +kernel⟩

theorem test_meets_RequestsAreAnswered_5 : ∃ (s : State) (node : BitVec 16) (msg : Bytes), s.odsUp = true ∧ s.ods.waitF.length < 16 :=
  ⟨live, (9 : BitVec 16), ([1,2] : Bytes), by decide +kernel⟩

theorem test_meets_RequestsAreAnswered_6 : ∃ (s : State) (tag : Nat) (msg : Bytes) (q : DictReq), q =
    { who := { path := .o }, mctpTag := tag, msg := msg } ∧ s.odsUp = true ∧ 4 ≤ s.ods.waitO.length :=
  ⟨({ live with ods := { live.ods with waitO := List.replicate 4 (reqO []) } } : State), (7 : Nat), dmsg 1 0x1000 0, _, rfl, by decide +kernel⟩

theorem test_meets_RequestsAreAnswered_7 : ∃ (s : State) (node : BitVec 16) (msg : Bytes) (q : DictReq), q =
    { who := { path := .f, node := node }, msg := msg } ∧ s.odsUp = true ∧ 16 ≤ s.ods.waitF.length :=
  ⟨({ live with ods := { live.ods with waitF := List.replicate 16 (reqO []) } } : State), (7 : BitVec 16), dmsg 1 0x1000 0, _, rfl, by decide +kernel⟩

theorem test_meets_RequestsAreAnswered_8 : ∃ (s : State) (q : DictReq) (st : Nat) (b : Bytes), q.who.path = .o :=
  ⟨live, reqO (dmsg 1 0x1000 0), (4 : Nat), ([1] : Bytes), by decide +kernel⟩

theorem test_meets_RequestsAreAnswered_9 : ∃ (s : State) (q : DictReq) (st : Nat) (b : Bytes), q.who.path = .f :=
  ⟨live, ({ reqO (dmsg 1 0x1000 0) with who := { path := .f, node := 5 } } : DictReq), (4 : Nat), ([1] : Bytes), by decide +kernel⟩

theorem test_meets_RequestsAreAnswered_10 : ∃ (s : State) (q : DictReq) (st : Nat) (b : Bytes) (p : Fin 2) (y : Mailbox), y = sget {} (s.respondDict q
    st b).ods.mbx p ∧ q.who.path = hPath p ∧ q.lost = false :=
  ⟨live, ({ reqO (dmsg 1 0x1000 0) with who := { path := .h1 } } : DictReq), (4 : Nat), ([1] : Bytes), (1 : Fin 2), _, rfl, by decide +kernel⟩

theorem test_meets_RequestsAreAnswered_11 : ∃ (q : DictReq) (st : Nat) (b : Bytes), 16 ≤ q.msg.length ∧ st < 256 ∧ b.length < 65536 :=
  ⟨reqO (dmsg 1 0x1000 0), (4 : Nat), ([1] : Bytes), by decide +kernel⟩

end Sys2Proof.Tests.Dictionary

namespace Sys2Proof.Tests.DictionaryB

def held : State := { live with ods := { stage := [{ index := 0x1102, sub := 0, data := natLe 5000 4 }], stageOwner := some { path := .h0 } } }
def mine : State := { live with ods := { stage := [{ index := 0x1102, sub := 0, data := natLe 5000 4 }], stageOwner := some { path := .o } } }
def armed : State := { live with ods := { trestle := [(0, { state := 1, owner := some { path := .o }, count := 1, due := 100000, items := [{ index := 0x1102, sub := 0, data := natLe 5000 4 }] })] } }

theorem test_meets_EntriesReadAndWrite_1 : ∃ (s : State) (i : Nat) (q : DictReq) (r : EntRow), s.serves i q .read ∧ (s.took i).sound q ∧ entAt q.index
    q.sub = some r ∧ q.op = 1 ∧ q.describe = false ∧ r.ty ≠ .blob ∧ q.offset = 0 :=
  ⟨asks live (dmsg 1 0x1102 0), (2 : Nat), reqO (dmsg 1 0x1102 0), (entAt (reqO (dmsg 1 0x1102 0)).index (reqO (dmsg 1 0x1102 0)).sub).get
    (by decide +kernel), by decide +kernel⟩

theorem test_meets_EntriesReadAndWrite_2 : ∃ (s : State) (i : Nat) (q : DictReq) (r : EntRow) (v : Bytes), v = (s.took i).value r q.index q.sub ∧
    s.serves i q .read ∧ (s.took i).sound q ∧ entAt q.index q.sub = some r ∧ q.op = 1 ∧ q.describe = false ∧ r.ty = .blob :=
  ⟨asks live (dmsg 1 0x1101 0 [] 0 8 24), (2 : Nat), reqO (dmsg 1 0x1101 0 [] 0 8 24), (entAt (reqO (dmsg 1 0x1101 0 [] 0 8 24)).index (reqO (dmsg 1
    0x1101 0 [] 0 8 24)).sub).get (by decide +kernel), _, rfl, by decide +kernel⟩

theorem test_meets_EntriesReadAndWrite_3 : ∃ (s : State) (i : Nat) (q : DictReq), s.serves i q .read ∧ (s.took i).sound q ∧ q.op = 1 ∧ entAt q.index
    q.sub = none :=
  ⟨asks live (dmsg 1 0xFFF 0), (2 : Nat), reqO (dmsg 1 0xFFF 0), by decide +kernel⟩

theorem test_meets_EntriesReadAndWrite_4 : ∃ (s : State) (i : Nat) (q : DictReq) (r : EntRow), s.serves i q .read ∧ (s.took i).sound q ∧ entAt q.index
    q.sub = some r ∧ q.op = 1 ∧ q.describe = false ∧ r.ty ≠ .blob ∧ q.offset = 0 :=
  ⟨asks live (dmsg 1 0x1102 0), (2 : Nat), reqO (dmsg 1 0x1102 0), (entAt (reqO (dmsg 1 0x1102 0)).index (reqO (dmsg 1 0x1102 0)).sub).get
    (by decide +kernel), by decide +kernel⟩

theorem test_meets_EntriesReadAndWrite_5 : ∃ (s : State) (i : Nat) (q : DictReq) (r : EntRow) (items : List StageItem) (p : Option Passed) (w :
    State), items = [{ index := q.index, sub := q.sub, data := q.data }] ∧ w = (s.taken i).commitNow q.who items p ∧ s.serves i q .write ∧ (s.taken
    i).mayChange q r ∧ (r.acc = .rw ∨ r.acc = .rwq) ∧ q.op = 2 ∧ r.sizeOk q.data = none ∧ (s.taken i).valueOk r q.index q.sub q.data = true ∧
    ((s.taken i).changeCheck false none items).toOption = some p ∧ (w.reply q).coh.need = [] :=
  ⟨asks live (dmsg 2 0x1102 0 (natLe 5000 4)), (2 : Nat), reqO (dmsg 2 0x1102 0 (natLe 5000 4)), row 0x1102 0, _, none, _, rfl, rfl,
    by decide +kernel⟩

theorem test_meets_StageCommitsOrEmpties_1 : ∃ (s : State) (i : Nat) (q : DictReq) (r : EntRow), s.serves i q .stage ∧ (s.taken i).sound q ∧ entAt
    q.index q.sub = some r ∧ r.pathOk q.index q.sub q.who.path = true ∧ r.acc ≠ .ro ∧ foreignQueue r.ent q.who q.data = false ∧ s.ods.claimedBy
    q.index q.who = false ∧ s.ods.held q.index q.sub ≠ 2 ∧ (s.ods.stageOwner = none ∨ s.ods.stageOwner = some q.who) ∧ (s.taken i).stageData r q =
    none ∧ s.ods.stage.length < 1024 ∧ s.ods.stageBytes + q.data.length ≤ 262144 :=
  ⟨asks live (dmsg 3 0x1102 0 (natLe 5000 4)), (2 : Nat), reqO (dmsg 3 0x1102 0 (natLe 5000 4)), (entAt (reqO (dmsg 3 0x1102 0 (natLe 5000 4))).index
    (reqO (dmsg 3 0x1102 0 (natLe 5000 4))).sub).get (by decide +kernel), by decide +kernel⟩

theorem test_meets_StageCommitsOrEmpties_2 : ∃ (s : State) (i : Nat) (q : DictReq) (r : EntRow) (o : Sender), s.serves i q .stage ∧ (s.taken i).sound
    q ∧ entAt q.index q.sub = some r ∧ r.pathOk q.index q.sub q.who.path = true ∧ r.acc ≠ .ro ∧ foreignQueue r.ent q.who q.data = false ∧
    s.ods.claimedBy q.index q.who = false ∧ s.ods.stageOwner = some o ∧ o ≠ q.who :=
  ⟨asks held (dmsg 3 0x1103 0 (natLe 5000 4)), (2 : Nat), reqO (dmsg 3 0x1103 0 (natLe 5000 4)), (entAt (reqO (dmsg 3 0x1103 0 (natLe 5000 4))).index
    (reqO (dmsg 3 0x1103 0 (natLe 5000 4))).sub).get (by decide +kernel), ((asks held (dmsg 3 0x1103 0 (natLe 5000 4))).ods.stageOwner).get
    (by decide +kernel), by decide +kernel⟩

theorem test_meets_StageCommitsOrEmpties_3 : ∃ (s : State) (i : Nat) (q : DictReq) (u : State), u = { s.taken i with ods := (s.taken i).ods.noStage }
    ∧ s.serves i q .commit ∧ (s.taken i).sound q ∧ q.data = [] ∧ (q.force = true → ∃ x ∈ s.ods.stage, inRange x.index 0x9000 0x97FF = true) ∧
    s.ods.stageOwner = some q.who ∧ s.ods.stage ≠ [] :=
  ⟨asks mine (dmsg 4 0 0), (2 : Nat), reqO (dmsg 4 0 0), _, rfl, by decide +kernel⟩

theorem test_meets_StageCommitsOrEmpties_4 : ∃ (s : State) (i : Nat) (q : DictReq), s.serves i q .commit ∧ (s.taken i).sound q ∧ q.data = [] ∧ q.force
    = false ∧ s.ods.stageOwner ≠ some q.who :=
  ⟨asks held (dmsg 4 0 0), (2 : Nat), reqO (dmsg 4 0 0), by decide +kernel⟩

theorem test_meets_StageCommitsOrEmpties_5 : ∃ (s : State) (i : Nat) (q : DictReq), s.serves i q .abort ∧ (s.taken i).sound q ∧ q.data = [] ∧
    s.ods.stageOwner = some q.who :=
  ⟨asks mine (dmsg 5 0 0), (2 : Nat), reqO (dmsg 5 0 0), by decide +kernel⟩

theorem test_meets_StageCommitsOrEmpties_6 : ∃ (s : State), s.ods.stageOwner.isSome = true ∧ 1000000 * s.rdN 0x1102 0 0 4 ≤ since s.now
    s.ods.stageSeen :=
  ⟨({ mine with gtc := { count := 10000 * 1000000 } } : State), by decide +kernel⟩

theorem test_meets_TrestleArmsAndFires_1 : ∃ (s : State) (i : Nat) (q : DictReq) (k : Nat) (due : Nat) (u : State), due = leNat q.data ∧ u =
    { s.taken i with ods := (s.taken i).ods.noStage } ∧ s.serves i q .commitArmed ∧ (s.taken i).sound q ∧ s.ods.freeSlot = some k ∧ q.data.length = 8
    ∧ s.now + 100000 ≤ due ∧ due ≤ s.now + 2 ^ 44 ∧ (q.force = true → ∃ x ∈ s.ods.stage, inRange x.index 0x9000 0x97FF = true) ∧ s.ods.stageOwner =
    some q.who ∧ s.ods.stage ≠ [] :=
  ⟨asks mine (dmsg 4 0 0 (natLe 100000 8) 2), (2 : Nat), reqO (dmsg 4 0 0 (natLe 100000 8) 2), (0 : Nat), _, _, rfl, rfl, by decide +kernel⟩

theorem test_meets_TrestleArmsAndFires_2 : ∃ (s : State) (i : Nat) (q : DictReq) (k : Nat) (t : TrestleSlot), t = sget {} s.ods.trestle k ∧ s.serves i
    q .abortArmed ∧ (s.taken i).sound q ∧ q.data = natLe k 1 ∧ k < 8 ∧ t.state = 1 ∧ t.owner = some q.who ∧ s.now + 10000 < t.due.toNat :=
  ⟨asks armed (dmsg 5 0 0 (natLe 0 1) 2), (2 : Nat), reqO (dmsg 5 0 0 (natLe 0 1) 2), (0 : Nat), _, rfl, by decide +kernel⟩

theorem test_meets_TrestleArmsAndFires_3 : ∃ (s : State) (k : Fin 8) (t : TrestleSlot), s.frozen = false ∧ s.pcs.cold = false ∧ s.ods.armedSets.head?
    = some (k.val, t) ∧ t.due.toNat ≤ s.now ∧ ((s.asJob .ods).fireSet k t).coh.need = [] :=
  ⟨({ armed with gtc := { count := 100000 } } : State), (0 : Fin 8), sget {} armed.ods.trestle 0, by decide +kernel⟩

theorem test_meets_TrestleArmsAndFires_4 : ∃ (s : State) (k : Fin 8) (t : TrestleSlot) (i : StageItem) (r : EntRow), s.frozen = false ∧ s.pcs.cold =
    false ∧ s.ods.armedSets.head? = some (k.val, t) ∧ t.due.toNat ≤ s.now ∧ t.items = [i] ∧ t.drops = [] ∧ i.cmd = false ∧ entAt i.index i.sub = some
    r ∧ r.acc = .rw ∧ acted r.ent = false ∧ s.coh.need = [] :=
  ⟨({ armed with gtc := { count := 100000 } } : State), (0 : Fin 8), sget {} armed.ods.trestle 0, ((sget {} armed.ods.trestle 0).items).head
    (by decide +kernel), (entAt (((sget {} armed.ods.trestle 0).items).head (by decide +kernel)).index (((sget {} armed.ods.trestle 0).items).head
    (by decide +kernel)).sub).get (by decide +kernel), by decide +kernel⟩

theorem test_meets_TrestleArmsAndFires_5 : ∃ (s : State) (k : Fin 8) (j : Nat) (t : TrestleSlot), s.ods.armedSets.head? = some (j, t) ∧ s.now <
    t.due.toNat :=
  ⟨armed, (3 : Fin 8), (0 : Nat), sget {} armed.ods.trestle 0, by decide +kernel⟩

end Sys2Proof.Tests.DictionaryB

namespace Sys2Proof.Tests.DictionaryC

def O : Sender := { path := .o }
def held : State := { live with ods := { stage := [{ index := 0x1102, sub := 0, data := natLe 5000 4 }], stageOwner := some { path := .h0 } } }
def armed : State := { live with ods := { trestle := [(0, { state := 1, owner := some { path := .o }, count := 1, due := 100000, items := [{ index := 0x1102, sub := 0, data := natLe 5000 4 }] })] } }

theorem test_meets_ClaimsAndTurns_1 : ∃ (s : State) (i : Nat) (q : DictReq) (lo : Nat) (hi : Nat) (a : Nat) (b : Nat) (k : Nat) (mine : SMap Claim),
    mine = s.ods.claims.filter (fun c => c.2.owner = q.who && decide (c.2.first ≤ hi) && decide (lo ≤ c.2.last)) ∧ a = mine.foldl (fun m c => min m
    c.2.first) lo ∧ b = mine.foldl (fun m c => max m c.2.last) hi ∧ s.serves i q .claim ∧ (s.taken i).sound q ∧ q.data = natLe lo 2 ++ natLe hi 2 ∧ lo
    ≤ hi ∧ hi < 65536 ∧ claimable lo hi q.who.path = true ∧ s.ods.stageOwner = none ∧ (∀ c ∈ s.ods.claims, c.2.owner ≠ q.who → c.2.last < a ∨ b <
    c.2.first) ∧ (match mine.head? with | some c => some c.1 | none => sfree s.ods.claims 16) = some k :=
  ⟨asks live (dmsg 6 0 0 (natLe 0x1102 2 ++ natLe 0x1103 2)), (2 : Nat), reqO (dmsg 6 0 0 (natLe 0x1102 2 ++ natLe 0x1103 2)), (0x1102 : Nat), (0x1103
    : Nat), _, _, (0 : Nat), _, rfl, rfl, rfl, by decide +kernel⟩

theorem test_meets_ClaimsAndTurns_2 : ∃ (s : State) (i : Nat) (q : DictReq) (lo : Nat) (hi : Nat), s.serves i q .claim ∧ (s.taken i).sound q ∧ q.data
    = natLe lo 2 ++ natLe hi 2 ∧ lo ≤ hi ∧ hi < 65536 ∧ claimable lo hi q.who.path = true ∧ (∀ c ∈ s.ods.claims, c.2.owner ≠ q.who) ∧ (∃ c ∈
    s.ods.claims, c.2.first ≤ hi ∧ lo ≤ c.2.last) :=
  ⟨asks (claimed { path := .h0 }) (dmsg 6 0 0 (natLe 0x1102 2 ++ natLe 0x1103 2)), (2 : Nat), reqO (dmsg 6 0 0 (natLe 0x1102 2 ++ natLe 0x1103 2)),
    (0x1102 : Nat), (0x1103 : Nat), by decide +kernel⟩

theorem test_meets_ClaimsAndTurns_3 : ∃ (s : State) (i : Nat) (q : DictReq) (k : Nat) (c : Claim), s.serves i q .release ∧ (s.taken i).sound q ∧
    q.data = natLe k 1 ∧ k < 16 ∧ sfind s.ods.claims k = some c ∧ c.owner = q.who :=
  ⟨asks (claimed { path := .o }) (dmsg 7 0 0 [0]), (2 : Nat), reqO (dmsg 7 0 0 [0]), (0 : Nat), ((sfind (asks (claimed { path := .o }) (dmsg 7 0 0
    [0])).ods.claims (0 : Nat)).get (by decide +kernel)), by decide +kernel⟩

theorem test_meets_ClaimsAndTurns_4 : ∃ (s : State) (k : Fin 16) (c : Claim), sfind s.ods.claims k = some c ∧ (c.owner.path = .o ∨ c.owner.path = .f)
    ∧ 1000000 * s.rdN 0x1103 0 0 4 ≤ since s.now c.seen :=
  ⟨({ claimed { path := .o } with gtc := { count := 10000000000 } } : State), (0 : Fin 16), ((sfind
    ({ claimed { path := .o } with gtc := { count := 10000000000 } } : State).ods.claims (0 : Fin 16)).get (by decide +kernel)), by decide +kernel⟩

theorem test_meets_ClaimsAndTurns_5 : ∃ (s : State) (k : Fin 16) (c : Claim) (p : Fin 2), sfind s.ods.claims k = some c ∧ c.owner.path = hPath p :=
  ⟨({ claimed { path := .h1 } with gtc := { count := 10000000000 } } : State), (0 : Fin 16), ((sfind
    ({ claimed { path := .h1 } with gtc := { count := 10000000000 } } : State).ods.claims (0 : Fin 16)).get (by decide +kernel)), (1 : Fin 2),
    by decide +kernel⟩

theorem test_meets_ClaimsAndTurns_6 : ∃ (s : State) (k : Serve), s.odsUp = false :=
  ⟨({} : State), (.write : Serve), by decide +kernel⟩

theorem test_meets_ClaimsAndTurns_7 : ∃ (s : State) (k : Serve) (i : Nat) (q : DictReq), s.ods.next = some (i, q) ∧ q.kind ≠ k :=
  ⟨asks live (dmsg 7 0 0 [0]), (.write : Serve), (2 : Nat), (((asks live (dmsg 7 0 0 [0])).ods.next).get (by decide +kernel)).2, by decide +kernel⟩

theorem test_meets_ClaimsAndTurns_8 : ∃ (s : State) (i : Nat) (q : DictReq), s.serves i q .write ∧ (s.taken i).odsShut q = true :=
  ⟨({ asks live (dmsg 2 0x1102 0 (natLe 5000 4)) with faults := { grave := true } } : State), (2 : Nat), reqO (dmsg 2 0x1102 0 (natLe 5000 4)),
    by decide +kernel⟩

theorem test_meets_ClaimsAndTurns_9 : ∃ (s : State) (i : Nat) (q : DictReq) (k : Serve), s.serves i q k ∧ (s.taken i).odsShut q = true :=
  ⟨({ asks live (dmsg 2 0x1102 0 (natLe 5000 4)) with faults := { grave := true } } : State), (2 : Nat), reqO (dmsg 2 0x1102 0 (natLe 5000 4)),
    (.write : Serve), by decide +kernel⟩

theorem test_meets_ClaimsAndTurns_10 : ∃ (s : State) (q : DictReq), s.faults.grave = true ∧ q.op ≠ 1 ∧ q.op ≠ 8 :=
  ⟨({ live with faults := { grave := true } } : State), reqO (dmsg 2 0x1102 0), by decide +kernel⟩

theorem test_meets_ClaimsAndTurns_11 : ∃ (s : State) (q : DictReq), s.pcs.blk ≠ 0 ∧ q.op ≠ 1 :=
  ⟨({ live with pcs := { live.pcs with blk := 1 } } : State), reqO (dmsg 2 0x1102 0), by decide +kernel⟩

theorem test_meets_ClaimsAndTurns_12 : ∃ (s : State) (q : DictReq), q.op = 1 :=
  ⟨({ live with pcs := { live.pcs with blk := 1 } } : State), reqO (dmsg 1 0x1102 0), by decide +kernel⟩

theorem test_meets_HeldEntriesRefuse_1 : ∃ (c : Instr) (k : Serve) (s : State), serveOf c = some k :=
  ⟨(.dictClaim : Instr), (.claim : Serve), live, by decide +kernel⟩

theorem test_meets_HeldEntriesRefuse_2 : ∃ (s : State) (i : Nat) (q : DictReq) (k : Serve) (r : EntRow), s.serves i q k ∧ (s.taken i).sound q ∧ entAt
    q.index q.sub = some r ∧ r.pathOk q.index q.sub q.who.path = true ∧ foreignQueue r.ent q.who q.data = false ∧ ((q.op = 2 ∧ (r.acc = .rw ∨ r.acc =
    .rwq)) ∨ (q.op = 3 ∧ r.acc ≠ .ro) ∨ (q.op = 8 ∧ r.acc = .cmd)) :=
  ⟨asks (claimed { path := .h0 }) (dmsg 2 0x1102 0 (natLe 5000 4)), (2 : Nat), reqO (dmsg 2 0x1102 0 (natLe 5000 4)), (.write : Serve), row 0x1102 0,
    by decide +kernel⟩

theorem test_meets_HeldEntriesRefuse_3 : ∃ (s : State) (i : Nat) (q : DictReq) (r : EntRow) (b : Bytes), b = (if q.describe then (s.taken i).describe
    r q.index q.sub else if r.ty = .blob then bytesAt ((s.taken i).value r q.index q.sub) q.offset q.length else (s.taken i).value r q.index q.sub) ∧
    s.serves i q .read ∧ (s.taken i).sound q ∧ entAt q.index q.sub = some r ∧ q.op = 1 ∧ (q.offset = 0 ∨ r.ty = .blob) :=
  ⟨asks (claimed { path := .h0 }) (dmsg 1 0x1102 0), (2 : Nat), reqO (dmsg 1 0x1102 0), row 0x1102 0, _, rfl, by decide +kernel⟩

theorem test_meets_ShardsNameHomes_1 : ∃ (s : State) (d : Bytes) (id : Nat) (sh : Nat), sh = reduce (mix id (fld d 0 64)) (fld d 86 8 + 1) :=
  ⟨live, zeros 256, (12345 : Nat), _, rfl⟩

end Sys2Proof.Tests.DictionaryC

namespace Sys2Proof.Tests.DictionaryD

def exwH (s : State) (q : DictReq) : State :=
  let r := ((s.taken 0).odsRun q).1
  { r with ods := { r.ods with cmds := s.ods.cmds } }
def dirty : State := ([(0x2803,0),(0x2803,200),(0x7802,3),(0x7802,2),(0x7000,3),(0x7005,3),(0x6001,47),(0x6300,5),(0x5801,95),(0x5003,8),(0x5A01,3),(0x3201,1),(0x3800,2),(0x40F1,1),(0x3000,4),(0x3002,1),(0x3102,1),(0x3300,2),(0x4000,1),(0x2000,1),(0x8000,3),(0x8100,2),(0x9800,3),(0x9006,0),(0x5000,2)]).foldl (fun s x => s.bump x.1 x.2 1 5) { live with ods := { live.ods with refusalCount := 4, lastRefusal := [1] }, mtu := { ctx := [(4095, { dropped := 3 })] } }

theorem test_meets_ClearCommandsClear_1 : ∃ s i q r, State.serves s i q (.exec .queueClear) ∧ (s.taken i).execPasses q r :=
  ⟨(asksH dirty (dmsg 8 0x2800 0x1 (natLe 0xFFFF 2))), 0, (reqH (dmsg 8 0x2800 0x1 (natLe 0xFFFF 2))), row 0x2800 0x1, by decide +kernel⟩

theorem test_meets_ClearCommandsClear_2 : ∃ s i q r, State.serves s i q (.exec .classClear) ∧ (s.taken i).execPasses q r :=
  ⟨(asks dirty (dmsg 8 0x7800 0x2 [3])), 2, (reqO (dmsg 8 0x7800 0x2 [3])), row 0x7800 0x2, by decide +kernel⟩

theorem test_meets_ClearCommandsClear_3 : ∃ s i q r, State.serves s i q (.exec .ssuClear) ∧ (s.taken i).execPasses q r :=
  ⟨(asks dirty (dmsg 8 0x7000 0x4 [])), 2, (reqO (dmsg 8 0x7000 0x4 [])), row 0x7000 0x4, by decide +kernel⟩

theorem test_meets_ClearCommandsClear_4 : ∃ s i q r, State.serves s i q (.exec .gpeClear) ∧ (s.taken i).execPasses q r :=
  ⟨(asks dirty (dmsg 8 0x6000 0x0 [47])), 2, (reqO (dmsg 8 0x6000 0x0 [47])), row 0x6000 0x0, by decide +kernel⟩

theorem test_meets_ClearCommandsClear_5 : ∃ s i q r, State.serves s i q (.exec .tableClear) ∧ (s.taken i).execPasses q r :=
  ⟨(asks dirty (dmsg 8 0x6003 0x0 (natLe 0xFFFF 2))), 2, (reqO (dmsg 8 0x6003 0x0 (natLe 0xFFFF 2))), row 0x6003 0x0, by decide +kernel⟩

theorem test_meets_ClearCommandsClear_6 : ∃ s i q r, State.serves s i q (.exec .tileClear) ∧ (s.taken i).execPasses q r :=
  ⟨(asks dirty (dmsg 8 0x5100 0x4 [])), 2, (reqO (dmsg 8 0x5100 0x4 [])), row 0x5100 0x4, by decide +kernel⟩

theorem test_meets_ClearCommandsClear_7 : ∃ s i q r, State.serves s i q (.exec .numClear) ∧ (s.taken i).execPasses q r :=
  ⟨(asks dirty (dmsg 8 0x5800 0x0 [95])), 2, (reqO (dmsg 8 0x5800 0x0 [95])), row 0x5800 0x0, by decide +kernel⟩

theorem test_meets_ClearCommandsClear_8 : ∃ s i q r, State.serves s i q (.exec .cabClear) ∧ (s.taken i).execPasses q r :=
  ⟨(asks dirty (dmsg 8 0x5000 0x4 [0xFF])), 2, (reqO (dmsg 8 0x5000 0x4 [0xFF])), row 0x5000 0x4, by decide +kernel⟩

theorem test_meets_ClearCommandsClear_9 : ∃ s i q r, State.serves s i q (.exec .detClear) ∧ (s.taken i).execPasses q r :=
  ⟨(asks dirty (dmsg 8 0x5A00 0x2 [11])), 2, (reqO (dmsg 8 0x5A00 0x2 [11])), row 0x5A00 0x2, by decide +kernel⟩

theorem test_meets_ClearCommandsClear_10 : ∃ s i q r, State.serves s i q (.exec .dcaClear) ∧ (s.taken i).execPasses q r :=
  ⟨(asks dirty (dmsg 8 0x3200 0x3 [])), 2, (reqO (dmsg 8 0x3200 0x3 [])), row 0x3200 0x3, by decide +kernel⟩

theorem test_meets_ClearCommandsClear_11 : ∃ s i q r, State.serves s i q (.exec .cohClear) ∧ (s.taken i).execPasses q r :=
  ⟨(asks dirty (dmsg 8 0x3800 0x5 [])), 2, (reqO (dmsg 8 0x3800 0x5 [])), row 0x3800 0x5, by decide +kernel⟩

theorem test_meets_ClearCommandsClear_12 : ∃ s i q r, State.serves s i q (.exec .orderClear) ∧ (s.taken i).execPasses q r :=
  ⟨(asks dirty (dmsg 8 0x40F1 0x2 [])), 2, (reqO (dmsg 8 0x40F1 0x2 [])), row 0x40F1 0x2, by decide +kernel⟩

theorem test_meets_ClearCommandsClear_13 : ∃ s i q r, State.serves s i q (.exec .hbmClear) ∧ (s.taken i).execPasses q r :=
  ⟨(asks dirty (dmsg 8 0x3000 0x5 [])), 2, (reqO (dmsg 8 0x3000 0x5 [])), row 0x3000 0x5, by decide +kernel⟩

theorem test_meets_ClearCommandsClear_14 : ∃ s i q r, State.serves s i q (.exec .capClear) ∧ (s.taken i).execPasses q r :=
  ⟨(asks dirty (dmsg 8 0x3100 0x3 [])), 2, (reqO (dmsg 8 0x3100 0x3 [])), row 0x3100 0x3, by decide +kernel⟩

theorem test_meets_ClearCommandsClear_15 : ∃ s i q r, State.serves s i q (.exec .bgClear) ∧ (s.taken i).execPasses q r :=
  ⟨(asks dirty (dmsg 8 0x3300 0x3 [])), 2, (reqO (dmsg 8 0x3300 0x3 [])), row 0x3300 0x3, by decide +kernel⟩

theorem test_meets_ClearCommandsClear_16 : ∃ s i q r, State.serves s i q (.exec .mtuClear) ∧ (s.taken i).execPasses q r :=
  ⟨(asks dirty (dmsg 8 0x4000 0x2 [])), 2, (reqO (dmsg 8 0x4000 0x2 [])), row 0x4000 0x2, by decide +kernel⟩

theorem test_meets_ClearCommandsClear_17 : ∃ s i q r, State.serves s i q (.exec .portClear) ∧ (s.taken i).execPasses q r :=
  ⟨(asks dirty (dmsg 8 0x2000 0x2 [])), 2, (reqO (dmsg 8 0x2000 0x2 [])), row 0x2000 0x2, by decide +kernel⟩

theorem test_meets_ClearCommandsClear_18 : ∃ s i q r, State.serves s i q (.exec .gfrClear) ∧ (s.taken i).execPasses q r :=
  ⟨(asks dirty (dmsg 8 0x8000 0x4 [])), 2, (reqO (dmsg 8 0x8000 0x4 [])), row 0x8000 0x4, by decide +kernel⟩

theorem test_meets_ClearCommandsClear_19 : ∃ s i q r, State.serves s i q (.exec .gtcClear) ∧ (s.taken i).execPasses q r :=
  ⟨(asks dirty (dmsg 8 0x9800 0x4 [])), 2, (reqO (dmsg 8 0x9800 0x4 [])), row 0x9800 0x4, by decide +kernel⟩

theorem test_meets_ClearCommandsClear_20 : ∃ s i q r, State.serves s i q (.exec .pcsClear) ∧ (s.taken i).execPasses q r :=
  ⟨(asks dirty (dmsg 8 0x9006 0x1 [])), 2, (reqO (dmsg 8 0x9006 0x1 [])), row 0x9006 0x1, by decide +kernel⟩

theorem test_meets_ClearCommandsClear_21 : ∃ s i q r, State.serves s i q (.exec .clearRefusals) ∧ (s.taken i).execPasses q r :=
  ⟨(asks dirty (dmsg 8 0x1101 0x2 [])), 2, (reqO (dmsg 8 0x1101 0x2 [])), row 0x1101 0x2, by decide +kernel⟩

theorem test_meets_ClearCommandsClear_22 : ∃ s i q r, State.serves s i q (.exec .histClear) ∧ (s.taken i).execPasses q r :=
  ⟨(asks dirty (dmsg 8 0x5804 0x0 (natLe 0xFFFF 2))), 2, (reqO (dmsg 8 0x5804 0x0 (natLe 0xFFFF 2))), row 0x5804 0x0, by decide +kernel⟩

theorem test_meets_ClearCommandsClear_23 : ∃ s i q r, State.serves s i q (.exec .ctxFaultClear) ∧ (s.taken i).execPasses q r :=
  ⟨(asks dirty (dmsg 8 0x4030 0x0 (natLe 4095 2))), 2, (reqO (dmsg 8 0x4030 0x0 (natLe 4095 2))), row 0x4030 0x0, by decide +kernel⟩

theorem test_meets_ClearCommandsClear_24 : ∃ s i q r, State.serves s i q (.exec .lostClear) ∧ (s.taken i).execPasses q r :=
  ⟨(asks dirty (dmsg 8 0x2180 0x2 [])), 2, (reqO (dmsg 8 0x2180 0x2 [])), row 0x2180 0x2, by decide +kernel⟩

theorem test_meets_ClearCommandsClear_25 : ∃ s i q r, State.serves s i q (.exec .hpClear) ∧ (s.taken i).execPasses q r :=
  ⟨(asks dirty (dmsg 8 0x8100 0x6 [])), 2, (reqO (dmsg 8 0x8100 0x6 [])), row 0x8100 0x6, by decide +kernel⟩

end Sys2Proof.Tests.DictionaryD

namespace Sys2Proof.Tests.Gathers

def t4 : State := put task 0x6100 3 table
def posted : State := { t4 with gpes := [(3, { posted := [gather] })] }
def queued : State := { t4 with gpes := [(3, { cmds := [(0, gather)], next := 1 })] }
def zero : State := { t4 with gpes := [(3, { cmds := [(0, { gather with raw := zeros 64 })], next := 1 })] }
def doneS : State := { t4 with gpes := [(3, { cmds := [(0, { gather with done := true, started := true })], next := 1 })] }
def started : State := nx (.gatherCommandStart 3) queued
def st1 : State := nx (.gpeLineReadIssue 3) started
def c1 : GCmd := st1.gcmd 3 0
def reading : State := nx (.gpeLineReadIssue 3) started
def came : State := { reading with rsps := [(0, { performed := true, data := List.replicate 64 (7 : Byte) })] }
def orphan : State := { came with gpes := [(3, { tags := (came.gpe 3).tags })] }
def came2 : State := came.setGcmd 3 0 { (came.gcmd 3 0) with rows := sput (came.gcmd 3 0).rows 0 { (sget ({} : GRow) (came.gcmd 3 0).rows 0) with stage := 1 } }
def w3 : State :=
  let t := sget {} (came2.gpe 3).tags 0
  let v := ((came2.settle (.gpe 3 0) false).forget [0]).countAccess t.acid t.va t.tgt
  let v := v.setGpe 3 { v.gpe 3 with tags := sdel (v.gpe 3).tags 0 }
  let c := v.gcmd 3 t.cmd
  let r := GRow.onLine (sget {} c.rows t.row) c.desc c.ec c.epoch (List.replicate 64 (7 : Byte))
  let v := v.setGcmd 3 t.cmd { c with rows := sput c.rows t.row r }
  if r.miss then v.tabCount c.table 1 else v

theorem test_meets_GathersStartAndEnd_1 : ∃ (s : State) (u : State) (g : Fin 48) (x : Gpe) (c : GCmd) (rest : List GCmd), u = s.gReap g ∧ x = u.gpe g
    ∧ s.frozen = false ∧ x.posted = c :: rest ∧ x.cmds.length < 32 ∧ u.gpeResetting g = false :=
  ⟨posted, _, (3 : Fin 48), _, (((((posted).gReap (3 : Fin 48)).gpe (3 : Fin 48)).posted).head (by decide +kernel)), (((((posted).gReap (3 : Fin
    48)).gpe (3 : Fin 48)).posted).tail), rfl, rfl, by decide +kernel⟩

theorem test_meets_GathersStartAndEnd_2 : ∃ (s : State) (u : State) (g : Fin 48) (k : Nat) (c : GCmd), u = s.gReap g ∧ s.frozen = false ∧
    s.gpeResetting g = false ∧ (u.gpe g).cmds.find? (fun p => !p.2.started) = some (k, c) ∧ gNout c.raw = 0 :=
  ⟨zero, _, (3 : Fin 48), ((((((zero).gReap (3 : Fin 48)).gpe (3 : Fin 48)).cmds.find? (fun p => !p.2.started)).get (by decide +kernel)).1),
    ((((((zero).gReap (3 : Fin 48)).gpe (3 : Fin 48)).cmds.find? (fun p => !p.2.started)).get (by decide +kernel)).2), rfl, by decide +kernel⟩

theorem test_meets_GathersStartAndEnd_3 : ∃ (s : State) (u : State) (v : State) (g : Fin 48) (k : Nat) (n : Nat) (c : GCmd) (c' : GCmd) (d : Bytes), u
    = s.gReap g ∧ d = u.tableDesc (gTable c.raw) ∧ n = (if tdPush d then tdRemote d else gTable c.raw) ∧ c' =
    { c with started := true, base := 64 * u.frameBase c.tile ((u.tile c.tile).ctx c.ctx).frame, obase := 64 * u.frameBase (8 * cabOf c.tile + gOutTile c.raw) ((u.tile c.tile).ctx c.ctx).frame, cdesc := d, desc := u.tableDesc n, table := n, acid := tdAcid (u.tableDesc n), ec := u.epochCfg n, epoch := if tdImm (u.tableDesc n) then 0 else (u.table n).epochFor (u.req c.req).snapshot, gen := u.epm.gen }
    ∧ v = (u.gpeCount g 0).setGcmd g k c' ∧ s.frozen = false ∧ s.gpeResetting g = false ∧ (u.gpe g).cmds.find? (fun p => !p.2.started) = some (k, c) ∧
    gNout c.raw ≠ 0 :=
  ⟨queued, _, _, (3 : Fin 48), ((((((queued).gReap (3 : Fin 48)).gpe (3 : Fin 48)).cmds.find? (fun p => !p.2.started)).get (by decide +kernel)).1), _,
    ((((((queued).gReap (3 : Fin 48)).gpe (3 : Fin 48)).cmds.find? (fun p => !p.2.started)).get (by decide +kernel)).2), _, _, rfl, rfl, rfl, rfl,
    rfl, by decide +kernel⟩

theorem test_meets_GathersStartAndEnd_4 : ∃ (s : State) (u : State) (g : Fin 48) (k : Nat) (c : GCmd), u = s.gReap g ∧ u.gcmd g k = c ∧ s.frozen =
    false ∧ (u.gpe g).cmds.find? (fun p => p.2.pd.isNone) = some (k, c) :=
  ⟨queued, _, (3 : Fin 48), ((((((queued).gReap (3 : Fin 48)).gpe (3 : Fin 48)).cmds.find? (fun p => p.2.pd.isNone)).get (by decide +kernel)).1), _,
    rfl, rfl, by decide +kernel⟩

theorem test_meets_LinesReachRows_1 : ∃ (s : State) (u : State) (v : State) (w : State) (g : Fin 48) (n : Nat) (k : Nat) (row : Nat) (va : Nat) (a :
    Nat) (c : GCmd) (r : GRow) (e : TlbEnt) (t : GTag), u = s.gReap g ∧ r = sget {} c.rows row ∧ v = ((u.setGcmd g k
    { c with rows := sput c.rows row { r with want := r.want.drop 1 } }).setGpe g
    { (u.setGcmd g k { c with rows := sput c.rows row { r with want := r.want.drop 1 } }).gpe g with tags := sput ((u.setGcmd g k { c with rows := sput c.rows row { r with want := r.want.drop 1 } }).gpe g).tags n t })
    ∧ s.frozen = false ∧ s.gpeResetting g = false ∧ (∀ p ∈ (u.gpe g).tags, p.2.id.isSome = true ∨ p.2.got = true) ∧ sfree (u.gpe g).tags 2048 = some n
    ∧ (u.gpe g).cmds.find? (fun p => p.2.started && !p.2.done && (p.2.nextLine.isSome || decide (p.2.nrows < p.2.streamLen))) = some (k, c) ∧
    c.nextLine = some (row, va) ∧ c.pd = none ∧ c.acid = t.acid ∧ t = { cmd := k, row := row, va := va, since := u.now, acid := t.acid } ∧ v.xlate
    (.cab (g / 4)) c.acid va false = (w, .go (.dev a) e) ∧ (w.metered c.req 0 1).isSome = true :=
  ⟨st1, _, _, (((((((st1).gReap (3 : Fin 48)).setGcmd (3 : Fin 48) (0 : Nat)
    { (c1) with rows := sput (c1).rows (0 : Nat) { (sget {} (c1).rows (0 : Nat)) with want := (sget {} (c1).rows (0 : Nat)).want.drop 1 } }).setGpe (3
    : Fin 48) { (((st1).gReap (3 : Fin 48)).setGcmd (3 : Fin 48) (0 : Nat) { (c1) with rows := sput (c1).rows (0 : Nat) { (sget {} (c1).rows (0 : Nat)) with want := (sget {} (c1).rows (0 : Nat)).want.drop 1 } }).gpe (3 : Fin 48) with tags := sput ((((st1).gReap (3 : Fin 48)).setGcmd (3 : Fin 48) (0 : Nat) { (c1) with rows := sput (c1).rows (0 : Nat) { (sget {} (c1).rows (0 : Nat)) with want := (sget {} (c1).rows (0 : Nat)).want.drop 1 } }).gpe (3 : Fin 48)).tags (1 : Nat) ({ cmd := 0, row := 0, va := 0x1040, since := st1.now, acid := 5 } : GTag) })).xlate
    (.cab ((3 : Fin 48) / 4)) (c1).acid (0x1040 : Nat) false).1), (3 : Fin 48), (1 : Nat), (0 : Nat), (0 : Nat), (0x1040 : Nat), (0x1040 : Nat), c1,
    _, page, ({ cmd := 0, row := 0, va := 0x1040, since := st1.now, acid := 5 } : GTag), rfl, rfl, rfl, by decide +kernel⟩

theorem test_meets_LinesReachRows_2 : ∃ (s : State) (v : State) (g : Fin 48) (n : Nat) (id : Nat) (t : GTag) (m : MemRsp) (c : GCmd) (r : GRow), v =
    ((s.settle (.gpe g n) false).forget [id]).countAccess t.acid t.va t.tgt ∧ r = sget {} c.rows t.row ∧ sfind (s.gpe g).tags n = some t ∧ t.id = some
    id ∧ sfind s.rsps id = some m ∧ m.performed = true ∧ m.err = .none ∧ s.faults.grave = false ∧ s.inTurn (g / 4) [(t.tgt.home, m.num)] = true ∧
    sfind (v.gpe g).cmds t.cmd = some c ∧ (c.pd.isSome = true ∨ v.taskGoesOn c.req = true) ∧ r.stage = 3 :=
  ⟨came, _, (3 : Fin 48), (0 : Nat), (0 : Nat), ((sfind ((came).gpe (3 : Fin 48)).tags (0 : Nat)).get (by decide +kernel)), ((sfind (came).rsps (0 :
    Nat)).get (by decide +kernel)), ((sfind (((((came).settle (.gpe (3 : Fin 48) (0 : Nat)) false).forget [(0 : Nat)]).countAccess ((sfind ((came).gpe
    (3 : Fin 48)).tags (0 : Nat)).get (by decide +kernel)).acid ((sfind ((came).gpe (3 : Fin 48)).tags (0 : Nat)).get (by decide +kernel)).va ((sfind
    ((came).gpe (3 : Fin 48)).tags (0 : Nat)).get (by decide +kernel)).tgt).gpe (3 : Fin 48)).cmds ((sfind ((came).gpe (3 : Fin 48)).tags (0 :
    Nat)).get (by decide +kernel)).cmd).get (by decide +kernel)), _, rfl, rfl, by decide +kernel⟩

theorem test_meets_LinesReachRows_4 : ∃ (s : State) (v : State) (g : Fin 48) (n : Nat) (id : Nat) (found : Ecc) (t : GTag) (m : MemRsp), v =
    ((s.settle (.gpe g n) false).forget [id]).countAccess t.acid t.va t.tgt ∧ sfind (s.gpe g).tags n = some t ∧ t.id = some id ∧ sfind s.rsps id =
    some m ∧ m.performed = true ∧ s.faults.grave = false ∧ s.inTurn (g / 4) [(t.tgt.home, m.num)] = true ∧ sfind (v.gpe g).cmds t.cmd = none :=
  ⟨orphan, _, (3 : Fin 48), (0 : Nat), (0 : Nat), (.clean : Ecc), ((sfind ((orphan).gpe (3 : Fin 48)).tags (0 : Nat)).get (by decide +kernel)),
    ((sfind (orphan).rsps (0 : Nat)).get (by decide +kernel)), rfl, by decide +kernel⟩

theorem test_meets_LinesReachRows_3 : ∃ (s : State) (v : State) (g : Fin 48) (n : Nat) (id : Nat) (t : GTag) (m : MemRsp) (c : GCmd) (r : GRow), v =
    ((s.settle (.gpe g n) false).forget [id]).countAccess t.acid t.va t.tgt ∧ r = sget {} c.rows t.row ∧ sfind (s.gpe g).tags n = some t ∧ t.id = some
    id ∧ sfind s.rsps id = some m ∧ m.performed = true ∧ m.err = .none ∧ s.faults.grave = false ∧ s.inTurn (g / 4) [(t.tgt.home, m.num)] = true ∧
    sfind (v.gpe g).cmds t.cmd = some c ∧ (c.pd.isSome = true ∨ v.taskGoesOn c.req = true) ∧ r.stage ≠ 3 :=
  ⟨came2, _, (3 : Fin 48), (0 : Nat), (0 : Nat), ((sfind ((came2).gpe (3 : Fin 48)).tags (0 : Nat)).get (by decide +kernel)), ((sfind (came2).rsps (0
    : Nat)).get (by decide +kernel)), ((sfind (((((came2).settle (.gpe (3 : Fin 48) (0 : Nat)) false).forget [(0 : Nat)]).countAccess ((sfind
    ((came2).gpe (3 : Fin 48)).tags (0 : Nat)).get (by decide +kernel)).acid ((sfind ((came2).gpe (3 : Fin 48)).tags (0 : Nat)).get
    (by decide +kernel)).va ((sfind ((came2).gpe (3 : Fin 48)).tags (0 : Nat)).get (by decide +kernel)).tgt).gpe (3 : Fin 48)).cmds ((sfind
    ((came2).gpe (3 : Fin 48)).tags (0 : Nat)).get (by decide +kernel)).cmd).get (by decide +kernel)), _, rfl, rfl, by decide +kernel⟩

end Sys2Proof.Tests.Gathers

namespace Sys2Proof.Tests.GathersB

def tpush : Bytes := pack 64 [(112, 1), (113, 1), (115, 1), (136, 5), (149, 31), (161, 127), (280, 1023), (448, 0x1000), (100, 3), (86, 1)]
def sum2 : GCmd := { raw := pack 64 [(500, 4), (497, 1), (494, 1), (399, 2), (386, 1), (342, 512), (298, 64), (282, 128), (260, 256)], req := 0 }
def p0 : State :=
  let s := put (put (put task 0x6100 4 tpush) 0x6100 3 table) 0x6200 0 (natLe 9 2 ++ natLe 11 2 ++ zeros 508)
  { s with gpes := [(3, { cmds := [(0, sum2)], next := 1 })], tiles := { s.tiles with tile := [(0, { scr := [(8, 1#8), (512, 2#8)] })] } }
def p1 : State := nx (.gatherCommandStart 3) p0
def p2 : State := nx (.pdRequestSend 3) p1
def f2 : FabMsg := { op := 9, dst := 7 }
def p3 : State := nx (.pdRequestSend 3) p2
def p4 : State := { p3 with fab := { p3.fab with msgs := sput p3.fab.msgs 99 { msg := { dst := 7, op := 9, tag := 0, payload := pack 144 [(0,1)] } } } }
def w4 : State :=
  let u := p4.dropMsg 99
  let c := u.gcmd 3 0
  let b := pack 144 [(0,1)]
  let u := { u with fab := { u.fab with tags := sdel u.fab.tags 0 } }
  let u := u.setGpe 3 { u.gpe 3 with slots := sdel (u.gpe 3).slots 0 }
  u.setGcmd 3 0 { c with parts := sput c.parts 0 { sget ({} : Part) c.parts 0 with state := 2, n := fld b 64 32, value := (pdWiden (gForm c.raw) (tdDim c.cdesc) (b.drop 16)).1, flags := fld b 56 8 ||| (if (pdWiden (gForm c.raw) (tdDim c.cdesc) (b.drop 16)).2 then fEscaped else 0) } }
def p5 : State := { p3 with gtc := { count := 2^40 } }
def w5 : State :=
  let s := p5.setGpe 3 { p5.gpe 3 with slots := sdel (p5.gpe 3).slots 0 }
  let s := { s with fab := { s.fab with tags := s.fab.tags.filter (fun p => p.2 ≠ TagFor.pd 3 0) } }
  s.gpeCount 3 6
def hdr : Bytes := pack 32 [(84, 31), (144, 1), (177, 1), (180, 3)] ++ natLe 5 8
def inm : FabMsg := { dst := 7, src := 9, op := 5, len := 10, payload := hdr }
def q1 : State := { (put task 0x6100 3 table) with fab := { msgs := [(4, { msg := inm, src := some 2 })] } }
def q2 : State := { q1 with fab := { q1.fab with pdIn := List.replicate 256 {} } }
def q3 : State := put { q1 with fab := { pdIn := [{ msg := inm }] }, sqe := { q1.sqe with inb := { z := 9000 } } } 0x7800 0 (natLe 1000 4 ++ natLe 1000 4 ++ natLe 9 4)
def q4 : State := put q3 0x6100 3 (zeros 64)

theorem test_meets_PartsTravelAndReturn_1 : ∃ (s : State) (u : State) (v : State) (w : State) (g : Fin 48) (k : Nat) (j : Nat) (slot : Nat) (c : GCmd)
    (p : Part) (b : Bytes), u = s.gReap g ∧ b = pdRequestBytes c p (64 * g + slot) ∧ s.frozen = false ∧ s.gpeResetting g = false ∧ (u.gpe
    g).cmds.find? (fun p => p.2.started && !p.2.done && p.2.push && ((u.partToSend p.2).isSome || decide (p.2.split < gNout p.2.raw))) = some (k, c) ∧
    u.partToSend c = some (j, p) ∧ sfree (u.gpe g).slots 64 = some slot ∧ u.metered c.req 2 1 = some v ∧ v.fabRequest (.pd g slot) 5 (2 ^ 48 * p.home)
    (b.length / 4) b false u.now = some w :=
  ⟨p1, _, ((((p1).gReap (3 : Fin 48)).metered (p1.gcmd 3 0).req 2 1).get (by decide +kernel)), ((((((p1).gReap (3 : Fin 48)).metered (p1.gcmd 3 0).req
    2 1).get (by decide +kernel)).fabRequest (.pd (3 : Fin 48) (0 : Nat)) 5 (2 ^ 48 * (sget {} (p1.gcmd 3 0).parts 0).home) ((pdRequestBytes (p1.gcmd
    3 0) (sget {} (p1.gcmd 3 0).parts 0) (64 * (3 : Fin 48) + (0 : Nat))).length / 4) (pdRequestBytes (p1.gcmd 3 0) (sget {} (p1.gcmd 3 0).parts 0)
    (64 * (3 : Fin 48) + (0 : Nat))) false ((p1).gReap (3 : Fin 48)).now).get (by decide +kernel)), (3 : Fin 48), (0 : Nat), (0 : Nat), (0 : Nat),
    p1.gcmd 3 0, sget {} (p1.gcmd 3 0).parts 0, _, rfl, rfl, by decide +kernel⟩

theorem test_meets_PartsTravelAndReturn_2 : ∃ (s : State) (u : State) (k : Nat) (g : Nat) (slot : Nat) (m : FabMsg) (x : PdSlot) (c : GCmd), u =
    s.dropMsg k ∧ s.localMsg k = some m ∧ m.op.toNat = 9 ∧ s.frozen = false ∧ sfind u.fab.tags m.tag.toNat = some (.pd g slot) ∧ sfind (u.gpe g).slots
    slot = some x ∧ sfind (u.gpe g).cmds x.cmd = some c ∧ u.taskGoesOn c.req = true ∧ fld m.payload 48 8 = rsOk :=
  ⟨p4, _, (99 : Nat), (3 : Nat), (0 : Nat), (((p4).localMsg (99 : Nat)).get (by decide +kernel)), ((sfind (((p4).dropMsg (99 : Nat)).gpe (3 :
    Nat)).slots (0 : Nat)).get (by decide +kernel)), ((sfind (((p4).dropMsg (99 : Nat)).gpe (3 : Nat)).cmds ((sfind (((p4).dropMsg (99 : Nat)).gpe (3
    : Nat)).slots (0 : Nat)).get (by decide +kernel)).cmd).get (by decide +kernel)), rfl, by decide +kernel⟩

theorem test_meets_PartsTravelAndReturn_3 : ∃ (s : State) (g : Fin 48) (slot : Nat) (x : PdSlot), sfind (s.gpe g).slots slot = some x ∧ s.frozen =
    false ∧ 1000 * s.rdN 0x6002 0 0 4 ≤ since s.now x.since :=
  ⟨p5, (3 : Fin 48), (0 : Nat), ((sfind ((p5).gpe (3 : Fin 48)).slots (0 : Nat)).get (by decide +kernel)), by decide +kernel⟩

theorem test_meets_PartsTravelAndReturn_4 : ∃ (s : State) (u : State) (k : Nat) (m : FabMsg), u = s.dropMsg k ∧ s.localMsg k = some m ∧ m.op.toNat = 5
    ∧ s.faults.grave = false ∧ s.staleSent m.sent = false ∧ m.rsv = false ∧ m.payload.length = 4 * m.len ∧ m.payload.length ≤ 6176 ∧ s.fab.pdIn.length
    < 256 :=
  ⟨q1, _, (4 : Nat), (((q1).localMsg (4 : Nat)).get (by decide +kernel)), rfl, by decide +kernel⟩

theorem test_meets_PartsTravelAndReturn_5 : ∃ (s : State) (k : Nat) (m : FabMsg), s.localMsg k = some m ∧ m.op.toNat = 5 ∧ s.faults.grave = false ∧
    s.staleSent m.sent = false ∧ m.rsv = false ∧ m.payload.length = 4 * m.len ∧ m.payload.length ≤ 6176 ∧ 256 ≤ s.fab.pdIn.length :=
  ⟨q2, (4 : Nat), (((q2).localMsg (4 : Nat)).get (by decide +kernel)), by decide +kernel⟩

theorem test_meets_PartsTravelAndReturn_6 : ∃ (s : State) (k : Nat) (m : FabMsg), s.localMsg k = some m ∧ m.op.toNat = 5 ∧ s.faults.grave = false ∧
    s.staleSent m.sent = false ∧ (m.rsv = true ∨ m.payload.length ≠ 4 * m.len ∨ 6176 < m.payload.length) :=
  ⟨({ q1 with fab := { msgs := [(4, { msg := { inm with rsv := true }, src := some 2 })] } } : State), (4 : Nat),
    ((({ q1 with fab := { msgs := [(4, { msg := { inm with rsv := true }, src := some 2 })] } } : State).localMsg (4 : Nat)).get (by decide +kernel)),
    by decide +kernel⟩

theorem test_meets_PartsTravelAndReturn_7 : ∃ (s : State) (p : PdIn) (rest : List PdIn) (h : Bytes) (d : Bytes) (g : Nat) (c : GCmd), h =
    p.msg.payload ∧ d = s.tableDesc (pdTable h) ∧ c =
    { pd := some p, started := true, cdesc := d, desc := d, table := pdTable h, acid := tdAcid d, ec := s.epochCfg (pdTable h), epoch := pdEpoch h, gen := s.epm.gen }
    ∧ s.fab.pdIn = p :: rest ∧ s.frozen = false ∧ pdBad h = false ∧ s.homeCheck d (pdTable h) (pdEpoch h) (pdDim h) = rsOk ∧ s.partGpe = some g ∧ 1000
    * s.partLines (.cab (g / 4)) c ≤ s.inBucketNow :=
  ⟨q3, ((q3).fab.pdIn).head (by decide +kernel), ((q3).fab.pdIn).tail, _, _, (0 : Nat), _, rfl, rfl, rfl, by decide +kernel⟩

theorem test_meets_PartsTravelAndReturn_8 : ∃ (s : State) (p : PdIn) (rest : List PdIn) (h : Bytes) (d : Bytes) (g : Nat) (r : Nat), h = p.msg.payload
    ∧ d = s.tableDesc (pdTable h) ∧ r = (if !tdValid d then rsNoTable else if pdBad h then rsMalformed else s.homeCheck d (pdTable h) (pdEpoch h)
    (pdDim h)) ∧ s.fab.pdIn = p :: rest ∧ s.frozen = false ∧ r ≠ rsOk ∧ s.partGpe = some g :=
  ⟨q4, ((q4).fab.pdIn).head (by decide +kernel), ((q4).fab.pdIn).tail, _, _, (0 : Nat), _, rfl, rfl, rfl, by decide +kernel⟩

end Sys2Proof.Tests.GathersB

namespace Sys2Proof.Tests.Epochs

def exwH (s : State) (q : DictReq) : State :=
  let r := ((s.taken 0).odsRun q).1
  { r with ods := { r.ods with cmds := s.ods.cmds } }
/-- Table 3 with versions: DIRECT, FP32 rows of 32 elements. -/
def tver : Bytes := pack 64 [(112, 1), (136, 5), (149, 31), (161, 127), (280, 1023), (448, 0x1000)]
def ecfg : Bytes := pack 64 [(455, 0x40000), (391, 0x80000), (320, 4), (280, 99), (240, 0), (208, 77)]
def e0 : State :=
  let s := put (put (put (put task 0x6100 3 tver) 0x6900 3 ecfg) 0x6810 2 (natLe 0x8000 8 ++ natLe 5 2 ++ [4, 1])) 0x6811 2 (natLe 3 4)
  { s with epm := { s.epm with tables := [(3, { live := true, epoch := 4, prev := 4 })] }, mtu := { s.mtu with ctl := [page] } }
/-- A batch of one WRITE to table 3. -/
def bdesc : Bytes := pack 64 [(448, 5), (391, 0x10000), (327, 0x11000), (223, 1), (211, 3), (199, 5), (181, 127)]
def e1 : State := { e0 with epm := { e0.epm with rings := [(2, { ready := some bdesc })] } }
def e1b : State := { e0 with epm := { e0.epm with rings := [(2, { ready := some (zeros 64) })] } }
def e2 : State := fetched (.ring 2) [.line 512] { e0 with epm := { e0.epm with rings := [(2, { retry := some {} })] }, gtc := { count := 1000 } }
def e3 : State := { e0 with epm := { e0.epm with rings := [(2, { retry := some { issued := 6, returned := 6 } })] }, gtc := { count := 100000 } }
def e4 : State := fetched (.ring 2) [.line 1024, .line 1088, .line 1089, .line 4096, .line 8320, .far 4096] (nx .epmBatchStart e1)
def e5 : State := (fetched (.ring 2) [.line 0] (nx .epmBatchStart e1)).onBatch 2 (fun b => { b with status := some 3 })
def f1 : State := { e0 with epm := { e0.epm with tables := [(3, { live := true, epoch := 4, prev := 4, state := tsReady })] } }
def bm : Bytes := pack 512 [(3, 1), (9, 1)]
def bm3 : Bytes := pack 512 [(3, 1)]
def g1 : State := { e0 with epm := { e0.epm with gen := 9, tables := [(3, { live := true, epoch := 5, prev := 4, state := tsDraining, genChanged := 9, prevFrom := 0, cursor := 1 })] }, gtc := { count := 2^40 } }
def g2 : State := fetched (.table 3) [.line 8320, .line 4096] (nx (.drainComplete 3) g1)
def e6 : State := nx (.batchRowApply 2) e4
def g2b : State := fetched (.table 3) [.line 8320, .line 4096, .line 8333, .line 8334, .far 4096] (e6.setTable 3 { e6.table 3 with state := tsCompacting, cursor := 1 })
def g3 : State := nx (.compactionStep 3) g2
def g4 : State := fetched (.table 3) [] (nx (.compactionEnd 3) g3)
def h1 : State := fetched (.table 3) [.line 8320, .line 4096] { e0 with epm := { e0.epm with tables := [(3, { live := true, epoch := 4, prev := 4, state := tsDiscarding, cursor := 1 })] } }
def f2 : State := { e0 with epm := { e0.epm with tables := [(3, { live := true, epoch := 5, prev := 4, state := tsDraining })] } }

theorem test_meets_BatchesApply_1 : ∃ (s : State) (g : Nat) (b : Bytes), s.epmStill = false ∧ s.epmBatches < 4 ∧ s.nextRing = some g ∧ (s.ring
    g).ready = some b ∧ b ≠ [] :=
  ⟨e1, (2 : Nat), ((((e1).ring (2 : Nat)).ready).get (by decide +kernel)), by decide +kernel⟩

theorem test_meets_BatchesApply_2 : ∃ (s : State) (u : State) (w : State) (c : Instr) (g : Fin 8) (b : Bytes), w = (if u.epmBatches < 4 then
    u.batchBegin g b else u.setRing g { u.ring g with ready := some b, retry := none, fresh := false }) ∧ s.epmStill = false ∧ (c = .ringReread g ∧
    ((∃ r, (s.ring g).retry = some r ∧ s.retryDue r = true) ∨ ((s.ring g).retry = none ∧ (s.ring g).fresh = true)) ∨ c = .epmBatchStart ∧ s.epmBatches
    < 4 ∧ s.nextRing = some g.val ∧ (s.ring g).ready = none) ∧ (s.asJob (.ring g)).vread (.epm g) .ctl (s.ringAcid g) (s.ringBase g + 64 * (s.ring
    g).head) 64 = (u, b, false, .none) ∧ bdSeq b = (s.ring g).stream % 256 ∧ u.coh.need = [] :=
  ⟨e2, ((e2.asJob (.ring 2)).vread (.epm 2) .ctl (e2.ringAcid 2) (e2.ringBase 2 + 64 * (e2.ring 2).head) 64).1, _, (.ringReread 2 : Instr), (2 : Fin
    8), zeros 64, rfl, by decide +kernel⟩

theorem test_meets_BatchesApply_3 : ∃ (s : State) (g : Fin 8) (r : Retry), s.epmStill = false ∧ (s.ring g).retry = some r ∧ s.retryOver r = true :=
  ⟨e3, (2 : Fin 8), ((((e3).ring (2 : Fin 8)).retry).get (by decide +kernel)), by decide +kernel⟩

theorem test_meets_BatchesApply_4 : ∃ (s : State) (u : State) (g : Fin 8) (b : Batch) (b' : Batch), ((jRow g b).go ((s.asJob (.ring g)).unmarkBatch
    g)).2 = u ∧ (s.ring g).batch = some b ∧ s.epmStill = false ∧ b.status = none ∧ bdOp b.desc ≠ 2 ∧ b.next < bdCount b.desc ∧ s.tableHeld g (bdTable
    b.desc) = false ∧ ((jRow g b).go ((s.asJob (.ring g)).unmarkBatch g)).1.toOption = some () ∧ u.coh.need = [] ∧ (u.ring g).batch = some b' :=
  ⟨e4, _, (2 : Fin 8), ((e4.ring 2).batch.get (by decide +kernel)), ((((((jRow (2 : Fin 8) (((e4.ring 2).batch.get (by decide +kernel)))).go (((e4).asJob (.ring (2 : Fin 8))).unmarkBatch (2 :
    Fin 8))).2).ring (2 : Fin 8)).batch).get (by decide +kernel)), rfl, by decide +kernel⟩

theorem test_meets_BatchesApply_5 : ∃ (s : State) (u : State) (v : State) (w : State) (g : Fin 8) (b : Batch) (b' : Batch) (st : Nat), (s.ring
    g).batch = some b ∧ s.epmStill = false ∧ b.undecided = false ∧ (b.status = some st ∧ v = s ∨ b.status = none ∧ (bdOp b.desc = 2 ∨ bdCount b.desc ≤
    b.next) ∧ st = bsOk ∧ (jBatchDone g b).go ((s.asJob (.ring g)).unmarkBatch g) = (.ok (), u) ∧ u.coh.need = [] ∧ v = (u.onBatch g (fun x =>
    { x with status := some bsOk })).endJob (.ring g)) ∧ (v.ring g).batch = some b' ∧ b'.status = some st ∧ b'.undecided = false ∧ (if bdDone b'.desc
    = 0 then ((v.asJob (.ring g)).unmarkBatch g, VErr.none) else ((v.asJob (.ring g)).unmarkBatch g).vwrite (.epm g) .ctl (bdAcid b'.desc) (bdDone
    b'.desc) (natLe (st + 2 ^ 32 * b'.applied) 8)) = (w, .none) ∧ w.coh.need = [] :=
  ⟨e5, e5, e5, ((e5.asJob (.ring 2)).unmarkBatch 2), (2 : Fin 8), ((e5.ring 2).batch.get (by decide +kernel)), ((((e5).ring (2 : Fin 8)).batch).get (by decide +kernel)),
    (3 : Nat), by decide +kernel, by decide +kernel, by decide +kernel, .inl (by decide +kernel), by decide +kernel, by decide +kernel,
    by decide +kernel, by decide +kernel, by decide +kernel⟩

theorem test_meets_BatchesApply_6 : ∃ s i q r, puttable s i q r .ringTail = true :=
  ⟨(asks e0 (dmsg 2 0x6811 2 (natLe 2 4))), 2, (reqO (dmsg 2 0x6811 2 (natLe 2 4))), row 0x6811 2, by decide +kernel⟩

theorem test_meets_EpochsFlipAndSettle_1 : ∃ s i q r, State.serves s i q (.exec .epmFlip) ∧ (s.taken i).execPasses q r :=
  ⟨(asks f1 (dmsg 8 0x6800 0x0 bm)), 2, (reqO (dmsg 8 0x6800 0x0 bm)), row 0x6800 0x0, by decide +kernel⟩

theorem test_meets_EpochsFlipAndSettle_2 : ∃ s i q r, State.serves s i q (.exec .epmDiscard) ∧ (s.taken i).execPasses q r :=
  ⟨(asks f1 (dmsg 8 0x6800 0x1 bm3)), 2, (reqO (dmsg 8 0x6800 0x1 bm3)), row 0x6800 0x1, by decide +kernel⟩

theorem test_meets_EpochsFlipAndSettle_3 : ∃ s i q r, State.serves s i q (.exec .ringResume) ∧ (s.taken i).execPasses q r :=
  ⟨(asks (e3.setRing 2 { e3.ring 2 with ahead := true }) (dmsg 8 0x6800 0x2 [2])), 2, (reqO (dmsg 8 0x6800 0x2 [2])), row 0x6800 0x2,
    by decide +kernel⟩

theorem test_meets_EpochsFlipAndSettle_4 : ∃ s i q r, State.serves s i q (.exec .epmResumeTable) ∧ (s.taken i).execPasses q r :=
  ⟨(asks ({ e0 with epm := { e0.epm with tables := [(3, { live := true, stopped := true, state := tsCompacting })] } }) (dmsg 8 0x6800 0x3 (natLe 3
    2))), 2, (reqO (dmsg 8 0x6800 0x3 (natLe 3 2))), row 0x6800 0x3, by decide +kernel⟩

theorem test_meets_EpochsFlipAndSettle_5 : ∃ (s : State) (n : Fin 4096) (t : EpochSt), t = s.table n ∧ s.epm.retreats = [] ∧ s.epmStill = false ∧
    t.twoLive = true ∧ s.readersGone t.prevFrom t.genChanged = true ∧ s.inboundParts n = 0 ∧ 1000000 * s.rdN 0x6801 1 0 4 ≤ since s.now t.commitAt :=
  ⟨g1, (3 : Fin 4096), _, rfl, by decide +kernel⟩

theorem test_meets_EpochsFlipAndSettle_6 : ∃ (s : State) (n : Fin 4096), s.epm.retreats = [] ∧ (s.table n).twoLive = false :=
  ⟨e0, (3 : Fin 4096), by decide +kernel⟩

theorem test_meets_EpochsFlipAndSettle_7 : ∃ (s : State) (u : State) (n : Fin 4096) (t : EpochSt) (did : Bool), t = s.table n ∧ ((jCompact n
    (s.tableDesc n) t.compactAt).go (s.asJob (.table n))).2 = u ∧ s.epmStill = false ∧ (t.state = tsCompacting ∨ t.state = tsDiscarding) ∧ t.stopped =
    false ∧ t.compactAt < t.cursor ∧ ((jCompact n (s.tableDesc n) t.compactAt).go (s.asJob (.table n))).1.toOption = some did ∧ u.coh.need = [] :=
  ⟨g2, _, (3 : Fin 4096), _, false, rfl, rfl, by decide +kernel⟩

theorem test_meets_EpochsFlipAndSettle_8 : ∃ (s : State) (n : Fin 4096) (t : EpochSt), t = s.table n ∧ s.epm.retreats = [] ∧ s.epmStill = false ∧
    t.state = tsCompacting ∧ t.stopped = false ∧ t.cursor ≤ t.compactAt ∧ t.endGen = none ∧ s.canStep = true :=
  ⟨g3, (3 : Fin 4096), _, rfl, by decide +kernel⟩

theorem test_meets_EpochsFlipAndSettle_9 : ∃ (s : State) (u : State) (n : Fin 4096) (t : EpochSt) (g : Nat), t = s.table n ∧ ((jServe n (s.tableDesc
    n)).go (s.asJob (.table n))).2 = u ∧ s.epm.retreats = [] ∧ s.epmStill = false ∧ t.state = tsCompacting ∧ t.stopped = false ∧ t.cursor ≤
    t.compactAt ∧ t.endGen = some g ∧ s.earlierGone n g = true ∧ ((jServe n (s.tableDesc n)).go (s.asJob (.table n))).1.toOption = some () ∧
    u.coh.need = [] :=
  ⟨g4, _, (3 : Fin 4096), _, ((((g4).table (3 : Fin 4096)).endGen).get (by decide +kernel)), rfl, rfl, by decide +kernel⟩

theorem test_meets_EpochsFlipAndSettle_10 : ∃ (s : State) (u : State) (v : State) (n : Fin 4096) (t : EpochSt), t = s.table n ∧ ((jSweep n
    (s.tableDesc n) t.compactAt (t.cursor - t.compactAt)).go (s.asJob (.table n))).2 = v ∧ ((jServe n (s.tableDesc n)).go v).2 = u ∧ s.epmStill =
    false ∧ t.state = tsDiscarding ∧ t.stopped = false ∧ ((jSweep n (s.tableDesc n) t.compactAt (t.cursor - t.compactAt)).go (s.asJob (.table
    n))).1.toOption = some () ∧ ((jServe n (s.tableDesc n)).go v).1.toOption = some () ∧ u.coh.need = [] :=
  ⟨h1, _, _, (3 : Fin 4096), _, rfl, rfl, rfl, by decide +kernel⟩

theorem test_meets_EpochsFlipAndSettle_11 : ∃ (s : State) (p : Bytes) (mine : List Nat), mine = (s.epm.tables.filter (fun t => t.2.live && ecGtk
    (s.epochCfg t.1) = fld p 96 32)).map (fun t => t.1) ∧ s.faults.grave = false ∧ fld p 80 16 ≠ s.node.toNat ∧ fld p 96 32 ≠ 0 ∧ (∀ n ∈ mine,
    ¬((s.table n).state = tsDraining ∧ (s.table n).epoch = fld p 128 64)) :=
  ⟨f1, refusedBytes 0 5 77 9 2, _, rfl, by decide +kernel⟩

theorem test_meets_EpochsFlipAndSettle_12 : ∃ (s : State) (p : Bytes) (mine : List Nat), mine = (s.epm.tables.filter (fun t => t.2.live && ecGtk
    (s.epochCfg t.1) = fld p 96 32)).map (fun t => t.1) ∧ s.faults.grave = false ∧ fld p 80 16 ≠ s.node.toNat ∧ fld p 96 32 ≠ 0 ∧ mine.Nodup ∧ (∃ n ∈
    mine, (s.table n).state = tsDraining ∧ (s.table n).epoch = fld p 128 64) ∧ s.canStep = true ∧ s.epm.retreats = [] :=
  ⟨f2, refusedBytes 0 5 77 9 2, _, rfl, by decide +kernel⟩

theorem test_meets_EpochsFlipAndSettle_13 : ∃ (s : State) (p : Bytes), fld p 80 16 = s.node.toNat :=
  ⟨f2, refusedBytes 0 5 77 7 2, by decide +kernel⟩

end Sys2Proof.Tests.Epochs

namespace Sys2Proof.Tests.Sessions

def rcfg : Bytes := pack 64 [(160, 4), (136, 1), (128, 1), (112, 3), (96, 1), (80, 31), (64, 5), (0, 0x20000)]
def s0 : State :=
  let s := put (put (put task 0x7001 1 rcfg) 0x7002 2 (natLe 0x8000 8 ++ natLe 5 2 ++ [4, 1])) 0x7003 2 (natLe 3 4)
  { s with mtu := { s.mtu with ctl := [page] } }
def dr : Drawer := { key := 9, rclass := 1, ringBase := 0x21000, sumBase := 0x21000 + 768 * 96, valid := true, age := 3, touch := 7 }
def withD (s : State) (d : Drawer) : State := { s with ssu := { s.ssu with drawers := [(s.ssuSet 9 * 16 + 2, d)] } }
def spillC (s : State) : State := put s 0x7000 1 (natLe 0x100000 8 ++ natLe 5 2 ++ [2, 1] ++ zeros 20)
def wb : State := spillC { s0 with ssu := { s0.ssu with wbuf := [dr] } }
def wbf : State := fetched .spill (linesAt 16392 8) wb
def rq : Request := { cls := 2, acid := 5, admitted := true, phase := 2, desc := pack 64 [(64, 9)], lanes := 0xFF }
def spilled : State :=
  let s := nx .drawerSpill wbf
  fetched (.session 9) (linesAt 16392 8) { s with sqe := { s.sqe with reqs := [(0, rq)] }, ssu := { s.ssu with line := [{ key := 9, op := .bind 0, missed := true }] } }
def b0 : State := let s := withD s0 dr; { s with sqe := { s.sqe with reqs := [(0, rq)] } }
def b1 : State := let s := withD s0 { dr with pins := 255 }; { s with sqe := { s.sqe with reqs := [(0, rq)] } }
def b2 : State := nx (.sessionBind 0 .clean) b0
def b3 : State := fetched (.bindReq 0) (linesAt 16392 8) { (spillC s0) with sqe := { s0.sqe with reqs := [(0, rq)] } }
def b3v : State := ((b3.joinLine 9 (.bind 0)).asJob (.bindReq 0)).leaveLine 9 (.bind 0)
def x1 : State := fetched (.session 9) (linesAt 2048 1) { withD s0 dr with gtc := { count := 2 ^ 57 } }
def x3 : State := let s := nx .drawerSpill wbf; fetched (.session 9) (linesAt 16392 8 ++ linesAt 2048 1) { s with gtc := { count := 2 ^ 57 } }
def x3f : State := ((jSpillFind .ssu 9).go (x3.asJob (.session 9))).2
def x4 : State := fetched (.session 9) (linesAt 2048 1) { s0 with ssu := { s0.ssu with doomed := [dr] } }
def x2 : State := let s := withD s0 { dr with rebuild := true, head := 257, length := 257 }; fetched (.session 9) (linesAt 2496 2) { s with ssu := { s.ssu with redo := [(9, 1)] } }
def edesc : Bytes := pack 64 [(448, 9), (391, 0x10000), (256, 3), (239, 1), (227, 5), (221, 1)]
def v1 : State := { s0 with ssu := { s0.ssu with rings := [(2, { ready := some edesc })] } }
def v2 : State := fetched (.evRing 2) [.line 512] { s0 with ssu := { s0.ssu with rings := [(2, { retry := some {} })] }, gtc := { count := 1000 } }
def v3 : State := { s0 with ssu := { s0.ssu with rings := [(2, { retry := some { issued := 6, returned := 6 } })] }, gtc := { count := 100000 } }
def v4 : State := let s := nx .evBatchStart v1; fetched (.evRing 2) (linesAt 1024 2 ++ linesAt 2113 1 ++ linesAt 3267 3) { s with ssu := { s.ssu with drawers := (withD s0 dr).ssu.drawers } }
def v4v : State := ((v4.joinLine 9 (.batch 2)).asJob (.evRing 2)).unmarkEv 2
def v5d : Bytes := pack 64 [(448, 9), (227, 5), (221, 1), (224, 1)]
def v5 : State := fetched (.evRing 2) (linesAt 2048 1) (v4.onEvBatch 2 (fun b => { b with desc := v5d }))
def v5v : State := ((v5.joinLine 9 (.batch 2)).asJob (.evRing 2)).unmarkEv 2
def v6 : State := (nx .evBatchStart v1).onEvBatch 2 (fun b => { b with status := some 3 })
def sc : Scan := { raw := pack 64 [], req := 0 }
def hs0 : State := { b2 with hses := [(0, { posted := [sc] })] }
def hs1 : State := nx (.hseScanAccept 0) hs0
def hs2 : State := { s0 with hses := [(0, { queue := [sc] })] }
def hs4 : State := { s0 with hses := [(0, { tags := [(4095, { id := some 3, acid := 5 })] })], rsps := [(3, { performed := true, data := zeros 64 })] }
def hs6 : State := { b2 with rsps := hs4.rsps, hses := [(0, { queue := [{ sc with phase := 1, left := 2 }], tags := [(4095, { id := some 3, acid := 5 })] })] }
def hs5 : State := nx (.hseScanStart 0) hs1

theorem test_meets_DrawersKeepTheirFields_1 : ∃ (d : Drawer), d.key < 2 ^ 64 ∧ d.ringBase < 2 ^ 57 ∧ d.rclass < 8 ∧ d.sumBase < 2 ^ 57 ∧ d.length < 2
    ^ 24 ∧ d.head < 2 ^ 24 ∧ d.lastEpoch < 2 ^ 64 ∧ d.touch < 2 ^ 32 ∧ d.pins < 256 ∧ d.age < 16 ∧ d.pinLow < 2 ^ 16 :=
  ⟨({ dr with pins := 255, age := 15, head := 2 ^ 24 - 1, rebuild := true } : Drawer), by decide +kernel⟩

theorem test_meets_DrawersKeepTheirFields_2 : ∃ (s : State) (u : State) (d : Drawer) (rest : List Drawer) (lost : Option Drawer), ((jSpill d).go
    { s.asJob .spill with ssu := { s.ssu with wbuf := rest } }).2 = u ∧ s.ssu.wbuf = d :: rest ∧ s.frozen = false ∧ ((jSpill d).go
    { s.asJob .spill with ssu := { s.ssu with wbuf := rest } }).1.toOption = some lost ∧ u.coh.need = [] :=
  ⟨wbf, _, dr, ([] : List Drawer), none, rfl, by decide +kernel⟩

theorem test_meets_DrawersKeepTheirFields_3 : ∃ (s : State), s.ssu.wbuf = [] :=
  ⟨s0, by decide +kernel⟩

theorem test_meets_DrawersKeepTheirFields_4 : ∃ (s : State) (u : State) (key : BitVec 64), ((jReload key.toNat).go (s.asJob (.session key.toNat))).2 =
    u ∧ s.frozen = false ∧ s.resident key.toNat = none ∧ s.inWbuf key.toNat = false ∧ s.reloadAwaited key.toNat = true ∧ ((jReload key.toNat).go
    (s.asJob (.session key.toNat))).1.toOption = some () ∧ u.coh.need = [] :=
  ⟨spilled, _, (9 : BitVec 64), rfl, by decide +kernel⟩

theorem test_meets_SessionsBindAndExpire_1 : ∃ (s : State) (v : State) (r : Nat) (k : Nat) (q : Request) (d : Drawer), q = s.req r ∧ d = s.drawer k ∧
    v = s.joinLine (reqKey q) (.bind r) ∧ s.frozen = false ∧ q.admitted = true ∧ q.phase < 4 ∧ q.binding = none ∧ reqKey q ≠ 0 ∧ s.resident (reqKey q)
    = some k ∧ d.pins < 255 ∧ s.coh.need = [] ∧ v.lineTurn (reqKey q) (.bind r) = true :=
  ⟨b0, _, (0 : Nat), (((b0).resident (reqKey ((b0).req (0 : Nat)))).get (by decide +kernel)), _, _, rfl, rfl, rfl, by decide +kernel⟩

theorem test_meets_SessionsBindAndExpire_2 : ∃ (s : State) (v : State) (r : Nat) (k : Nat) (q : Request), q = s.req r ∧ v = s.joinLine (reqKey q)
    (.bind r) ∧ s.frozen = false ∧ q.admitted = true ∧ q.phase < 4 ∧ q.binding = none ∧ reqKey q ≠ 0 ∧ s.resident (reqKey q) = some k ∧ 255 ≤
    (s.drawer k).pins ∧ s.coh.need = [] ∧ sfind s.sqe.reqs r = some q ∧ q.causes = [] ∧ 1 ≤ q.phase ∧ v.lineTurn (reqKey q) (.bind r) = true :=
  ⟨b1, _, (0 : Nat), (((b1).resident (reqKey ((b1).req (0 : Nat)))).get (by decide +kernel)), _, rfl, rfl, by decide +kernel⟩

theorem test_meets_SessionsBindAndExpire_3 : ∃ (s : State) (v : State) (u : State) (r : Nat) (q : Request), q = s.req r ∧ v = s.joinLine (reqKey q)
    (.bind r) ∧ ((jProbe (reqKey q)).go (((v.asJob (.bindReq r)).leaveLine (reqKey q) (.bind r)).ssuCount 0)).2 = u ∧ s.frozen = false ∧ q.admitted =
    true ∧ q.phase < 4 ∧ q.binding = none ∧ reqKey q ≠ 0 ∧ s.resident (reqKey q) = none ∧ s.inWbuf (reqKey q) = false ∧ v.lineTurn (reqKey q) (.bind
    r) = true ∧ (v.inLine (reqKey q) (.bind r)).gone = false ∧ ((jProbe (reqKey q)).go (((v.asJob (.bindReq r)).leaveLine (reqKey q) (.bind
    r)).ssuCount 0)).1.toOption = some none ∧ u.coh.need = [] :=
  ⟨b3, _, _, (0 : Nat), _, rfl, rfl, rfl, by decide +kernel⟩

theorem test_meets_SessionsBindAndExpire_4 : ∃ (s : State) (r : Nat), (s.req r).binding ≠ none :=
  ⟨b2, (0 : Nat), by decide +kernel⟩

theorem test_meets_SessionsBindAndExpire_5 : ∃ (s : State) (u : State) (w : State) (i : Nat) (key : Nat) (q : DictReq) (r : EntRow) (b : Bytes), key =
    le q.data 0 8 ∧ w = s.taken i ∧ s.serves i q (.exec .sessionQuery) ∧ (s.taken i).execPasses q r ∧ ((∃ k, w.resident key = some k ∧ b = (w.drawer
    k).bytes ∧ u = w) ∨ (w.resident key = none ∧ ∃ d, w.ssu.wbuf.find? (fun d => d.key = key) = some d ∧ b = d.bytes ∧ u = w) ∨ (w.resident key = none
    ∧ w.ssu.wbuf.find? (fun d => d.key = key) = none ∧ u.coh.need = [] ∧ ((∃ va d, (jSpillFind .ssu key).go w = (.ok (some (va, d)), u) ∧ b = d.bytes)
    ∨ (jSpillFind .ssu key).go w = (.ok none, u) ∧ b = zeros 64))) :=
  ⟨(asks b0 (dmsg 8 0x7000 0x6 (natLe 9 8))), ((asks b0 (dmsg 8 0x7000 0x6 (natLe 9 8))).taken 2), _, (2 : Nat), _, (reqO (dmsg 8 0x7000 0x6 (natLe 9
    8))), row 0x7000 0x6, dr.bytes, rfl, rfl, by decide +kernel, by decide +kernel, .inl ⟨(((asks b0 (dmsg 8 0x7000 0x6 (natLe 9 8))).taken
    2).resident 9).get (by decide +kernel), by decide +kernel⟩⟩

theorem test_meets_SessionsBindAndExpire_6 : ∃ (s : State) (u : State) (key : BitVec 64) (k : Nat), ((jEndRing .ssu (s.drawer k)).go (s.asJob
    (.session key.toNat))).2 = u ∧ s.frozen = false ∧ s.ssu.doomed.find? (fun d => d.key = key.toNat) = none ∧ s.resident key.toNat = some k ∧
    (s.drawer k).pins = 0 ∧ s.expired (s.drawer k) = true ∧ ((jEndRing .ssu (s.drawer k)).go (s.asJob (.session key.toNat))).1.toOption = some () ∧
    u.coh.need = [] :=
  ⟨x1, _, (9 : BitVec 64), (((x1).resident (9 : BitVec 64).toNat).get (by decide +kernel)), rfl, by decide +kernel⟩

theorem test_meets_SessionsBindAndExpire_7 : ∃ (s : State) (key : BitVec 64) (k : Nat), s.ssu.doomed.find? (fun d => d.key = key.toNat) = none ∧
    s.resident key.toNat = some k ∧ ((s.drawer k).pins ≠ 0 ∨ s.expired (s.drawer k) = false) :=
  ⟨withD s0 { dr with touch := 0 }, (9 : BitVec 64), (((withD s0 { dr with touch := 0 }).resident (9 : BitVec 64).toNat).get (by decide +kernel)),
    by decide +kernel⟩

theorem test_meets_SessionsBindAndExpire_8 : ∃ (s : State) (u : State) (v : State) (w : State) (key : BitVec 64) (va : Nat) (d : Drawer), ((jSpillFind
    .ssu key.toNat).go (s.asJob (.session key.toNat))).2 = u ∧ ((jEndRing .ssu d).go u).2 = v ∧ ((jSpillClear .ssu va).go v).2 = w ∧ s.frozen = false
    ∧ s.ssu.doomed.find? (fun d => d.key = key.toNat) = none ∧ s.resident key.toNat = none ∧ ((jSpillFind .ssu key.toNat).go (s.asJob (.session
    key.toNat))).1.toOption = some (some (va, d)) ∧ u.expired d = true ∧ ((jEndRing .ssu d).go u).1.toOption = some () ∧ ((jSpillClear .ssu va).go
    v).1.toOption = some () ∧ w.coh.need = [] :=
  ⟨x3, _, _, _, (9 : BitVec 64), (0x100200 : Nat), dr, rfl, rfl, rfl, by decide +kernel⟩

theorem test_meets_SessionsBindAndExpire_9 : ∃ (s : State) (u : State) (key : BitVec 64) (d : Drawer), ((jEndRing .ssu d).go (State.asJob
    { s with ssu := { s.ssu with doomed := s.ssu.doomed.erase d } } (.session key.toNat))).2 = u ∧ s.frozen = false ∧ s.ssu.doomed.find? (fun d =>
    d.key = key.toNat) = some d ∧ ((jEndRing .ssu d).go (State.asJob { s with ssu := { s.ssu with doomed := s.ssu.doomed.erase d } } (.session
    key.toNat))).1.toOption = some () ∧ u.coh.need = [] :=
  ⟨x4, _, (9 : BitVec 64), dr, rfl, by decide +kernel⟩

theorem test_meets_SessionsBindAndExpire_10 : ∃ (s : State) (u : State) (v : State) (key : BitVec 64) (k : Nat) (blk : Nat), ((jRebuild k blk).go
    (s.asJob (.session key.toNat))).2 = u ∧ v = u.endRedo k blk ∧ s.frozen = false ∧ s.resident key.toNat = some k ∧ s.ssu.redo.contains (key.toNat,
    blk) = true ∧ ((jRebuild k blk).go (s.asJob (.session key.toNat))).1.toOption = some () ∧ u.coh.need = [] :=
  ⟨x2, _, _, (9 : BitVec 64), (((x2).resident (9 : BitVec 64).toNat).get (by decide +kernel)), (1 : Nat), rfl, rfl, by decide +kernel⟩

theorem test_meets_EventsApply_1 : ∃ (s : State) (g : Nat) (b : Bytes), s.frozen = false ∧ s.evBatches < 4 ∧ s.nextEv = some g ∧ (s.evRing g).ready =
    some b ∧ b ≠ [] :=
  ⟨v1, (2 : Nat), ((((v1).evRing (2 : Nat)).ready).get (by decide +kernel)), by decide +kernel⟩

theorem test_meets_EventsApply_2 : ∃ (s : State) (u : State) (w : State) (c : Instr) (g : Fin 8) (b : Bytes), w = (if u.evBatches < 4 then u.evBegin g
    b else u.setEvRing g { u.evRing g with ready := some b, retry := none, fresh := false }) ∧ s.frozen = false ∧ (c = .evRingReread g ∧ ((∃ r,
    (s.evRing g).retry = some r ∧ s.retryDue r = true) ∨ ((s.evRing g).retry = none ∧ (s.evRing g).fresh = true)) ∨ c = .evBatchStart ∧ s.evBatches <
    4 ∧ s.nextEv = some g.val ∧ (s.evRing g).ready = none) ∧ (s.asJob (.evRing g)).vread (.ssu g) .ctl (s.evAcid g) (s.evBase g + 64 * (s.evRing
    g).head) 64 = (u, b, false, .none) ∧ edSeq b = (s.evRing g).stream % 256 ∧ u.coh.need = [] :=
  ⟨v2, ((v2.asJob (.evRing 2)).vread (.ssu 2) .ctl (v2.evAcid 2) (v2.evBase 2 + 64 * (v2.evRing 2).head) 64).1, _, (.evRingReread 2 : Instr), (2 : Fin
    8), zeros 64, rfl, by decide +kernel⟩

theorem test_meets_EventsApply_3 : ∃ (s : State) (g : Fin 8) (r : Retry), s.frozen = false ∧ (s.evRing g).retry = some r ∧ s.retryOver r = true :=
  ⟨v3, (2 : Fin 8), ((((v3).evRing (2 : Fin 8)).retry).get (by decide +kernel)), by decide +kernel⟩

theorem test_meets_EventsApply_4 : ∃ (s : State) (u : State) (v : State) (g : Fin 8) (b : Batch) (b' : Batch) (k : Nat), v = ((s.joinLine (edKey
    b.desc) (.batch g)).asJob (.evRing g)).unmarkEv g ∧ ((jEvent g b).go v).2 = u ∧ (s.evRing g).batch = some b ∧ s.frozen = false ∧ b.status = none ∧
    edOp b.desc = 0 ∧ b.next < edCount b.desc ∧ v.lineTurn (edKey b.desc) (.batch g) = true ∧ ((jEvent g b).go v).1.toOption = some () ∧ u.coh.need =
    [] ∧ (u.evRing g).batch = some b' :=
  ⟨v4, _, _, (2 : Fin 8), ((((v4).evRing (2 : Fin 8)).batch).get (by decide +kernel)), ((((((jEvent (2 : Fin 8) ((((v4).evRing (2 : Fin 8)).batch).get
    (by decide +kernel))).go ((((v4).joinLine (edKey ((((v4).evRing (2 : Fin 8)).batch).get (by decide +kernel)).desc) (.batch (2 : Fin 8))).asJob
    (.evRing (2 : Fin 8))).unmarkEv (2 : Fin 8))).2).evRing (2 : Fin 8)).batch).get (by decide +kernel)), ((v4.resident 9).get (by decide +kernel)), rfl, rfl,
    by decide +kernel⟩

theorem test_meets_EventsApply_5 : ∃ (s : State) (u : State) (v : State) (g : Fin 8) (b : Batch), v = ((s.joinLine (edKey b.desc) (.batch g)).asJob
    (.evRing g)).unmarkEv g ∧ ((jEnd g b.desc).go v).2 = u ∧ (s.evRing g).batch = some b ∧ s.frozen = false ∧ b.status = none ∧ edOp b.desc = 1 ∧
    v.lineTurn (edKey b.desc) (.batch g) = true ∧ ((jEnd g b.desc).go v).1.toOption = some () ∧ u.coh.need = [] :=
  ⟨v5, _, _, (2 : Fin 8), ((((v5).evRing (2 : Fin 8)).batch).get (by decide +kernel)), rfl, rfl, by decide +kernel⟩

theorem test_meets_EventsApply_6 : ∃ (s : State) (v : State) (w : State) (g : Fin 8) (b : Batch) (b' : Batch) (st : Nat), v = (s.asJob (.evRing
    g)).unmarkEv g ∧ st = b'.status.getD esOk ∧ (s.evRing g).batch = some b ∧ s.frozen = false ∧ b.undecided = false ∧ (b.status.isSome = true ∨ edOp
    b.desc = 0 ∧ edCount b.desc ≤ b.next) ∧ (v.evRing g).batch = some b' ∧ (if edDone b'.desc = 0 then (v, VErr.none) else v.vwrite (.ssu g) .ctl
    (edAcid b'.desc) (edDone b'.desc) (natLe (st + 2 ^ 32 * b'.applied) 8)) = (w, .none) ∧ w.coh.need = [] :=
  ⟨v6, _, ((v6.asJob (.evRing 2)).unmarkEv 2), (2 : Fin 8), ((v6.evRing 2).batch.get (by decide +kernel)), ((((((v6).asJob (.evRing (2 : Fin 8))).unmarkEv (2 : Fin
    8)).evRing (2 : Fin 8)).batch).get (by decide +kernel)), _, rfl, rfl, by decide +kernel⟩

theorem test_meets_EventsApply_7 : ∃ s i q r, puttable s i q r .evRingTail = true :=
  ⟨(asks s0 (dmsg 2 0x7003 2 (natLe 2 4))), 2, (reqO (dmsg 2 0x7003 2 (natLe 2 4))), row 0x7003 2, by decide +kernel⟩

theorem test_meets_EventsApply_8 : ∃ s i q r, State.serves s i q (.exec .ssuResume) ∧ (s.taken i).execPasses q r :=
  ⟨(asks (v3.setEvRing 2 { v3.evRing 2 with ahead := true }) (dmsg 8 0x7000 0x5 [2])), 2, (reqO (dmsg 8 0x7000 0x5 [2])), row 0x7000 0x5,
    by decide +kernel⟩

theorem test_meets_ScansRun_1 : ∃ (s : State) (u : State) (c : Fin 12) (q : Scan) (rest : List Scan), u = s.hReap c ∧ s.frozen = false ∧
    s.hseResetting c = false ∧ (u.hse c).posted = q :: rest ∧ (u.hse c).queue.length < 16 :=
  ⟨hs0, _, (0 : Fin 12), (((((hs0).hReap (0 : Fin 12)).hse (0 : Fin 12)).posted).head (by decide +kernel)), (((((hs0).hReap (0 : Fin 12)).hse (0 : Fin
    12)).posted).tail), rfl, by decide +kernel⟩

theorem test_meets_ScansRun_2 : ∃ (s : State) (u : State) (v : State) (c : Fin 12) (q : Scan) (p : Scan) (b : Binding), u = s.hReap c ∧ v = u.hseCount
    c 0 ∧ p = { q with bind := b, frame := ((u.tile q.tile).ctx q.ctx).frame, base := 64 * u.frameBase q.tile ((u.tile q.tile).ctx q.ctx).frame } ∧
    s.frozen = false ∧ s.hseResetting c = false ∧ u.hHead c = some q ∧ q.phase = 0 ∧ (u.req q.req).binding = some b ∧ v.hBad p (u.req q.req).lanes =
    false :=
  ⟨hs1, _, _, (0 : Fin 12), ((((hs1).hReap (0 : Fin 12)).hHead (0 : Fin 12)).get (by decide +kernel)), _, (((((hs1).hReap (0 : Fin 12)).req
    ((((hs1).hReap (0 : Fin 12)).hHead (0 : Fin 12)).get (by decide +kernel)).req).binding).get (by decide +kernel)), rfl, rfl, rfl,
    by decide +kernel⟩

theorem test_meets_ScansRun_3 : ∃ (s : State) (u : State) (v : State) (c : Fin 12) (q : Scan) (p : Scan), u = s.hReap c ∧ v = u.hseCount c 0 ∧
    s.frozen = false ∧ s.hseResetting c = false ∧ u.hHead c = some q ∧ q.phase = 0 ∧ ((u.req q.req).binding = none ∧ reqKey (u.req q.req) = 0 ∧ p = q
    ∨ (∃ b, (u.req q.req).binding = some b ∧ p =
    { q with bind := b, frame := ((u.tile q.tile).ctx q.ctx).frame, base := 64 * u.frameBase q.tile ((u.tile q.tile).ctx q.ctx).frame } ∧ v.hBad p
    (u.req q.req).lanes = true)) :=
  ⟨hs2, _, _, (0 : Fin 12), sc, sc, rfl, rfl, by decide +kernel, by decide +kernel, by decide +kernel, by decide +kernel, .inl (by decide +kernel)⟩

theorem test_meets_ScansRun_4 : ∃ (s : State) (u : State) (v : State) (c : Fin 12) (n : Nat) (id : Nat) (tg : HTag) (m : MemRsp) (q : Scan), u =
    ((s.settle (.hse c n) false).forget [id]).countAccess tg.acid tg.va tg.tgt ∧ v = (u.setHse c { u.hse c with tags := sdel (u.hse c).tags n }).hReap
    c ∧ s.faults.grave = false ∧ sfind (s.hse c).tags n = some tg ∧ tg.id = some id ∧ sfind s.rsps id = some m ∧ m.performed = true ∧ s.inTurn c
    [(tg.tgt.home, m.num)] = true ∧ m.err = .none ∧ v.hHead c = some q ∧ q.num = tg.scan :=
  ⟨hs6, _, _, (0 : Fin 12), (4095 : Nat), (3 : Nat), ((sfind ((hs6).hse (0 : Fin 12)).tags (4095 : Nat)).get (by decide +kernel)), ((sfind (hs6).rsps
    (3 : Nat)).get (by decide +kernel)), ((((((((hs6).settle (.hse (0 : Fin 12) (4095 : Nat)) false).forget [(3 : Nat)]).countAccess ((sfind
    ((hs6).hse (0 : Fin 12)).tags (4095 : Nat)).get (by decide +kernel)).acid ((sfind ((hs6).hse (0 : Fin 12)).tags (4095 : Nat)).get
    (by decide +kernel)).va ((sfind ((hs6).hse (0 : Fin 12)).tags (4095 : Nat)).get (by decide +kernel)).tgt).setHse (0 : Fin 12)
    { ((((hs6).settle (.hse (0 : Fin 12) (4095 : Nat)) false).forget [(3 : Nat)]).countAccess ((sfind ((hs6).hse (0 : Fin 12)).tags (4095 : Nat)).get (by decide +kernel)).acid ((sfind ((hs6).hse (0 : Fin 12)).tags (4095 : Nat)).get (by decide +kernel)).va ((sfind ((hs6).hse (0 : Fin 12)).tags (4095 : Nat)).get (by decide +kernel)).tgt).hse (0 : Fin 12) with tags := sdel (((((hs6).settle (.hse (0 : Fin 12) (4095 : Nat)) false).forget [(3 : Nat)]).countAccess ((sfind ((hs6).hse (0 : Fin 12)).tags (4095 : Nat)).get (by decide +kernel)).acid ((sfind ((hs6).hse (0 : Fin 12)).tags (4095 : Nat)).get (by decide +kernel)).va ((sfind ((hs6).hse (0 : Fin 12)).tags (4095 : Nat)).get (by decide +kernel)).tgt).hse (0 : Fin 12)).tags (4095 : Nat) }).hReap
    (0 : Fin 12)).hHead (0 : Fin 12)).get (by decide +kernel)), rfl, rfl, by decide +kernel⟩

theorem test_meets_ScansRun_5 : ∃ (s : State) (c : Fin 12) (n : Nat) (id : Nat) (tg : HTag) (m : MemRsp), s.faults.grave = false ∧ sfind (s.hse
    c).tags n = some tg ∧ tg.id = some id ∧ sfind s.rsps id = some m ∧ m.performed = true ∧ s.inTurn c [(tg.tgt.home, m.num)] = true ∧ (s.hse c).queue
    = [] ∧ (s.hse c).posted = [] :=
  ⟨hs4, (0 : Fin 12), (4095 : Nat), (3 : Nat), ((sfind ((hs4).hse (0 : Fin 12)).tags (4095 : Nat)).get (by decide +kernel)), ((sfind (hs4).rsps (3 :
    Nat)).get (by decide +kernel)), by decide +kernel⟩

theorem test_meets_ScansRun_6 : ∃ (s : State) (u : State) (c : Fin 12) (q : Scan), u = s.hReap c ∧ s.frozen = false ∧ u.hHead c = some q ∧ q.phase = 3
    :=
  ⟨hs5, _, (0 : Fin 12), ((((hs5).hReap (0 : Fin 12)).hHead (0 : Fin 12)).get (by decide +kernel)), rfl, by decide +kernel⟩

end Sys2Proof.Tests.Sessions

namespace Sys2Proof.Tests.Tiles

def ctl (op : Nat) (imm : Nat := 0) : State := runs [] (bundle [(242, op), (237, 3), (232, 1), (227, 2), (208, imm)])
def act (s : State) : Act := (s.act 0).getD {}
def vx (op : Nat) (lw : Nat) : State := runs [] (bundle [(120, op), (119, lw), (114, 3), (109, 1), (104, 2), (99, 1), (94, 1)])

/-- Clauses 1 to 16: a bundle of tile 0 issues a CTL slot of each code. -/
theorem test_meets_SlotsWriteResults_1 : ∀ op ∈ [1, 2, 3, 4, 5, 6, 7, 8, 9, 0xA, 0xB, 0xC, 0xD, 0xE, 0xF, 0x12],
    (ctl op).mayIssue 0 4 = some (act (ctl op)) ∧ slotOp (act (ctl op)).b 4 = op := by
  decide +kernel

theorem test_meets_SlotsWriteResults_17 : ∃ (n : Nat) (v : Nat) (s : State) (t : Fin 96) (a : _), cImm a.b = n ∧ s.mayIssue t 4 = some a ∧ slotOp a.b
    4 = 0x13 ∧ (n = 0 → v = a.t) ∧ (n = 1 → v = a.t / 8) ∧ (n = 2 → v = a.c) ∧ (n = 3 → v = (s.req a.x.req).recVa) ∧ (n = 4 → v = (s.tile
    a.t).trap.cause) ∧ (n = 5 → v = (match (s.tile a.t).trap.stopped with | some c => c % 16 | none => 0) + 256 * ((s.tile a.t).trap.bundle % 2 ^ 24))
    ∧ n < 6 :=
  ⟨_, (0 : Nat), ctl 0x13 0, (0 : Fin 96), act (ctl 0x13 0), rfl, by decide +kernel⟩

/-- Clauses 18 to 36: a bundle of tile 0 issues a VXU slot of each code, with lanes of 32 and of 16 bits. -/
theorem test_meets_SlotsWriteResults_18 : ∀ op ∈ (List.range 20).drop 1, ∀ lw ∈ [0, 1],
    (vx op lw).mayIssue 0 1 = some (act (vx op lw)) ∧ slotOp (act (vx op lw)).b 1 = op := by
  decide +kernel

end Sys2Proof.Tests.Tiles

namespace Sys2Proof.Tests.TilesB

def act (s : State) : Act := (s.act 0).getD {}
/-- C (2 by 2) := A (2 by 32) times B, in FP8. -/
def mdesc : Bytes := pack 32 [(150, 3), (144, 3), (128, 1), (112, 1), (96, 1), (80, 32), (64, 2), (48, 2), (32, 64), (16, 32), (0, 0)]
def m1 : State := runs [mdesc] (bundle [(60, 1)])
def m2 : State := nx (.mma 0) m1
def sdesc : Bytes := pack 32 [(67, 1), (60, 0), (56, 3), (52, 1), (32, 64), (16, 100), (0, 0)]
def c1 (op : Nat) (d : Bytes := sdesc) : State := runs [d] (bundle [(120, op)])
def c2 : State := nx (.cvt 0) (c1 0x20)
def c2b : State := nx (.tnarrow 0) (c1 0x21)
def c2c : State := nx (.twiden 0) (c1 0x22)
def hdesc : Bytes := pack 32 [(103, 2)]
def c3 : State := let s := nx (.histClr 0) (c1 0x24 hdesc); s.setTile 0 { s.tile 0 with hist := [(255, 3), (256, 4), (511, 5), (512, 6)] }
def two : State := runs [] (bundle [(242, 1), (237, 3), (120, 1)])
def vl (op : Nat) : State := let s := runs [] (bundle [(157, op), (152, 1), (128, 40)]); s.setTile 0 { s.tile 0 with scr := mwrite [] (64 * 40 + 5) [1,2,3] }
def vlp : State := (vl 1).setTile 0 { (vl 1).tile 0 with scrPoison := [(55, true)] }
def xf (op : Nat) (len : Nat := 8) (s0 : State := runs [] (bundle [(203, op), (199, 2), (188, len), (183, 4), (178, 2), (162, 7)])) : State := s0
def xbad : State := runs [] (bundle [(203, 3), (188, 8), (183, 1)])
def full : State := let s := xf 1; s.setTile 0 { s.tile 0 with xfers := (List.range 256).map (fun k => (k, {})) }
def gp : State := let s := xf 0x13; s.setTile 0 { s.tile 0 with active := none, xfers := [(9, { op := 0x13, grp := 2, data := zeros 63 ++ [5], req := 0 })] }
def hp : State := let s := xf 0x14; s.setTile 0 { s.tile 0 with active := none, xfers := [(9, { op := 0x14, grp := 2, data := zeros 63 ++ [5], req := 0 })] }
def lx : Xfer := { op := 3, dr := 6, len := 8, ctx := 0, va := 64 }
def ld1 : State := let s := xf 3; s.setTile 0 { s.tile 0 with active := none, xfers := [(9, lx)] }
def stc : State := let s := xf 8; s.setTile 0 { s.tile 0 with active := none, ctxs := [(0, { ctx0 with phase := 4 })], xfers := [(9, { op := 8, dr := 6, len := 8 })] }
def ldr : State := let s := xf 3; { s.setTile 0 { s.tile 0 with active := none, ctxs := [(0, { ctx0 with phase := 4 })], xfers := [(9, { op := 3, dr := 6, len := 8, phase := 2, lines := [(4, 0, 8)], homes := [0] })] } with rsps := [(4, { performed := true, data := [1,2,3,4,5,6,7,8] })] }
def str : State := let s := xf 4; { s.setTile 0 { s.tile 0 with xfers := [(9, { op := 4, len := 8, phase := 2, lines := [(4, 0, 8)], homes := [0] })] } with rsps := [(4, { performed := true })] }
def bar : State := let s := xf 0x17; s.setTile 0 { s.tile 0 with xfers := [(9, { op := 0x17 })] }
def late : State := let s := xf 1; { s.setTile 0 { s.tile 0 with xfers := [(9, { op := 1, phase := 2 })] } with gtc := { count := 50000 } }
def ft : State := { late with tiles := { late.tiles with tile := [(0, { tracker := [{ id := 2, va := 64, len := 8 }] })] }, fab := { late.fab with tags := [(1, .mem 2 .write)] } }
def rsv : State := let s := task; { s with tiles := { s.tiles with tile := [(0, { ctxs := [(3, { phase := 2, resv := some (.dev 0, 64) })] })] }, gtc := { count := 1000000 }, coh := { s.coh with resv := [{ agent := .tile 0 3 }] } }
def wt : State := let s := runs [] (bundle [(242, 0x10), (208, 4)]); s.setTile 0 { s.tile 0 with xfers := [(9, { op := 1, grp := 2, phase := 2 })] }
def wtm : State := wt.setTile 0 { wt.tile 0 with mxu := some {} }
def en (imm : Nat) : State := runs [] (bundle [(242, 0x11), (208, imm)])
def pk : State := let s := runs [] (bundle [(242, 1)]); s.setTile 0 { s.tile 0 with active := none, ctxs := [(0, { ctx0 with phase := 2 })] }
def rel : State := let s := pk.setTile 0 { pk.tile 0 with ctxs := [(0, { phase := 5 }), (3, { phase := 2, req := 4 })] }; { s with sqe := { s.sqe with reqs := [(0, { phase := 4, causes := [{ status := 3 }] })] } }
def pl : State := { task with mtu := { task.mtu with ctl := [page] } }
def sw : State := { pl with tiles := { pl.tiles with swap := { running := true, tile := 9, spare := 96, old := 9 } }, ods := { pl.ods with cmds := [(0x570000, { state := 1 })] }, sqe := {}, sched := { pl.sched with cabs := [] } }
def sw2 : State := nx (.spareCheckEnd true) sw
def sw3 : State := { sw with sched := { sw.sched with cabs := [(1, { frames := [(0, { req := some 4 })] })] } }
theorem ttt : ∃ (s v : State) (t : Fin 96) (tag : Nat) (x y : Xfer) (l : List (Nat × Nat × Target × TlbEnt)),
    s.halted = false ∧ (s.tile t).xfers.filter (fun p => p.2.phase ≤ 1) = [(tag, x)] ∧ opLoads x.op = true ∧ s.mayLeave t x = true ∧
    s.xlPages t x (s.req x.req).acid = (v, .go l) ∧ (∀ p ∈ l, (s.regionAttr p.2.2.2.attr).1 = false ∧ p.2.2.1.aspace = 2) ∧
    y = { x with dev := false } ∧ v.forwards t y = .memory :=
  ⟨ld1, (ld1.xlPages 0 lx 5).1, 0, 9, lx, lx, [(0, 8, .dev 64, page)], by decide +kernel, by decide +kernel, by decide +kernel, by decide +kernel,
    rfl, by decide +kernel, rfl, rfl⟩

theorem test_meets_UnitsWriteResults_1 : ∃ (s : State) (t : Fin 96) (a : Act) (op : UnitOp), op =
    { ctx := a.c, slot := fld a.b 0 64, desc := segDesc a.g (mDesc a.b), base := a.base, strict := segStrict a.g, seq := (s.tile t).seq } ∧ s.mayIssue
    t 0 = some a ∧ slotOp a.b 0 = 1 ∧ (s.tile t).mxu = none :=
  ⟨m1, (0 : Fin 96), act m1, _, rfl, by decide +kernel⟩

theorem test_meets_UnitsWriteResults_2 : ∃ (s : State) (t : Fin 96), (s.tile t).mxu ≠ none :=
  ⟨m2, (0 : Fin 96), by decide +kernel⟩

theorem test_meets_UnitsWriteResults_3 : ∃ (s : State) (t : Fin 96) (op : UnitOp) (y : Tile), y = s.tile t ∧ y.mxu = some op ∧ s.frozen = false ∧
    y.mmaBad op = false ∧ fld (natLe op.slot 8) 56 3 = 0 :=
  ⟨m2, (0 : Fin 96), ((((m2).tile (0 : Fin 96)).mxu).get (by decide +kernel)), _, rfl, by decide +kernel⟩

theorem test_meets_UnitsWriteResults_4 : ∃ (y : Tile) (op : UnitOp) (i : Nat) (d : Bytes), d = op.desc ∧ i < dmM d :=
  ⟨m2.tile 0, ((m2.tile 0).mxu.get (by decide +kernel)), (1 : Nat), _, rfl, by decide +kernel⟩

theorem test_meets_UnitsWriteResults_5 : ∃ (s : State) (t : Fin 96) (op : UnitOp), (s.tile t).mxu = some op ∧ s.frozen = false :=
  ⟨m2, (0 : Fin 96), ((((m2).tile (0 : Fin 96)).mxu).get (by decide +kernel)), by decide +kernel⟩

theorem test_meets_UnitsWriteResults_6 : ∃ (c : Nat × (Fin 96 → Instr)) (s : State) (t : Fin 96) (a : Act) (d : Bytes) (op : UnitOp),
    c ∈ [(0x20, Instr.cvt), (0x21, Instr.tnarrow), (0x22, Instr.twiden), (0x23, Instr.histRd), (0x24, Instr.histClr)] ∧
    d = segDesc a.g (vDesc a.b) ∧ op =
    { ctx := a.c, slot := fld a.b 64 64, desc := d, base := a.base, strict := segStrict a.g, seq := (s.tile t).seq,
      tscale := BitVec.ofNat 32 (a.x.rx (dsTscale d)).toNat, seed := a.x.rx (dsSeed d), sbase := a.x.rx (dsBase d) } ∧
    s.mayIssue t 1 = some a ∧ slotOp a.b 1 = c.1 ∧ (s.tile t).conv = none :=
  ⟨(0x20, Instr.cvt), c1 0x20, (0 : Fin 96), act (c1 0x20), _, _, .head _, rfl, rfl, by decide +kernel⟩

theorem test_meets_UnitsWriteResults_7 : ∃ (s : State) (t : Fin 96) (op : UnitOp) (y : Tile), y = s.tile t ∧ y.conv = some op ∧ s.frozen = false ∧
    y.scrBad (64 * (op.base + dsSrcWord op.desc)) (y.streamSrc op) = false ∧ op.slot / 2 ^ 56 ≠ 0x24 :=
  ⟨c2, (0 : Fin 96), ((((c2).tile (0 : Fin 96)).conv).get (by decide +kernel)), _, rfl, by decide +kernel⟩

theorem test_meets_UnitsWriteResults_8 : ∃ (s : State) (t : Fin 96) (op : UnitOp) (y : Tile), y = s.tile t ∧ y.conv = some op ∧ s.frozen = false ∧
    y.scrBad (64 * (op.base + dsSrcWord op.desc)) (y.streamSrc op) = false ∧ op.slot / 2 ^ 56 = 0x24 :=
  ⟨c3, (0 : Fin 96), ((((c3).tile (0 : Fin 96)).conv).get (by decide +kernel)), _, rfl, by decide +kernel⟩

theorem test_meets_BundlesIssueAndScratchMoves_3 : ∃ (x : Ctx) (n : Nat) (m : Nat) (v : Word) (w : Vec), n ≠ 0 ∧ x.pendX = [] ∧ x.pendV = [] :=
  ⟨ctx0, (3 : Nat), (3 : Nat), (5 : Word), (6 : Vec), by decide +kernel⟩

theorem test_meets_BundlesIssueAndScratchMoves_4 : ∃ (s : State) (a : Act) (k : Nat) (x : Ctx), (x.slots ||| 2 ^ k) &&& slotMask a.b ≠ slotMask a.b :=
  ⟨two, act two, (4 : Nat), (act two).x, by decide +kernel⟩

theorem test_meets_BundlesIssueAndScratchMoves_5 : ∃ (s : State) (a : Act) (k : Nat) (x : Ctx), (x.slots ||| 2 ^ k) &&& slotMask a.b = slotMask a.b ∧
    x.missed = false ∧ (a.c < 16 → (s.req x.req).ending = false) ∧ bundleV a.b = false ∧ x.phase = 3 ∧ segBundles a.g ≤ x.bundle + 1 :=
  ⟨two, act two, (4 : Nat), ({ (act two).x with slots := 2 } : Ctx), by decide +kernel⟩

theorem test_meets_BundlesIssueAndScratchMoves_6 : ∃ (s : State) (t : Fin 96) (a : Act) (w : Nat), w = a.base + lWord a.b ∧ s.mayIssue t 2 = some a ∧
    slotOp a.b 2 = 1 ∧ (s.tile t).scrBad (64 * w) 1024 = false :=
  ⟨vl 1, (0 : Fin 96), act (vl 1), _, rfl, by decide +kernel⟩

theorem test_meets_BundlesIssueAndScratchMoves_7 : ∃ (s : State) (t : Fin 96) (a : Act) (w : Nat), w = a.base + lWord a.b ∧ s.mayIssue t 2 = some a ∧
    slotOp a.b 2 = 1 ∧ (s.tile t).scrBad (64 * w) 1024 = true :=
  ⟨vlp, (0 : Fin 96), act vlp, _, rfl, by decide +kernel⟩

theorem test_meets_BundlesIssueAndScratchMoves_8 : ∃ (s : State) (t : Fin 96) (a : Act) (w : Nat), w = a.base + lWord a.b ∧ s.mayIssue t 2 = some a ∧
    slotOp a.b 2 = 2 :=
  ⟨vl 2, (0 : Fin 96), act (vl 2), _, rfl, by decide +kernel⟩

theorem test_meets_TransfersRun_1 : ∃ (s : State) (t : Fin 96) (a : Act) (op : Nat) (tag : Nat), slotOp a.b 3 = op ∧ s.mayIssue t 3 = some a ∧ 1 ≤ op
    ∧ op ≤ 0x17 ∧ a.badAlign = false ∧ ¬ ((op = 1 ∨ op = 2) ∧ xLen a.b = 0) ∧ sfree (s.tile t).xfers 256 = some tag :=
  ⟨xf 1, (0 : Fin 96), act (xf 1), _, (0 : Nat), rfl, by decide +kernel⟩

theorem test_meets_TransfersRun_2 : ∃ (s : State) (t : Fin 96) (a : Act) (op : Nat), slotOp a.b 3 = op ∧ s.mayIssue t 3 = some a ∧ 1 ≤ op ∧ op ≤ 0x17
    ∧ a.badAlign = true :=
  ⟨xbad, (0 : Fin 96), act xbad, _, rfl, by decide +kernel⟩

theorem test_meets_TransfersRun_3 : ∃ (s : State) (t : Fin 96) (a : Act) (op : Nat), slotOp a.b 3 = op ∧ s.mayIssue t 3 = some a ∧ (op = 1 ∨ op = 2) ∧
    xLen a.b = 0 :=
  ⟨xf 1 0, (0 : Fin 96), act (xf 1 0), _, rfl, by decide +kernel⟩

theorem test_meets_TransfersRun_4 : ∃ (s : State) (t : Fin 96) (a : Act) (op : Nat), slotOp a.b 3 = op ∧ s.mayIssue t 3 = some a ∧ 1 ≤ op ∧ op ≤ 0x17
    ∧ a.badAlign = false ∧ ¬ ((op = 1 ∨ op = 2) ∧ xLen a.b = 0) ∧ sfree (s.tile t).xfers 256 = none :=
  ⟨full, (0 : Fin 96), act full, _, rfl, by decide +kernel⟩

theorem test_meets_TransfersRun_5 : ∃ (s : State) (t : Fin 96) (tag : Nat) (x : Xfer), s.halted = false ∧ (s.tile t).xfers = [(tag, x)] ∧ x.phase = 0
    ∧ x.op = 0x13 ∧ x.data.length = 64 ∧ (s.tile t).tracker = [] :=
  ⟨gp, (0 : Fin 96), (9 : Nat), sget {} (gp.tile 0).xfers 9, by decide +kernel⟩

theorem test_meets_TransfersRun_6 : ∃ (s : State) (t : Fin 96) (tag : Nat) (x : Xfer), s.halted = false ∧ (s.tile t).xfers = [(tag, x)] ∧ x.phase = 0
    ∧ x.op = 0x14 ∧ x.data.length = 64 ∧ (s.tile t).tracker = [] :=
  ⟨hp, (0 : Fin 96), (9 : Nat), sget {} (hp.tile 0).xfers 9, by decide +kernel⟩

theorem test_meets_TransfersRun_7 : ∃ (s v : State) (t : Fin 96) (tag : Nat) (x y : Xfer) (l : List (Nat × Nat × Target × TlbEnt)),
    s.halted = false ∧ (s.tile t).xfers.filter (fun p => p.2.phase ≤ 1) = [(tag, x)] ∧ opLoads x.op = true ∧ s.mayLeave t x = true ∧
    s.xlPages t x (s.req x.req).acid = (v, .go l) ∧ (∀ p ∈ l, (s.regionAttr p.2.2.2.attr).1 = false ∧ p.2.2.1.aspace = 2) ∧
    y = { x with dev := false } ∧ v.forwards t y = .memory :=
  ⟨ld1, (ld1.xlPages 0 lx 5).1, 0, 9, lx, lx, [(0, 8, .dev 64, page)], by decide +kernel, by decide +kernel, by decide +kernel, by decide +kernel,
    rfl, by decide +kernel, rfl, rfl⟩

theorem test_meets_TransfersRun_8 : ∃ (s : State) (t : Fin 96) (tag : Nat) (x : Xfer), s.halted = false ∧ (s.tile t).xfers = [(tag, x)] ∧ x.phase = 0
    ∧ x.op = 8 ∧ ((s.tile t).ctx x.ctx).resv = none ∧ (s.tile t).active = none ∧ ((s.tile t).ctx x.ctx).phase = 4 :=
  ⟨stc, (0 : Fin 96), (9 : Nat), sget {} (stc.tile 0).xfers 9, by decide +kernel⟩

theorem test_meets_TransfersRun_9 : ∃ (s : State) (t : Fin 96) (tag : Nat) (x : Xfer) (id : Nat) (m : MemRsp), s.halted = false ∧ (s.tile t).tracker =
    [] ∧ sfind (s.tile t).xfers tag = some x ∧ x.phase = 2 ∧ (x.op = 3 ∨ x.op = 7 ∨ opAtomics x.op = true) ∧ x.fwd = false ∧ x.poison = [] ∧ x.lines =
    [(id, 0, x.len)] ∧ sfind s.rsps id = some m ∧ m.performed = true ∧ m.err = .none ∧ m.poison = false ∧ m.data.length = x.len ∧ x.len ≤ 8 ∧ s.inTurn
    (cabOf t) (s.xferTurn x) = true ∧ s.taking t x = true ∧ (s.tile t).active = none :=
  ⟨ldr, (0 : Fin 96), (9 : Nat), ((sfind ((ldr).tile (0 : Fin 96)).xfers (9 : Nat)).get (by decide +kernel)), (4 : Nat), ((sfind (ldr).rsps (4 :
    Nat)).get (by decide +kernel)), by decide +kernel⟩

theorem test_meets_TransfersRun_10 : ∃ (s : State) (t : Fin 96) (tag : Nat) (x : Xfer), s.halted = false ∧ (s.tile t).tracker = [] ∧ sfind (s.tile
    t).xfers tag = some x ∧ x.phase = 2 ∧ opStores x.op = true ∧ (∀ l ∈ x.lines, (sget {} s.rsps l.1).performed = true ∧ (sget {} s.rsps l.1).err =
    .none) :=
  ⟨str, (0 : Fin 96), (9 : Nat), ((sfind ((str).tile (0 : Fin 96)).xfers (9 : Nat)).get (by decide +kernel)), by decide +kernel⟩

theorem test_meets_TransfersRun_11 : ∃ (s : State) (t : Fin 96) (tag : Nat) (x : Xfer), s.halted = false ∧ (s.tile t).tracker = [] ∧ sfind (s.tile
    t).xfers tag = some x ∧ (x.op = 0x15 ∨ x.op = 0x16 ∨ x.op = 0x17) ∧ (s.prune t).barDone t x = true :=
  ⟨bar, (0 : Fin 96), (9 : Nat), ((sfind ((bar).tile (0 : Fin 96)).xfers (9 : Nat)).get (by decide +kernel)), by decide +kernel⟩

theorem test_meets_TransfersRun_12 : ∃ (s : State) (v : State) (t : Fin 96) (tag : Nat) (x : Xfer) (held : Bool), held = s.heldByInv (.tile t tag) ∧ v
    = (s.tileCount t 4).endTask x.req (if held then stXlateDrain else stXferTimeout) t (x.pos t) ∧ s.frozen = false ∧ tag < 256 ∧ sfind (s.tile
    t).xfers tag = some x ∧ opMem x.op = true ∧ 50000 ≤ since s.now x.since :=
  ⟨late, _, (0 : Fin 96), (9 : Nat), ((sfind ((late).tile (0 : Fin 96)).xfers (9 : Nat)).get (by decide +kernel)), _, rfl, rfl, by decide +kernel⟩

theorem test_meets_TransfersRun_13 : ∃ (s : State) (v : State) (w : State) (t : Fin 96) (id : Nat) (k : Tracked) (held : Bool), held = s.heldByInv
    (.store t id) ∧ v = (s.tileCount t 4).endTask k.req (if held then stXlateDrain else stXferTimeout) t ∧ w = v.setTile t
    { v.tile t with tracker := (v.tile t).tracker.filter (fun x => x.id ≠ id) } ∧ s.frozen = false ∧ (s.tile t).tracker.find? (fun x => x.id = id) =
    some k ∧ 50000 ≤ since s.now k.since ∧ s.unperformed id = true ∧ s.onFabric id = true :=
  ⟨ft, _, _, (0 : Fin 96), (2 : Nat), ((((ft).tile (0 : Fin 96)).tracker.find? (fun x => x.id = (2 : Nat))).get (by decide +kernel)), _, rfl, rfl,
    rfl, by decide +kernel⟩

theorem test_meets_TransfersRun_14 : ∃ (s : State) (t : Fin 96) (tag : Nat) (x : Xfer), tag < 256 ∧ sfind (s.tile t).xfers tag = some x ∧ since s.now
    x.since < 50000 :=
  ⟨({ late with gtc := { count := 49999 } } : State), (0 : Fin 96), (9 : Nat), ((sfind (({ late with gtc := { count := 49999 } } : State).tile (0 :
    Fin 96)).xfers (9 : Nat)).get (by decide +kernel)), by decide +kernel⟩

theorem test_meets_TransfersRun_15 : ∃ (s : State) (t : Fin 96) (c : Fin 17), ((s.tile t).ctx c).resv ≠ none ∧ 4096 * 1000000000 ≤ s.arithTicks -
    ((s.tile t).ctx c).resvAt :=
  ⟨rsv, (0 : Fin 96), (3 : Fin 17), by decide +kernel⟩

theorem test_meets_ContextsRun_1 : ∃ (s : State) (t : Fin 96) (a : Act), s.mayIssue t 4 = some a ∧ slotOp a.b 4 = 0x10 ∧ (∀ o ∈ (s.tile t).mxu.toList
    ++ (s.tile t).conv.toList, o.ctx ≠ a.c) :=
  ⟨wt, (0 : Fin 96), act wt, by decide +kernel⟩

theorem test_meets_ContextsRun_2 : ∃ (s : State) (t : Fin 96) (a : Act) (o : UnitOp), s.mayIssue t 4 = some a ∧ ((s.tile t).mxu = some o ∨ (s.tile
    t).conv = some o) ∧ o.ctx = a.c :=
  ⟨wtm, (0 : Fin 96), act wtm, ({} : UnitOp), by decide +kernel⟩

theorem test_meets_ContextsRun_3 : ∃ (s : State) (t : Fin 96) (a : Act) (u : State), u = s.issued a 4 a.x ∧ s.mayIssue t 4 = some a ∧ slotOp a.b 4 =
    0x11 ∧ (∀ o ∈ (s.tile t).mxu.toList ++ (s.tile t).conv.toList, o.ctx ≠ a.c) ∧ a.c < 16 ∧ (u.req a.x.req).ending = false :=
  ⟨en 1, (0 : Fin 96), act (en 1), _, rfl, by decide +kernel⟩

theorem test_meets_ContextsRun_4 : ∃ (s : State) (t : Fin 96) (c : Nat) (x : Ctx) (g : Bytes), s.frozen = false ∧ (s.tile t).active = none ∧ (s.tile
    t).trap.phase = 0 ∧ (s.tile t).resetting = false ∧ s.pickOf t = some (c, x) ∧ s.ctxSeg t x = some g ∧ x.bundle < segBundles g ∧ slotMask
    (segBundle g x.bundle) ≠ 0 :=
  ⟨pk, (0 : Fin 96), (0 : Nat), (pk.tile 0).ctx 0, (act (runs [] (bundle [(242, 1)]))).g, by decide +kernel⟩

theorem test_meets_ContextsRun_5 : ∃ (s : State) (t : Fin 96), (s.tile t).active ≠ none :=
  ⟨wt, (0 : Fin 96), by decide +kernel⟩

theorem test_meets_ContextsRun_6 : ∃ (s : State) (t : Fin 96) (c : Fin 17), s.frozen = false ∧ c.val < 16 ∧ ((s.tile t).ctx c).phase = 5 ∧ (s.req
    ((s.tile t).ctx c).req).ending = true ∧ (s.tile t).xfers = [] ∧ (s.tile t).tracker = [] ∧ (s.tile t).mxu = none ∧ (s.tile t).conv = none ∧ (s.tile
    t).active ≠ some c.val ∧ (s.tile t).trap.stopped ≠ some c.val :=
  ⟨rel, (0 : Fin 96), (0 : Fin 17), by decide +kernel⟩

theorem test_meets_ProgramsLoad_4 : ∃ s i q r, State.serves s i q (.exec .progUnload) ∧ (s.taken i).execPasses q r :=
  ⟨(asks ({ pl with sqe := {} }) (dmsg 8 0x5000 0x1 [0])), 2, (reqO (dmsg 8 0x5000 0x1 [0])), row 0x5000 0x1, by decide +kernel⟩

theorem test_meets_LockedRunsAndSwaps_4 : ∃ s i q r, State.serves s i q (.exec .tileSwap) ∧ (s.taken i).execPasses q r :=
  ⟨(asks (pl) (dmsg 8 0x5700 0x0 [9, 96])), 2, (reqO (dmsg 8 0x5700 0x0 [9, 96])), row 0x5700 0x0, by decide +kernel⟩

theorem test_meets_LockedRunsAndSwaps_5 : ∃ (s : State), s.frozen = false ∧ s.tiles.swap.running = true ∧ s.tiles.swap.checked = false :=
  ⟨sw, by decide +kernel⟩

theorem test_meets_LockedRunsAndSwaps_6 : ∃ (s : State) (w : SwapSt), w = s.tiles.swap ∧ s.frozen = false ∧ w.running = true ∧ w.checked = false :=
  ⟨sw, _, rfl, by decide +kernel⟩

theorem test_meets_LockedRunsAndSwaps_7 : ∃ (s : State) (u : State) (w : SwapSt), w = s.tiles.swap ∧ u = (s.asJob .swap).swapFill ∧ s.frozen = false ∧
    w.running = true ∧ w.checked = true ∧ s.cabDrained (cabOf w.tile) = true ∧ u.coh.need = [] ∧ (96 ≤ w.old → w.old - 96 ≠ w.spare - 96) :=
  ⟨sw2, _, _, rfl, rfl, by decide +kernel⟩

theorem test_meets_LockedRunsAndSwaps_8 : ∃ (s : State), s.tiles.swap.running = true ∧ s.cabDrained (cabOf s.tiles.swap.tile) = false :=
  ⟨sw3, by decide +kernel⟩

end Sys2Proof.Tests.TilesB

namespace Sys2Proof.Tests.TilesC

def pl : State := { task with mtu := { task.mtu with ctl := [page] } }
def pslot : ProgSlot := { state := 1, acid := 5, addr := 0x4000, len := 352 }
def pld : State := { put pl 0x5000 2 (natLe 0x8000 8 ++ natLe 5 2 ++ [0,0] ++ natLe 4 4) with
  sched := { pl.sched with progs := [(7, pslot)], cabs := [] }, ods := { pl.ods with cmds := [(0x500000, { state := 1 })], store := [(entKey 0x5000 2, natLe 0x8000 8 ++ natLe 5 2 ++ [0,0] ++ natLe 4 4)] },
  shelves := { pl.shelves with mem := mwrite [] 0x4000 program } }
def pld2 : State := let s := put pl 0x5000 2 (natLe 0x8000 8 ++ natLe 5 2 ++ [0,0] ++ natLe 4 4); { s with
  sched := { pl.sched with progs := [(7, pslot)], cabs := [] }, ods := { s.ods with cmds := [(0x500000, { state := 1 })] },
  shelves := { pl.shelves with mem := mwrite [] 0x4000 program } }
def pldA : State := fetched (.load 7) (linesAt 256 6 ++ linesAt 517 1) pld2
def pu : State × ImageRead := (pldA.asJob (.load 7)).readImage 5 0x4000 352
def pld3 : State := let s := { pld2 with shelves := { pl.shelves with mem := [] } }; { s with sched := { s.sched with progs := [(7, { pslot with len := 64 })] } }
def pldB : State := fetched (.load 7) (linesAt 256 1) pld3
def prog1 : Bytes := program [pack 8 [(48, 0), (32, 1), (28, 3)]]
def lk : State := { pl with sched := { pl.sched with progs := [(7, { state := 2, image := prog1 })], cabs := [(0, { frames := [(2, { prog := 7, mask := 1, bases := [0, 0xFFFF,0xFFFF,0xFFFF,0xFFFF,0xFFFF,0xFFFF,0xFFFF] })] })] }, sqe := {} }
def lk1 : State := nx .lockRun (asks (lk) (dmsg 8 0x5A00 0x0 (pack 32 [(0, 7), (8, 0), (32, 5), (64, 0x4000), (128, 0x8000)])))
def lf : FrameSt := { prog := 7, mask := 1, bases := [0, 0xFFFF,0xFFFF,0xFFFF,0xFFFF,0xFFFF,0xFFFF,0xFFFF] }
def lk1r : State := fetched .lock (linesAt 256 32) lk1
def lk2 : State := let s := nx (.requestBind 0 7) lk1r; let l := s.sched.lock; { s with sched := { s.sched with lock := { l with finalSeg := [(0, 0)] } }, sqe := { s.sqe with reqs := [(l.req, { (s.req l.req) with phase := 5, status := stOk })] } }
def pk : State := let s := runs [] (bundle [(242, 1)]); s.setTile 0 { s.tile 0 with active := none, ctxs := [(0, { ctx0 with phase := 2 })] }
def trp : State := pk.setTile 0 { pk.tile 0 with trap := { phase := 1, cause := 5 } }

theorem test_meets_ProgramsLoad_1 : ∃ s i q r, State.serves s i q (.exec .progLoad) ∧ (s.taken i).execPasses q r :=
  ⟨(asks pl (dmsg 8 0x5000 0x0 (pack 24 [(0, 7), (32, 5), (64, 0x4000), (128, 256)]))), 2, (reqO (dmsg 8 0x5000 0x0 (pack 24 [(0, 7), (32, 5), (64,
    0x4000), (128, 256)]))), row 0x5000 0x0, by decide +kernel⟩

set_option maxRecDepth 100000 in
theorem test_meets_ProgramsLoad_2 : ∃ (s : State) (u : State) (v : State) (n : Nat) (p : ProgSlot) (im : ImageRead), s.prog n = p ∧ s.frozen = false ∧
    s.cmdRunning 0x5000 0 = true ∧ s.sched.progs.find? (fun p => p.2.state = 1) = some (n, p) ∧ (s.asJob (.load n)).readImage p.acid p.addr p.len =
    (u, im) ∧ im.err = .none ∧ im.poison = [] ∧ firstRefuse (imageRefuses im.bytes) = none ∧ u.sizeRefuses n im.bytes = [] ∧ u.storeImage ((u.storeFit
    im.bytes.length).getD 0) im.bytes = (v, .none) ∧ v.coh.need = [] :=
  ⟨pldA, ((((pldA).asJob (.load (7 : Nat))).readImage ((pldA).prog (7 : Nat)).acid ((pldA).prog (7 : Nat)).addr ((pldA).prog (7 : Nat)).len).1),
    ((((((pldA).asJob (.load (7 : Nat))).readImage ((pldA).prog (7 : Nat)).acid ((pldA).prog (7 : Nat)).addr ((pldA).prog (7 :
    Nat)).len).1).storeImage ((((((pldA).asJob (.load (7 : Nat))).readImage ((pldA).prog (7 : Nat)).acid ((pldA).prog (7 : Nat)).addr ((pldA).prog (7
    : Nat)).len).1).storeFit program.length).getD 0) program).1), (7 : Nat), _, ({ bytes := program } : ImageRead), rfl, by decide +kernel,
    by decide +kernel, by decide +kernel, Prod.ext rfl (by decide +kernel), rfl, rfl, by decide +kernel, by decide +kernel, Prod.ext rfl
    (by decide +kernel), by decide +kernel⟩

theorem test_meets_ProgramsLoad_3 : ∃ (s : State) (u : State) (n : Nat) (p : ProgSlot) (im : ImageRead) (r : Refuse), s.prog n = p ∧ s.frozen = false
    ∧ s.cmdRunning 0x5000 0 = true ∧ s.sched.progs.find? (fun p => p.2.state = 1) = some (n, p) ∧ (s.asJob (.load n)).readImage p.acid p.addr p.len =
    (u, im) ∧ im.err = .none ∧ im.poison = [] ∧ firstRefuse (imageRefuses im.bytes) = some r ∧ u.coh.need = [] :=
  ⟨pldB, ((((pldB).asJob (.load (7 : Nat))).readImage ((pldB).prog (7 : Nat)).acid ((pldB).prog (7 : Nat)).addr ((pldB).prog (7 : Nat)).len).1), (7 :
    Nat), _, ((pldB.asJob (.load 7)).readImage 5 0x4000 64).2, (firstRefuse (imageRefuses (zeros 64))).getD {}, rfl, by decide +kernel⟩

theorem test_meets_LockedRunsAndSwaps_1 : ∃ s i q r, State.serves s i q (.exec .lockRun) ∧ (s.taken i).execPasses q r :=
  ⟨(asks (lk) (dmsg 8 0x5A00 0x0 (pack 32 [(0, 7), (8, 0), (32, 5), (64, 0x4000), (128, 0x8000)]))), 2, (reqO (dmsg 8 0x5A00 0x0 (pack 32 [(0, 7), (8,
    0), (32, 5), (64, 0x4000), (128, 0x8000)]))), row 0x5A00 0x0, by decide +kernel⟩

set_option maxRecDepth 100000 in
theorem test_meets_LockedRunsAndSwaps_2 : ∃ (s : State) (u : State) (l : LockRun) (k : Fin 12) (p : Fin 64) (cn : Nat) (f : FrameSt), l = s.sched.lock
    ∧ s.frozen = false ∧ sget 0 s.pcs.cabLevel k = 0 ∧ l.phase = 1 ∧ l.cab = k.val ∧ l.prog = p.val ∧ s.cabDrained k = true ∧ s.freeFrame k p = some
    (cn, f) ∧ (s.asJob .lock).lockInputs f = (u, true) ∧ u.sched.lock = l ∧ u.coh.need = [] :=
  ⟨lk1r, ((lk1r.asJob .lock).lockInputs lf).1, _, (0 : Fin 12), (7 : Fin 64), (2 : Nat), lf, rfl, by decide +kernel⟩

set_option maxRecDepth 100000 in
theorem test_meets_LockedRunsAndSwaps_3 : ∃ (s : State) (u : State) (l : LockRun) (b : Bytes), l = s.sched.lock ∧ b = s.lockOutput ∧ s.frozen = false
    ∧ l.phase = 2 ∧ (s.req l.req).phase = 5 ∧ l.failed = false ∧ (s.req l.req).status = stOk ∧ ((s.asJob .lock).endReq l.req).vwrite .loader .ctl
    l.acid l.output b = (u, .none) ∧ u.sched.lock = l ∧ u.coh.need = [] :=
  ⟨lk2, (((lk2.asJob .lock).endReq lk2.sched.lock.req).vwrite .loader .ctl lk2.sched.lock.acid lk2.sched.lock.output lk2.lockOutput).1, _, _, rfl,
    rfl, by decide +kernel⟩

theorem test_meets_ContextsRun_7 : ∃ (s : State) (t : Fin 96) (p : Nat) (f : Nat) (r : Nat), s.frozen = false ∧ (s.tile t).trap.phase = 1 ∧ (s.tile
    t).resetting = false ∧ (∀ c, (s.tile t).active = some c → ((s.tile t).ctx c).slots = 0) ∧ (s.tile t).mxu = none ∧ (s.tile t).conv = none ∧
    s.trapHome t = some (p, f, r) :=
  ⟨trp, (0 : Fin 96), ((trp.trapHome 0).getD (0,0,0)).1, ((trp.trapHome 0).getD (0,0,0)).2.1, ((trp.trapHome 0).getD (0,0,0)).2.2, by decide +kernel⟩

end Sys2Proof.Tests.TilesC

namespace Sys2Proof.Tests.Requests

def q0 : State := queued { avail := 5, fetchPos := 3, cqPos := 2, cqHead := 1, pos := 2 }
def desc (p : Nat) : Bytes := pack 64 [(504, p), (503, 1), (5, 77)]
def q1 (d : Bytes) : State := let s := queued { avail := 5, fetchPos := 3, reads := [{ pos := 2, num := 6 }, { pos := 3, num := 7 }] }; fetched (.desc 6) (linesAt 386 1) { s with shelves := { s.shelves with mem := mwrite [] 0x6080 d } }
def vr (s : State) : State × Bytes × Bool × VErr := (s.asJob (.desc 6)).vread (.sqe 0) .ctl (s.sqAcid 0) (s.sqBase 0 + 64 * (2 % s.sqSize 0)) 64
def q1s : State := queued { reads := [{ pos := 2, num := 6, stale := true }] }
def dbad : Bytes := pack 64 [(504, 2), (503, 1), (450, 1)]
def q2 : State := let s := queued { avail := 5, fetchPos := 3, retry := some { f := 0, issued := 2 } }; { s with gtc := { count := 20000 } }
def q3 : State := let s := queued { avail := 5, fetchPos := 3, retry := some { f := 0, issued := 6, returned := 6 } }; { s with gtc := { count := 80000 } }
def q4 : State := let s := queued { avail := 5, fetchPos := 3, stalled := true, retry := some { f := 0, issued := 6, returned := 6 } }; { s with gtc := { count := 80000 } }
def q5 (z : Nat := 5000000000) : State := queued { ready := [desc 2], pos := 2 } z
def q6 : State := let s := q5; { s with sched := { s.sched with cabs := [(1, { frames := [(3, { prog := 0, mask := 1, idx := 2, bases := [0, 0xFFFF,0xFFFF,0xFFFF,0xFFFF,0xFFFF,0xFFFF,0xFFFF] })], dispatch := [1] })] }, sqe := { s.sqe with reqs := [(1, { cls := 2, acid := 5, cab := 1, admitted := true, phase := 1, desc := desc 2, recVa := 0x8000 })] } }
def f6 : FrameSt := { prog := 0, mask := 1, idx := 2, bases := [0, 0xFFFF,0xFFFF,0xFFFF,0xFFFF,0xFFFF,0xFFFF,0xFFFF] }
def q7 : State := nx (.requestBind 1 0) q6
def q6w : State := ((q6.asJob (.bind 1)).bindTo 1 3 f6).cabCount 1 0
def gated : Bytes :=
  let g := pack 64 [(176, 1), (280, 5)] ++ zeros 32
  pack 64 [(416, 1)] ++ pack 64 ([416, 384, 352, 320, 288, 256, 224].map (fun b => (b, 1000))) ++ natLe 144 8 ++ natLe g.length 4 ++ zeros 4 ++ g
def q7g : State := { q7 with sched := { q7.sched with progs := [(0, { state := 2, image := gated })] } }
def q8 : State := let s := q7; { s with sqe := { s.sqe with reqs := [(1, { (s.req 1) with phase := 3, finals := 1 })] } }
def q9 : State := let s := q8; let s := s.setTile 8 { s.tile 8 with ctxs := [] }; { s with sqe := { s.sqe with reqs := [(1, { (s.req 1) with phase := 3, causes := [{ status := 3, gtc := 5 }, { status := 4, gtc := 4 }] })] } }
def q10 (cr : Option Retry) : State := fetched (.entry 0) (linesAt 448 1) <| let s := queued { order := [1, 2], cqPos := 17, cqHead := 10, cqRetry := cr }; { s with gtc := { count := 150000 }, sqe := { s.sqe with reqs := [(1, { cls := 2, admitted := true, phase := 4, status := 4, pos := 17, desc := desc 2, vary := true })] } }
def b10 : Bytes := cqEntry (le (desc 2) 0 8) 150 4 2 true true false
def v10 (s : State) : State := (s.asJob (.entry 0)).setQueue 0 { s.queue 0 with cqRetry := (s.queue 0).cqRetry.map (fun z => { z with issued := z.issued + 1 }) }
def u10 (s : State) : State := ((v10 s).issueEntry 0 (0x7000 + 16) (le (desc 2) 0 8) b10).1
def w10 : CqWrite := { va := 0x7010, bytes := b10, ids := [4] }
def q10r : State := let s := q10 (some {}); s.setQueue 0 { s.queue 0 with redo := some w10 }
def q11 : State := let s := queued { acks := [w10] }; { s with rsps := [(4, { performed := true })] }
def q12 : State := let s := queued {}; { s with epm := { s.epm with readers := [(0, 3)] }, sqe := { s.sqe with reqs := [(1, { cls := 2, admitted := true, phase := 5, status := 4, counted := true })] } }
def up : State := { live with shelves := { live.shelves with hbmUp := 1, capState := 1 } }
def ow : State := { up with shelves := { up.shelves with owed := [bankKey 3 5] } }
def w1 (k : Nat) : State := put up 0x3300 0 ((List.replicate 16 k).map (BitVec.ofNat 8) ++ List.replicate 16 (BitVec.ofNat 8 k))
def wq (s : State) (c k : Nat) : State := let s := (s.slotDue c 5 k .none).1; { s with shelves := { s.shelves with wheelPos := sset 0 s.shelves.wheelPos (if c < 8 then 0 else 1) 1 } }
def w5 : State := let s := w1 5; { s with shelves := { s.shelves with copies := [{ ctl := 3, part := 2, pointer := 7 }] } }
def w4 : State := let s := w1 4; { s with mtu := { s.mtu with sweeps := 5 } }
def w5d : State := { w5 with shelves := { w5.shelves with debt := [(debtKey 3 5 5, 2)] } }
def w6 : State := { nx (.bgSlotStart 3 5 .none none) (w1 1) with gtc := { count := 200 } }
def w7 : State := nx (.refDue 3 5 .none) up

theorem test_meets_QueuesFetchDescriptors_1 : ∃ (s : State) (p : Fin 2) (n : Fin 128) (v : BitVec 32) (q : Nat) (x : Queue), q = 128 * p.val + n.val ∧
    x = s.queue q ∧ s.barHeld p = false ∧ s.bellOk q 32 v.toNat = true :=
  ⟨q0, (0 : Fin 2), (0 : Fin 128), (9 : BitVec 32), _, _, rfl, rfl, by decide +kernel⟩

theorem test_meets_QueuesFetchDescriptors_2 : ∃ (s : State) (p : Fin 2) (n : Fin 128) (v : BitVec 32) (w : Nat) (q : Nat), q = 128 * p.val + n.val ∧
    s.barHeld p = false ∧ s.bellOk q w v.toNat = false :=
  ⟨q0, (0 : Fin 2), (0 : Fin 128), (16 : BitVec 32), (32 : Nat), _, rfl, by decide +kernel⟩

theorem test_meets_QueuesFetchDescriptors_3 : ∃ (s : State) (p : Fin 2) (n : Fin 128) (v : BitVec 32) (q : Nat) (head : Nat) (x : Queue), q = 128 *
    p.val + n.val ∧ x = s.queue q ∧ s.barHeld p = false ∧ s.bellOk q 32 v.toNat = true ∧ x.cqHead ≤ head ∧ head < x.cqHead + s.sqSize q ∧ head %
    s.sqSize q = v.toNat :=
  ⟨q0, (0 : Fin 2), (0 : Fin 128), (2 : BitVec 32), _, (2 : Nat), _, rfl, rfl, by decide +kernel⟩

theorem test_meets_QueuesFetchDescriptors_4 : ∃ (s : State) (q : Fin 256) (x : Queue), x = s.queue q ∧ s.frozen = false ∧ s.fetchHeld (q.val / 128) =
    false ∧ x.enabled = true ∧ x.stalled = false ∧ x.retry = none ∧ x.fetchPos < x.avail ∧ x.reads.length < 8 ∧ s.readsInFlight < 512 ∧ x.fetchPos + 1
    - x.cqHead < s.sqSize q :=
  ⟨q0, (0 : Fin 256), _, rfl, by decide +kernel⟩

theorem test_meets_QueuesFetchDescriptors_5 : ∃ (s : State) (q : Fin 256) (r : DescRead) (rest : List DescRead), s.frozen = false ∧ (s.queue q).reads
    = r :: rest ∧ r.stale = true :=
  ⟨q1s, (0 : Fin 256), ({ pos := 2, num := 6, stale := true } : DescRead), ([] : List DescRead), by decide +kernel⟩

theorem test_meets_QueuesFetchDescriptors_6 : ∃ (s : State) (u : State) (q : Fin 256) (r : DescRead) (rest : List DescRead) (b : Bytes) (x : Queue), x
    = u.queue q ∧ s.frozen = false ∧ (s.queue q).reads = r :: rest ∧ r.stale = false ∧ (s.asJob (.desc r.num)).vread (.sqe q) .ctl (s.sqAcid q)
    (s.sqBase q + 64 * (r.pos % s.sqSize q)) 64 = (u, b, false, .none) ∧ u.coh.need = [] ∧ u.descTagOk q r.pos b = true :=
  ⟨q1 (desc 2), (vr (q1 (desc 2))).1, (0 : Fin 256), ({ pos := 2, num := 6 } : DescRead), ([{ pos := 3, num := 7 }] : List DescRead), desc 2, _, rfl,
    by decide +kernel⟩

theorem test_meets_QueuesFetchDescriptors_7 : ∃ (s : State) (u : State) (v : State) (q : Fin 256) (r : DescRead) (rest : List DescRead) (b : Bytes)
    (poison : Bool) (e : VErr) (ty : Nat) (l : Nat) (a : Nat), s.frozen = false ∧ (s.queue q).reads = r :: rest ∧ r.stale = false ∧ (s.asJob (.desc
    r.num)).vread (.sqe q) .ctl (s.sqAcid q) (s.sqBase q + 64 * (r.pos % s.sqSize q)) 64 = (u, b, poison, e) ∧ (e = .none ∧ (poison = true ∨
    u.descTagOk q r.pos b = false) ∧ v = u ∨ e = .hostLost ∧ v = u ∨ e = .fault ty l a ∧ v = u.engineFault (u.sqAcid q) ty l a .read 5 0) ∧ v.coh.need
    = [] :=
  ⟨q1 (desc 3), (vr (q1 (desc 3))).1, (vr (q1 (desc 3))).1, (0 : Fin 256), ({ pos := 2, num := 6 } : DescRead), ([{ pos := 3, num := 7 }] : List
    DescRead), desc 3, false, (.none : VErr), (0 : Nat), (0 : Nat), (0 : Nat), by decide +kernel⟩

theorem test_meets_QueuesFetchDescriptors_8 : ∃ (s : State) (q : Fin 256) (x : Queue) (r : Retry), x = s.queue q ∧ x.retry = some r ∧ s.frozen = false
    ∧ s.fetchHeld (q.val / 128) = false ∧ x.stalled = false ∧ r.issued < 6 ∧ 1000 * (2 ^ (r.issued + 1) - 1) ≤ since s.now r.f :=
  ⟨q2, (0 : Fin 256), _, ((((q2).queue (0 : Fin 256)).retry).get (by decide +kernel)), rfl, by decide +kernel⟩

theorem test_meets_QueuesFetchDescriptors_9 : ∃ (s : State) (q : Fin 256) (x : Queue) (r : Retry), x = s.queue q ∧ (x.retry = some r ∨ x.cqRetry =
    some r) ∧ s.frozen = false ∧ x.stalled = false ∧ 6 ≤ r.returned ∧ 64000 ≤ since s.now r.f :=
  ⟨q3, (0 : Fin 256), _, ((q3.queue 0).retry.get (by decide +kernel)), rfl, by decide +kernel⟩

theorem test_meets_QueuesFetchDescriptors_10 : ∃ s i q r, State.serves s i q (.exec .queueResume) ∧ (s.taken i).execPasses q r :=
  ⟨(asksH q4 (dmsg 8 0x2800 0x0 [0])), 0, (reqH (dmsg 8 0x2800 0x0 [0])), row 0x2800 0x0, by decide +kernel⟩

theorem test_meets_RequestsAdmitAndBind_1 : ∃ (s : State) (q : Fin 256) (b : Bytes) (rest : List Bytes) (c : Nat) (k : Nat) (r : Nat), c = s.sqClass q
    ∧ s.frozen = false ∧ s.policeTurn = some q.val ∧ (s.queue q).ready = b :: rest ∧ s.nextCab c = some k ∧ sget 0 s.pcs.cabLevel k = 0 ∧ s.hasToken c
    = true ∧ r = s.sqe.nextReq :=
  ⟨q5, (0 : Fin 256), desc 2, ([] : List Bytes), _, (0 : Nat), q5.sqe.nextReq, rfl, by decide +kernel⟩

theorem test_meets_RequestsAdmitAndBind_2 : ∃ (s : State) (q : Fin 256) (b : Bytes) (rest : List Bytes) (c : Nat), c = s.sqClass q ∧ s.frozen = false
    ∧ s.policeTurn = some q.val ∧ (s.queue q).ready = b :: rest ∧ s.hasToken c = false :=
  ⟨q5 0, (0 : Fin 256), desc 2, ([] : List Bytes), _, rfl, by decide +kernel⟩

theorem test_meets_RequestsAdmitAndBind_3 : ∃ s : State, s.frozen = false ∧ ∀ k, s.policeTurn ≠ some k :=
  have h : task.policeTurn = none := by decide +kernel
  ⟨task, by decide +kernel, fun k e => by rw [h] at e; cases e⟩

theorem test_meets_RequestsAdmitAndBind_4 : ∃ (s : State) (q : Fin 256), s.frozen = false :=
  ⟨q5, (0 : Fin 256), by decide +kernel⟩

theorem test_meets_RequestsAdmitAndBind_5 : ∃ (s : State) (k : Fin 12) (p : Fin 64) (r : Nat) (cn : Nat) (f : FrameSt) (w : State), w = ((s.asJob
    (.bind k)).bindTo r cn f).cabCount k 0 ∧ s.frozen = false ∧ sget 0 s.pcs.cabLevel k = 0 ∧ s.sched.lock.phase ≠ 1 ∧ (s.cab k).dispatch.find? (fun r
    => (s.req r).prog = p.val && !(s.req r).ending) = some r ∧ s.freeFrame k p = some (cn, f) ∧ (s.req r).cab = k.val ∧ (w.writeRecord r (w.req
    r).recVa).coh.need = [] :=
  ⟨q6, (1 : Fin 12), (0 : Fin 64), (1 : Nat), (3 : Nat), f6, _, rfl, by decide +kernel⟩

theorem test_meets_RequestsAdmitAndBind_6 : ∃ (w : State) (u : State) (v : State) (r : Nat) (va : Nat) (a : Nat) (pg : TlbEnt), w.xlateNow .ctl (w.req
    r).acid va true = (u, .go (.dev a) pg) ∧ u.devWrite (.sqe (w.req r).q) (w.req r).acid a ((w.req r).desc.take 56 ++ zeros 8) false = (v, .none) :=
  ⟨q6w, (q6w.xlateNow .ctl 5 0x8480 true).1, (((q6w.xlateNow .ctl 5 0x8480 true).1).devWrite (.sqe 0) 5 0x8480 ((desc 2).take 56 ++ zeros 8) false).1,
    (1 : Nat), (0x8480 : Nat), (0x8480 : Nat), page, by decide +kernel⟩

theorem test_meets_RequestsAdmitAndBind_7 : ∃ (s : State) (r : Nat) (m : Nat) (q : Request) (gate : Nat → Nat), q = s.req r ∧ gate = (fun n =>
    ((segFind (s.prog q.prog).image ((s.tile (8 * q.cab + n)).ctx q.ctx).seg).map segGate).getD 0) ∧ s.frozen = false ∧ q.phase = 2 ∧ q.ending = false
    ∧ m < 8 ∧ q.lanes.testBit m = true ∧ ((s.tile (8 * q.cab + m)).ctx q.ctx).req = r ∧ gate m ≤ sget 0 q.releases m :=
  ⟨q7, (1 : Nat), (0 : Nat), _, _, rfl, rfl, by decide +kernel⟩

theorem test_meets_RequestsAdmitAndBind_8 : ∃ (s : State) (r : Nat) (m : Nat) (q : Request) (gate : Nat → Nat), q = s.req r ∧ gate = (fun n =>
    ((segFind (s.prog q.prog).image ((s.tile (8 * q.cab + n)).ctx q.ctx).seg).map segGate).getD 0) ∧ sfind s.sqe.reqs r = some q ∧ s.frozen = false ∧
    q.phase = 2 ∧ q.causes = [] ∧ m < 8 ∧ q.lanes.testBit m = true ∧ (∀ n, n < 8 → q.lanes.testBit n = true → ((s.tile (8 * q.cab + n)).ctx q.ctx).req
    = r ∧ sget 0 q.releases n < gate n) :=
  ⟨q7g, (1 : Nat), (0 : Nat), _, _, rfl, rfl, by decide +kernel⟩

theorem test_meets_CompletionsAreWritten_1 : ∃ (s : State) (r : Nat) (q : Request), q = s.req r ∧ s.frozen = false ∧ q.phase = 3 ∧ q.causes = [] ∧
    q.finals = q.lanes ∧ s.taskBusy r = false ∧ q.discard = false ∧ q.locked = false :=
  ⟨q8, (1 : Nat), _, rfl, by decide +kernel⟩

theorem test_meets_CompletionsAreWritten_2 : ∃ (s : State) (r : Nat) (q : Request) (c : Cause), q = s.req r ∧ s.frozen = false ∧ q.live = true ∧
    firstCause q.causes = some c ∧ s.holdsCtx r = false ∧ s.taskBusy r = false ∧ (∀ x ∈ q.causes, x.open_ = false) ∧ q.discard = false ∧ q.locked =
    false :=
  ⟨q9, (1 : Nat), _, ({ status := 4, gtc := 4 } : Cause), rfl, by decide +kernel⟩

theorem test_meets_CompletionsAreWritten_3 : ∃ (s : State) (u : State) (v : State) (q : Fin 256) (c : Instr) (r : Nat) (va : Nat) (dt : Nat) (x :
    Queue) (y : Request) (b : Bytes) (late : Bool) (ids : List Nat), x = s.queue q ∧ y = s.req r ∧ dt = (if y.admitted then since s.now y.admitAt else
    0) ∧ late = (y.admitted && decide (1000 * y.deadline < dt)) ∧ va = s.cqBase q + 16 * (x.cqPos % s.sqSize q) ∧ b = cqEntry (le y.desc 0 8) (dt /
    1000) y.status ((y.pos + 1) % s.sqSize q) late y.vary (x.cqPos / s.sqSize q % 2 = 0) ∧ s.frozen = false ∧ s.fetchHeld (q.val / 128) = false ∧
    x.redo = none ∧ (c = .completionWrite q ∧ x.enabled = true ∧ x.cqRetry = none ∧ v = s.asJob (.entry q) ∨ c = .completionWriteRetry q ∧
    x.cqRetry.any s.retryDue = true ∧ v = (s.asJob (.entry q)).setQueue q
    { x with cqRetry := x.cqRetry.map (fun z => { z with issued := z.issued + 1 }) }) ∧ s.nextEntry q = some r ∧ v.issueEntry q va (le y.desc 0 8) b =
    (u, some ids) ∧ u.coh.need = [] :=
  ⟨q10 none, u10 (q10 none), v10 (q10 none), (0 : Fin 256), (.completionWrite 0 : Instr), (1 : Nat), _, _, _, _, _, _, ([] : List Nat), rfl, rfl, rfl,
    rfl, rfl, rfl, by decide +kernel⟩

theorem test_meets_CompletionsAreWritten_4 : ∃ (s : State) (u : State) (v : State) (q : Fin 256) (x : Queue) (z : Retry) (w : CqWrite) (ids : List
    Nat), x = s.queue q ∧ v = (s.asJob (.entry q)).setQueue q { x with cqRetry := some { z with issued := z.issued + 1 } } ∧ s.frozen = false ∧
    s.fetchHeld (q.val / 128) = false ∧ x.redo = some w ∧ x.cqRetry = some z ∧ s.retryDue z = true ∧ v.issueEntry q w.va (le w.bytes 8 8) w.bytes =
    (u, some ids) ∧ u.coh.need = [] :=
  ⟨q10r, u10 q10r, _, (0 : Fin 256), _, ({} : Retry), w10, ([] : List Nat), rfl, rfl, by decide +kernel⟩

theorem test_meets_CompletionsAreWritten_5 : ∃ (s : State) (u : State) (v : State) (q : Nat) (va : Nat) (a : Nat) (rid : Nat) (t : Target) (pg :
    TlbEnt) (b : Bytes), s.xlateNow .ctl (s.sqAcid q) va true = (u, .go t pg) ∧ Agent.route (.sqe q) t = .dev a ∧ u.devWrite (.sqe q) (u.sqAcid q) a b
    false = (v, .none) :=
  ⟨v10 (q10 none), (((v10 (q10 none)).xlateNow .ctl ((v10 (q10 none)).sqAcid (0 : Nat)) (0x7010 : Nat) true).1), u10 (q10 none), (0 : Nat), (0x7010 :
    Nat), (0x7010 : Nat), (77 : Nat), (.dev 0x7010 : Target), page, b10, by decide +kernel⟩

theorem test_meets_CompletionsAreWritten_6 : ∃ (s : State) (v : State) (q : Fin 256) (x : Queue) (w : CqWrite) (rest : List CqWrite), x = s.queue q ∧
    v = (s.setQueue q { x with acks := rest, cqRetry := if w.again then none else x.cqRetry }).forget w.ids ∧ x.acks = w :: rest ∧ s.writesDone w.ids
    = some .none :=
  ⟨q11, _, (0 : Fin 256), _, w10, ([] : List CqWrite), rfl, rfl, by decide +kernel⟩

theorem test_meets_CompletionsAreWritten_7 : ∃ (s : State) (q : Fin 256) (x : Queue) (w : CqWrite) (rest : List CqWrite) (e : MemErr), x = s.queue q ∧
    x.acks = w :: rest ∧ s.writesDone w.ids = some e ∧ e ≠ .none ∧ x.redo = none :=
  ⟨({ q11 with rsps := [(4, { performed := true, err := .hostLost })] } : State), (0 : Fin 256), _, w10, ([] : List CqWrite), (.hostLost : MemErr),
    rfl, by decide +kernel⟩

theorem test_meets_CompletionsAreWritten_8 : ∃ (s : State) (r : Nat) (q : Request), q = s.req r ∧ s.frozen = false ∧ q.phase = 5 ∧ q.counted = true ∧
    s.epm.retreats = [] :=
  ⟨q12, (1 : Nat), _, rfl, by decide +kernel⟩

theorem test_meets_CompletionsAreWritten_9 : ∃ (rid : Nat) (elapsed : Nat) (status : Nat) (head : Nat) (late : Bool) (vary : Bool) (phase : Bool), rid
    < 2 ^ 64 ∧ elapsed < 2 ^ 24 ∧ status < 256 ∧ head < 65536 :=
  ⟨(0x123456789 : Nat), (77 : Nat), (3 : Nat), (9 : Nat), true, false, true, by decide +kernel⟩

theorem test_meets_SlotsStart_1 : ∃ (s : State) (ctl : Fin 20) (bank : Nat), s.selfRefresh = false ∧ s.shelves.trained ctl = true :=
  ⟨up, (3 : Fin 20), (5 : Nat), by decide +kernel⟩

theorem test_meets_SlotsStart_2 : ∃ (s : State) (ctl : Fin 20) (bank : Nat) (fg : FgWait), (s.selfRefresh = true ∨ s.shelves.trained ctl = false) :=
  ⟨live, (3 : Fin 20), (5 : Nat), (.old : FgWait), by decide +kernel⟩

theorem test_meets_SlotsStart_3 : ∃ (s : State) (ctl : Fin 20) (bank : Nat) (k : Option (Fin 6)), s.selfRefresh = false ∧ s.shelves.trained ctl = true
    ∧ bankKey ctl bank ∈ s.shelves.owed ∧ s.slotFits ctl bank 0 true = true :=
  ⟨ow, (3 : Fin 20), (5 : Nat), none, by decide +kernel⟩

theorem test_meets_SlotsStart_4 : ∃ (s : State) (ctl : Fin 20) (bank : Nat) (pos : Nat) (i : Nat) (k : Nat), pos = sget 0 s.shelves.wheelPos (if
    ctl.val < 8 then 0 else 1) ∧ k = s.wheelAt ctl (pos + i) ∧ s.selfRefresh = false ∧ s.shelves.trained ctl = true ∧ bankKey ctl bank ∉
    s.shelves.owed ∧ (List.range 16).find? (fun i => s.bgPending ctl (s.wheelAt ctl (pos + i))) = some i ∧ s.slotFits ctl bank k false = true :=
  ⟨w1 1, (3 : Fin 20), (5 : Nat), _, (0 : Nat), _, rfl, rfl, by decide +kernel⟩

theorem test_meets_SlotsStart_5 : ∃ (s : State) (ctl : Fin 20) (bank : Nat) (k : Fin 6), s.selfRefresh = false ∧ s.shelves.trained ctl = true ∧
    bankKey ctl bank ∉ s.shelves.owed ∧ s.debtOf ctl bank k ≠ 0 ∧ s.slotFits ctl bank k false = true :=
  ⟨w5d, (3 : Fin 20), (5 : Nat), (5 : Fin 6), by decide +kernel⟩

theorem test_meets_SlotsStart_6 : ∃ (s : State) (ctl : Fin 20) (bank : Nat) (x : BgSlot), sfind s.shelves.slots (bankKey ctl bank) = some x :=
  ⟨w6, (3 : Fin 20), (5 : Nat), ((sfind (w6).shelves.slots (bankKey (3 : Fin 20) (5 : Nat))).get (by decide +kernel)), by decide +kernel⟩

theorem test_meets_SlotsStart_7 : ∃ (s : State) (ctl : Fin 20) (part : Nat) (key : Nat) (n : Nat) (ok : Bool) (x : BgSlot), n = (if ok then 0 else
    sget 0 s.shelves.recal (partKey ctl part) + 1) ∧ s.shelves.slots.find? (fun p => p.1 % 32 = ctl.val && p.2.kind = 0 && !p.2.recal) = some (key, x)
    :=
  ⟨w7, (3 : Fin 20), (2 : Nat), (163 : Nat), _, false, ((sfind w7.shelves.slots 163).get (by decide +kernel)), rfl, by decide +kernel⟩

theorem test_meets_SlotsStart_8 : ∃ (s : State) (ctl : Fin 20) (part : Nat) (ok : Bool), s.shelves.slots.find? (fun p => p.1 % 32 = ctl.val &&
    p.2.kind = 0 && !p.2.recal) = none :=
  ⟨w6, (3 : Fin 20), (2 : Nat), true, by decide +kernel⟩

end Sys2Proof.Tests.Requests

namespace Sys2Proof.Tests.Memory

def rd (why : ReadFor) (ctl : Nat) (line : Nat) : State := let s := dca; let s := s.setSlice 2 { s.slice 2 with misses := [(9, { key := line })] }; { s with shelves := { s.shelves with hbmUp := 1, reads := [(70, { ctl := ctl, line := line, why := why })], mem := mwrite [] (64 * line) (ramp 64) } }
def cpy (n : Nat) : State := let s := rd .copy 0 64; { s with shelves := { s.shelves with copies := [{ ctl := 0, part := 1, pointer := n }] } }
def cv0 : State := put (rd (.fill 2 9) 8 (shelf2Base / 64 + 5)) 0x3000 0 [0, 0, 1, 0, 0, 0, 0, 0, 7, 0, 0, 0, 0, 0, 0, 0]
def cv (d : Bool) : State := { cv0 with shelves := { cv0.shelves with carve := [(cv0.carveSet 5 * 3 + 1, { line := 5, valid := true, dirty := d, data := ramp 64 })], tagReads := [(3, { line := shelf2Base / 64 + 5, read := 70 })] } }
def cvm : State := let s := cv false; { s with shelves := { s.shelves with carve := [], reads := [(70, { ctl := 8, line := shelf2Base / 64 + 5, why := .fill 2 9, got := some false })] } }
def sp : State := let s := put (put dca 0x3000 0 [1, 0, 1, 0, 0, 0, 0, 0, 7, 0, 0, 0, 0, 0, 0, 0]) 0x3100 0 [1,0,0,0]; { s with shelves := { s.shelves with ranks := 4 } }
def fl : State := let s := cv true; { s with shelves := { s.shelves with flushing := true }, ods := { s.ods with cmds := [(0x300003, { state := 1 })] } }
def sa (op : MemOp) : State := waits (cached dca 9) 9 (mreq op)
def kk : Nat := dcaSet 64 * 16 + 3
def sresv : State := let s := sa .write; { s with coh := { s.coh with resv := [{ agent := .tile 4 4, base := .dev 0x1000, size := 64 }, { agent := .tile 5 4, base := .dev 0x1040, size := 64 }] } }
def ms : State := waits dca 9 (mreq .read)
def msn : State := let s := waits node7 9 (mreq .read); s
def own : State := waits dca 9 { mreq .write with acid := 6 }
def stc_ : State := waits (cached dca 9) 9 (mreq .stc)
def fi : State := let s := dca; s.setSlice 9 { s.slice 9 with misses := [(3, { key := 64, tgt := .dev 0x1000, alloc := true, ready := true, data := ramp 64, waiters := [mreq .read, mreq .write] })] }
def fu : State := fi.setSlice 9 { fi.slice 9 with misses := [] }
def ho := fu.handOut (ramp 64) false [mreq .read, mreq .write]
def fn : State := let s := dca; s.setSlice 9 { s.slice 9 with misses := [(3, { key := 64, tgt := .dev 0x1000, ready := true, data := ramp 64, waiters := [mreq .read] })] }
def fh : State := let s := dca; s.setSlice 9 { s.slice 9 with misses := [(3, { key := 64, tgt := .dev 0x1000, ready := true, crit := true, data := ramp 64, waiters := [{ mreq .read with crit := true }] })] }
def vb (e : Bool) : State := let s := dca; let s := s.setSlice 9 { s.slice 9 with victims := [(64, { tgt := .dev 0x1000, st := .ml, data := ramp 64 })] }; { s with coh := { s.coh with hostReqs := if e then [(5, { why := .evict 9 64 })] else [] } }
def hq (w : HostWhy) : State := { fi with coh := { fi.coh with hostReqs := [(5, { port := 1, why := w })] } }
def hs (st : LineSt) : State := let t : Target := .host 1 0x1000; dca.setSlice t.slice ((dca.slice t.slice).setWay (dcaSet t.key * 16 + 2) { key := t.key, st := st, data := ramp 64 })
def hm : State := let t : Target := .host 1 0x1000; dca.setSlice t.slice { dca.slice t.slice with misses := [(3, { key := t.key, tgt := t, ready := true })] }

theorem test_meets_LinesReturnAndSparesCopy_1 : ∃ (s : State) (ctl : Fin 20) (id : Nat) (i : Nat) (m : Nat) (c : CtlRead), sfind s.shelves.reads id =
    some c ∧ c.ctl = ctl ∧ c.got = none ∧ (∀ p ∈ s.shelves.tagReads, p.2.read ≠ id) ∧ c.why = .fill i m :=
  ⟨rd (.fill 2 9) 0 64, (0 : Fin 20), (70 : Nat), (2 : Nat), (9 : Nat), ((sfind (rd (.fill 2 9) 0 64).shelves.reads (70 : Nat)).get
    (by decide +kernel)), by decide +kernel⟩

theorem test_meets_LinesReturnAndSparesCopy_2 : ∃ (s : State) (ctl : Fin 20) (id : Nat) (c : CtlRead), sfind s.shelves.reads id = some c ∧ c.ctl = ctl
    ∧ c.got = none ∧ (∀ p ∈ s.shelves.tagReads, p.2.read ≠ id) ∧ c.why = .scrub ∧ c.written = false ∧ s.inCarve (c.line * 64) = false ∧ s.shelves.part
    (ctlOf (c.line * 64)) (s.shelves.partOf (c.line * 64)) ≠ 4 :=
  ⟨rd .scrub 0 64, (0 : Fin 20), (70 : Nat), ((sfind (rd .scrub 0 64).shelves.reads (70 : Nat)).get (by decide +kernel)), by decide +kernel⟩

theorem test_meets_LinesReturnAndSparesCopy_3 : ∃ (s : State) (ctl : Fin 20) (id : Nat) (c : CtlRead), sfind s.shelves.reads id = some c ∧ c.ctl = ctl
    ∧ c.got = none ∧ (∀ p ∈ s.shelves.tagReads, p.2.read ≠ id) ∧ c.why = .scrub ∧ c.written = false ∧ s.inCarve (c.line * 64) = false ∧ s.shelves.part
    (ctlOf (c.line * 64)) (s.shelves.partOf (c.line * 64)) ≠ 4 :=
  ⟨rd .scrub 0 64, (0 : Fin 20), (70 : Nat), ((sfind (rd .scrub 0 64).shelves.reads (70 : Nat)).get (by decide +kernel)), by decide +kernel⟩

theorem test_meets_LinesReturnAndSparesCopy_4 : ∃ (s : State) (ctl : Fin 20) (id : Nat) (c : CtlRead) (x : Copy), sfind s.shelves.reads id = some c ∧
    c.ctl = ctl ∧ c.got = none ∧ (∀ p ∈ s.shelves.tagReads, p.2.read ≠ id) ∧ c.why = .copy ∧ s.shelves.copies.find? (fun y => y.ctl = ctl.val) = some
    x :=
  ⟨cpy 5, (0 : Fin 20), (70 : Nat), ((sfind (cpy 5).shelves.reads (70 : Nat)).get (by decide +kernel)), (((cpy 5).shelves.copies.find? (fun y => y.ctl
    = (0 : Fin 20).val)).get (by decide +kernel)), by decide +kernel⟩

theorem test_meets_LinesReturnAndSparesCopy_5 : ∃ (s : State) (id : Nat) (k : Nat) (i : Nat) (m : Nat) (t : TagRead) (c : CtlRead), sfind
    s.shelves.tagReads id = some t ∧ s.carveFind (carveLine t.line) = some k ∧ sfind s.shelves.reads t.read = some c ∧ c.why = .fill i m :=
  ⟨cv false, (3 : Nat), cv0.carveSet 5 * 3 + 1, (2 : Nat), (9 : Nat), ((sfind (cv false).shelves.tagReads (3 : Nat)).get (by decide +kernel)), ((sfind
    (cv false).shelves.reads ((sfind (cv false).shelves.tagReads (3 : Nat)).get (by decide +kernel)).read).get (by decide +kernel)),
    by decide +kernel⟩

theorem test_meets_LinesReturnAndSparesCopy_6 : ∃ (s : State) (u : State) (id : Nat) (i : Nat) (m : Nat) (t : TagRead) (c : CtlRead) (lost : Bool), u
    = { s with shelves := { s.shelves with tagReads := sdel s.shelves.tagReads id } } ∧ sfind s.shelves.tagReads id = some t ∧ s.carveFind (carveLine
    t.line) = none ∧ sfind s.shelves.reads t.read = some c ∧ c.why = .fill i m ∧ c.got = some lost :=
  ⟨cvm, _, (3 : Nat), (2 : Nat), (9 : Nat), ((sfind (cvm).shelves.tagReads (3 : Nat)).get (by decide +kernel)), ((sfind (cvm).shelves.reads ((sfind
    (cvm).shelves.tagReads (3 : Nat)).get (by decide +kernel)).read).get (by decide +kernel)), false, rfl, by decide +kernel⟩

theorem test_meets_LinesReturnAndSparesCopy_7 : ∃ s i q r, State.serves s i q (.exec .pcSpare) ∧ (s.taken i).execPasses q r :=
  ⟨(asks sp (dmsg 8 0x3000 0x2 [3, 9])), 2, (reqO (dmsg 8 0x3000 0x2 [3, 9])), row 0x3000 0x2, by decide +kernel⟩

theorem test_meets_LinesReturnAndSparesCopy_8 : ∃ s i q r, State.serves s i q (.exec .rankSpare) ∧ (s.taken i).execPasses q r :=
  ⟨(asks sp (dmsg 8 0x3100 0x2 [1, 0])), 2, (reqO (dmsg 8 0x3100 0x2 [1, 0])), row 0x3100 0x2, by decide +kernel⟩

theorem test_meets_LinesReturnAndSparesCopy_9 : ∃ s i q r, State.serves s i q (.exec .carveFlush) ∧ (s.taken i).execPasses q r :=
  ⟨(asks sp (dmsg 8 0x3000 0x3 [])), 2, (reqO (dmsg 8 0x3000 0x3 [])), row 0x3000 0x3, by decide +kernel⟩

theorem test_meets_LinesReturnAndSparesCopy_10 : ∃ (s : State), s.shelves.flushing = true ∧ (∀ x ∈ s.shelves.carve, ∀ y ∈ s.shelves.carve, x.2.valid =
    true → y.2.valid = true → x.2.line = y.2.line → x = y) ∧ (∀ x ∈ s.shelves.carve, x.2.data.length = 64) :=
  ⟨fl, by decide +kernel⟩

theorem test_meets_SlicesServe_1 : ∃ (s : State) (i : Fin 16) (r : MemReq) (rest : List MemReq) (a : Nat) (k : Nat) (x : Way), x = (s.slice i).way k ∧
    s.heads i r rest ∧ r.tgt = .dev a ∧ a < 2 ^ 64 ∧ s.ownerOk r.acid a = true ∧ s.lineFree (a / 64) ∧ (∀ p ∈ (s.slice i).misses, p.2.key ≠ a / 64) ∧
    (s.slice i).lookup (a / 64) = some k ∧ (x.st = .cl ∨ x.st = .ml) :=
  ⟨sa .read, (9 : Fin 16), mreq .read, ([] : List MemReq), (0x1008 : Nat), kk, _, rfl, by decide +kernel⟩

theorem test_meets_SlicesServe_2 : ∃ (s : State) (i : Fin 16) (r : MemReq) (rest : List MemReq) (a : Nat) (m : Nat), s.heads i r rest ∧ r.tgt = .dev a
    ∧ r.op = .read ∧ s.ownerOk r.acid a = true ∧ s.lineFree (a / 64) ∧ (∀ p ∈ (s.slice i).misses, p.2.key ≠ a / 64) ∧ (s.slice i).lookup (a / 64) =
    none ∧ sfind (s.slice i).victims (a / 64) = none ∧ (s.slice i).freeMiss (s.allocates r) r.crit = some m :=
  ⟨ms, (9 : Fin 16), mreq .read, ([] : List MemReq), (0x1008 : Nat), (0 : Nat), by decide +kernel⟩

theorem test_meets_SlicesServe_3 : ∃ (s : State) (i : Fin 16) (r : MemReq) (rest : List MemReq) (a : Nat), s.heads i r rest ∧ r.tgt = .dev a ∧
    s.ownerOk r.acid a = false :=
  ⟨own, (9 : Fin 16), ({ mreq .write with acid := 6 } : MemReq), ([] : List MemReq), (0x1008 : Nat), by decide +kernel⟩

theorem test_meets_SlicesServe_4 : ∃ (s : State) (i : Fin 16) (r : MemReq) (rest : List MemReq) (a : Nat), s.heads i r rest ∧ r.tgt = .dev a ∧
    s.ownerOk r.acid a = true ∧ s.lineFree (a / 64) ∧ r.op = .stc ∧ s.resvStands r.src r.tgt = false :=
  ⟨stc_, (9 : Fin 16), mreq .stc, ([] : List MemReq), (0x1008 : Nat), by decide +kernel⟩

theorem test_meets_FillsAndHosts_1 : ∃ (s : State) (u : State) (v : State) (z : State) (i : Fin 16) (m : Nat) (x : Miss) (d : Bytes) (p : Bool) (wrote
    : Bool), u = s.setSlice i { s.slice i with misses := sdel (s.slice i).misses m } ∧ sfind (s.slice i).misses m = some x ∧ x.ready = true ∧ x.lost =
    false ∧ x.key < 2 ^ 58 ∧ x.alloc = true ∧ s.dcaOn = true ∧ u.handOut x.data x.poison x.waiters = (v, d, p, wrote) ∧ v.install i x.key (if wrote ||
    x.waiters.any (fun r => r.op.isAtomic) then .ml else .cl) d p = some z :=
  ⟨fi, _, ho.1, ((ho.1.install 9 64 .ml ho.2.1 ho.2.2.1).get (by decide +kernel)), (9 : Fin 16), (3 : Nat), ((sfind ((fi).slice (9 : Fin 16)).misses (3 : Nat)).get
    (by decide +kernel)), ho.2.1, ho.2.2.1, ho.2.2.2, rfl, by decide +kernel⟩

theorem test_meets_FillsAndHosts_2 : ∃ (s : State) (i : Fin 16) (m : Nat) (x : Miss) (r : MemReq), sfind (s.slice i).misses m = some x ∧ x.ready =
    true ∧ x.lost = false ∧ x.key < 2 ^ 58 ∧ x.alloc = false ∧ x.waiters = [r] ∧ r.op = .read :=
  ⟨fn, (9 : Fin 16), (3 : Nat), ((sfind ((fn).slice (9 : Fin 16)).misses (3 : Nat)).get (by decide +kernel)), mreq .read, by decide +kernel⟩

theorem test_meets_FillsAndHosts_3 : ∃ (s : State) (i : Fin 16) (m : Nat) (x : Miss) (r : MemReq), sfind (s.slice i).misses m = some x ∧ x.ready =
    true ∧ x.got = 0 ∧ x.lost = false ∧ x.waiters = [r] ∧ r.op = .read ∧ r.crit = true ∧ r.tgt.off / 32 = x.half ∧ (r.tgt.off + r.len - 1) / 32 =
    x.half :=
  ⟨fh, (9 : Fin 16), (3 : Nat), ((sfind ((fh).slice (9 : Fin 16)).misses (3 : Nat)).get (by decide +kernel)), ({ mreq .read with crit := true } :
    MemReq), by decide +kernel⟩

theorem test_meets_FillsAndHosts_4 : ∃ (s : State) (i : Fin 16) (key : Nat), s.coh.hostReqs.any (fun q => q.2.why = .evict i key) = false :=
  ⟨vb false, (9 : Fin 16), (64 : Nat), by decide +kernel⟩

theorem test_meets_FillsAndHosts_5 : ∃ (s : State) (i : Fin 16) (key : Nat), s.coh.hostReqs.any (fun q => q.2.why = .evict i key) = true :=
  ⟨vb true, (9 : Fin 16), (64 : Nat), by decide +kernel⟩

theorem test_meets_FillsAndHosts_6 : ∃ (s : State) (p : Fin 2) (id : Nat) (i : Nat) (m : Nat) (q : HostReq) (ext : ExtData), sfind s.coh.hostReqs id =
    some q ∧ q.port = p ∧ q.why = .fill i m :=
  ⟨hq (.fill 9 3), (1 : Fin 2), (5 : Nat), (9 : Nat), (3 : Nat), ((sfind (hq (.fill 9 3)).coh.hostReqs (5 : Nat)).get (by decide +kernel)),
    ({ bytes := ramp 64 } : ExtData), by decide +kernel⟩

theorem test_meets_FillsAndHosts_7 : ∃ (s : State) (p : Fin 2) (id : Nat) (r : MemReq) (q : HostReq) (ext : ExtData), sfind s.coh.hostReqs id = some q
    ∧ q.port = p ∧ q.why = .write r :=
  ⟨hq (.write (mreq .write)), (1 : Fin 2), (5 : Nat), mreq .write, ((sfind (hq (.write (mreq .write))).coh.hostReqs (5 : Nat)).get
    (by decide +kernel)), ({ bytes := [] } : ExtData), by decide +kernel⟩

theorem test_meets_FillsAndHosts_8 : ∃ (s : State) (p : Fin 2) (id : Nat) (i : Nat) (key : Nat) (q : HostReq) (ext : ExtData), sfind s.coh.hostReqs id
    = some q ∧ q.port = p ∧ q.why = .evict i key :=
  ⟨hq (.evict 9 64), (1 : Fin 2), (5 : Nat), (9 : Nat), (64 : Nat), ((sfind (hq (.evict 9 64)).coh.hostReqs (5 : Nat)).get (by decide +kernel)),
    ({ bytes := [] } : ExtData), by decide +kernel⟩

theorem test_meets_FillsAndHosts_9 : ∃ (s : State) (u : State) (p : Fin 2) (addr : BitVec 64) (a : Nat) (i : Nat) (k : Nat) (t : Target) (x : Way)
    (data : Option Bytes), u = s.wakeUp ∧ a = addr.toNat ∧ t = .host p (a / 64 * 64) ∧ i = t.slice ∧ x = (u.slice i).way k ∧ data = (if x.st = .mh
    then some x.data else none) ∧ s.linkUp p = true ∧ (∀ m ∈ (u.slice i).misses, m.2.key = t.key → m.2.ready = false) ∧ u.coh.snoops = [] ∧ (u.slice
    i).lookup t.key = some k :=
  ⟨hs .mh, _, (1 : Fin 2), (0x1008 : BitVec 64), _, _, dcaSet (Target.host 1 0x1000).key * 16 + 2, _, _, _, rfl, rfl, rfl, rfl, rfl, rfl,
    by decide +kernel⟩

theorem test_meets_FillsAndHosts_10 : ∃ (s : State) (u : State) (p : Fin 2) (addr : BitVec 64) (kind : SnoopKind) (t : Target), u = s.wakeUp ∧ t =
    .host p (addr.toNat / 64 * 64) ∧ s.linkUp p = true ∧ (∀ m ∈ (u.slice t.slice).misses, m.2.key = t.key → m.2.ready = false) ∧ u.coh.snoops = [] ∧
    (u.slice t.slice).lookup t.key = none ∧ sfind (u.slice t.slice).victims t.key = none :=
  ⟨dca, _, (1 : Fin 2), (0x1008 : BitVec 64), (.data : SnoopKind), _, rfl, rfl, by decide +kernel⟩

theorem test_meets_FillsAndHosts_11 : ∃ (s : State) (u : State) (p : Fin 2) (addr : BitVec 64) (kind : SnoopKind) (t : Target), u = s.wakeUp ∧ t =
    .host p (addr.toNat / 64 * 64) ∧ s.linkUp p = true ∧ (∃ m ∈ (u.slice t.slice).misses, m.2.key = t.key ∧ m.2.ready = true) :=
  ⟨hm, _, (1 : Fin 2), (0x1008 : BitVec 64), (.inv : SnoopKind), _, rfl, rfl, by decide +kernel⟩

theorem test_meets_LinesHaveHomes_2 : ∃ (a : Nat), inShelf2 a = false :=
  ⟨(0xBFFFFFFFFF : Nat), by decide +kernel⟩

theorem test_meets_LinesHaveHomes_3 : ∃ (a : Nat), inShelf2 a = true :=
  ⟨(0x10000000000 : Nat), by decide +kernel⟩

theorem test_meets_LinesHaveHomes_4 : ∃ (p : Nat) (h : Nat), p < 2 ∧ h < 2 ^ 64 :=
  ⟨(1 : Nat), (0xFFFFFFFFFFFFFFFF : Nat), by decide +kernel⟩

theorem test_meets_LinesHaveHomes_7 : ∃ (h : Nat) (k : Nat), h < 2 ^ 64 ∧ k < 2 ^ 64 :=
  ⟨(0xFFFFFFFFFFFFFFFF : Nat), (0 : Nat), by decide +kernel⟩

theorem test_meets_LinesHaveHomes_6 : ∃ t : Target, ∀ a, t ≠ .fab a := ⟨.dev 0, by simp⟩

end Sys2Proof.Tests.Memory

namespace Sys2Proof.Tests.Translation

def nodeI : State := { node7 with coh := { node7.coh with slices := (List.range 16).map (fun i => (i, { invDone := true })) } }
def hn : Nat := hdm.wakeUp.fresh.1
def hw : HdmWait := { port := 0, num := hn, req := .rdA 0x1000001008 }
def hrd : State := fetched (.hdm hn) [.line 64] hdm
def hrx : State × Option (Bytes × Bool) := hrd.wakeUp.fresh.2.hdmData hw 64
def hwb : State := hdm.setSnf 64 (snfSet 64 * 16) { line := 64, e := true, p0 := true }
def hown : State := { hdm with mtu := { hdm.mtu with owners := [(0, { mode := 1, acid := 6 })] } }
def hbi : State := let s := hdm.setSnf 64 (snfSet 64 * 16) { line := 64, e := true, p0 := true }; { s with coh := { s.coh with bis := [(biKey 0 64, { kind := .inv, sent := 5, limit := 1 })] }, gtc := { count := 1000005 } }
def hfl : State := let s := cached dca 9; let t : Target := .host 1 0x1000; let s := s.setSlice t.slice ((s.slice t.slice).setWay (dcaSet t.key * 16 + 2) { key := t.key, st := .mh, data := ramp 64 }); { s with coh := { s.coh with flushing := true }, hlc := sput s.hlc 1 { (s.port 1) with link := 0 } }
def hin (l : List Nat) : State := let s := cached node7 9; { s with coh := { s.coh with invLeft := l }, ods := { s.ods with cmds := [(0x320001, { state := 1 })] } }
def wlk : Walk := { acid := 5, va := 0x40123000, waiters := [{ who := .tile 3 1 }] }
def ww : State := let s := walks {} 0; { s with mtu := { s.mtu with waiting := [wlk, {}], walkers := [(0, {})], walkC := [{ acid := 5, level := 3, base := 0, table := 0x20000 }] } }
def wk (w : Walk) (e : Nat) : State := fetched (.walk 7) (linesAt ((w.table + 8 * ((w.va >>> (12 + 9 * w.level)) % 512)) / 64) 1) (walks w e)
def dr (w : Walk) (e : Nat) := (((wk w e).asJob (.walk 7)).mtuCount 1).devRead .mtu 5 (w.table + 8 * ((w.va >>> (12 + 9 * w.level)) % 512)) 8
def w2 : Walk := { wlk with level := 2, table := 0x10000 }
def w0 : Walk := { wlk with level := 0, table := 0x10000 }
def lf : Nat := 0x30000 + 1 + 2 + 8
def after (w : Walk) (e : Nat) : State := let u := (dr w e).1; { u with mtu := { u.mtu with walkers := sdel u.mtu.walkers 7 } }
def wt : Walk := { wlk with level := 0, table := 0x10000, ats := some { acid := 5, base := 0x1000, size := 4096, tgt := .host 1 0x77000, w := true } }
def wa : State := let s := task; { s with mtu := { s.mtu with atsWait := [wt] } }
def invS (q : Queue) : State := let s := task; { s with mtu := { s.mtu with ctl := [page, { page with acid := 6 }], micro := [(3, [page])], walkC := [{ acid := 5, level := 1, base := 0, table := 0x30000 }] } }
def iv (w : List XferRef) : State := let s := fqueue {}; { s with mtu := { s.mtu with inv := [(4, { running := true, acid := 5, fromPort := some 1, waits := w })] }, ods := { s.ods with cmds := [(0x400104, { state := 1 })] } }
def ivd : Inval := { (sget ({} : Inval) (iv []).mtu.inv 4) with running := false, doneAt := (iv []).now }
def atx : State := let s := put task (ctxIx 5) 5 (zeros 8 ++ natLe (2^31 + 9) 4 ++ [7] ++ zeros 19); { s with mtu := { s.mtu with ctl := [{ page with tgt := .host 1 0x77000, ats := some {} }, page] } }
def gt : GTag := { cmd := 2, id := some 40, since := 7, acid := 5, page := { size := 4096 } }
def gx (t : GTag) (n : Nat) : State := { task with gpes := [(3, { tags := [(6, t)], cmds := [(2, { req := 0, tile := 3, xtag := 1 })] })], mtu := { task.mtu with inv := [(4, { running := true, acid := 5, waits := [.gpe 3 6] })] }, gtc := { count := n } }
def sc6 : Scan := { raw := zeros 64, req := 0, tile := 3, xtag := 1, num := 8 }
def ht : HTag := { scan := 8, id := some 40, since := 7, acid := 5, page := { size := 4096 } }
def hx : State := { task with hses := [(2, { tags := [(6, ht)], queue := [sc6] })], mtu := { task.mtu with inv := [(4, { running := true, acid := 5, waits := [.hse 2 6] })] }, gtc := { count := 50007 } }
def bt : Batch := { held := some (7, 5, { size := 4096 }) }
def ix (w : XferRef) : State := { task with mtu := { task.mtu with inv := [(4, { running := true, acid := 5, waits := [w] })] }, gtc := { count := 50007 }, epm := { task.epm with rings := [(1, { batch := some bt })] }, ssu := { task.ssu with rings := [(1, { batch := some bt })] } }
def fr : FaultRec := { va := 0x1000, acid := 5, type := 1 }
def fb (q : FaultQ) : State := fqueue q
def q1 : FaultQ := { batch := [fr], tail := 15, batchAt := 7 }
def fb3 : State := put (fb q1) 0x4032 1 (natLe 5 4)
def fb3p := (fb3.setFq 1 { q1 with batch := [], flying := [[]] }).postWrites .mtu 0 (.host 1 (0x50000 + 32 * 15)) (fr.bytes true)
def fb2 : State := put (fb q1) 0x4032 1 (natLe 0 4)
def gsx : State := { node7 with shelves := { node7.shelves with hbmUp := 255 } }
def sw : State := let s := put live 0x4000 3 (zeros 8 ++ [20, 0, 0, 0] ++ natLe 3 4); { s with gtc := { count := 3000000 } }

theorem test_meets_HoldersAndFlushes_1 : ∃ (s : State) (u : State) (v : State) (x : State) (y : State) (p : Fin 2) (hpa : BitVec 64) (a : Nat) (line :
    Nat) (n : Nat) (k : Nat) (w : HdmWait) (b : Bytes) (bad : Bool) (o : Option Nat), a = u.hdmDpa p hpa.toNat ∧ line = a / 64 ∧ w =
    { port := p, num := n, req := .rdA hpa } ∧ s.wakeUp.fresh = (n, u) ∧ u.linkUp p = true ∧ u.inDecoder p hpa.toNat = true ∧ u.moveHolds p hpa.toNat
    = false ∧ u.ownerOk (u.winAcid p) a = true ∧ u.hdmBusy w line = false ∧ u.prepare line true .inv (some p.val) = (v, true) ∧ v.hdmData w line = (x,
    some (b, bad)) ∧ x.snfEntry line none = (y, some k, o) :=
  ⟨hrd, hrd.wakeUp.fresh.2, hrd.wakeUp.fresh.2, hrx.1, (hrx.1.snfEntry 64 none).1, (0 : Fin 2), (0x1000001008 : BitVec 64), _, _, hn, snfSet 64 * 16,
    _, ([] : Bytes), false, none, rfl, rfl, rfl, by decide +kernel⟩

theorem test_meets_HoldersAndFlushes_2 : ∃ (s : State) (u : State) (v : State) (x : State) (p : Fin 2) (hpa : BitVec 64) (a : Nat) (line : Nat) (n :
    Nat) (w : HdmWait), a = u.hdmDpa p hpa.toNat ∧ line = a / 64 ∧ w = { port := p, num := n, req := .rdA hpa } ∧ s.wakeUp.fresh = (n, u) ∧ u.linkUp p
    = true ∧ u.inDecoder p hpa.toNat = true ∧ u.moveHolds p hpa.toNat = false ∧ u.ownerOk (u.winAcid p) a = true ∧ u.hdmBusy w line = false ∧
    u.prepare line true .inv (some p.val) = (v, true) ∧ v.hdmData w line = (x, none) :=
  ⟨hdm, hdm.wakeUp.fresh.2, hdm.wakeUp.fresh.2, (hdm.wakeUp.fresh.2.hdmData hw 64).1, (0 : Fin 2), (0x1000001008 : BitVec 64), _, _, hn, _, rfl, rfl,
    rfl, by decide +kernel⟩

theorem test_meets_HoldersAndFlushes_3 : ∃ (s : State) (u : State) (p : Fin 2) (hpa : BitVec 64) (data : Bytes) (a : Nat) (line : Nat) (n : Nat) (k :
    Nat) (e : SnfEnt), a = u.hdmDpa p hpa.toNat ∧ line = a / 64 ∧ s.wakeUp.fresh = (n, u) ∧ u.linkUp p = true ∧ u.inDecoder p hpa.toNat = true ∧
    u.moveHolds p hpa.toNat = false ∧ u.ownerOk (u.winAcid p) a = true ∧ u.hdmBusy { port := p, num := n, req := .wb hpa data false } line = false ∧
    sfind (u.slice (Target.dev a).slice).victims line = none ∧ u.snfFind line = some (k, e) ∧ e.e = true ∧ e.holders = [p.val] :=
  ⟨hwb, hwb.wakeUp.fresh.2, (0 : Fin 2), (0x1000001000 : BitVec 64), ramp 64, _, _, hwb.wakeUp.fresh.1, snfSet 64 * 16,
    ({ line := 64, e := true, p0 := true } : SnfEnt), rfl, rfl, by decide +kernel⟩

theorem test_meets_HoldersAndFlushes_4 : ∃ (s : State) (u : State) (p : Fin 2) (hpa : BitVec 64) (a : Nat) (n : Nat), a = u.hdmDpa p hpa.toNat ∧
    s.wakeUp.fresh = (n, u) ∧ u.linkUp p = true ∧ u.inDecoder p hpa.toNat = true ∧ u.moveHolds p hpa.toNat = false ∧ u.ownerOk (u.winAcid p) a = false
    :=
  ⟨hown, hown.wakeUp.fresh.2, (0 : Fin 2), (0x1000001008 : BitVec 64), _, hown.wakeUp.fresh.1, rfl, by decide +kernel⟩

theorem test_meets_HoldersAndFlushes_5 : ∃ (s : State) (p : Fin 2) (line : Nat) (b : BackInv) (r : BiRsp) (d : Bytes), sfind s.coh.bis (biKey p line)
    = some b ∧ b.kind ≠ .cur ∧ r.data = some d ∧ r.keepShared = false :=
  ⟨hbi, (0 : Fin 2), (64 : Nat), ((sfind (hbi).coh.bis (biKey (0 : Fin 2) (64 : Nat))).get (by decide +kernel)), ({ data := some (ramp 64) } : BiRsp),
    ramp 64, by decide +kernel⟩

theorem test_meets_HoldersAndFlushes_6 : ∃ (s : State) (p : Fin 2) (line : Nat) (b : BackInv), sfind s.coh.bis (biKey p line) = some b ∧ 1000000 *
    b.limit ≤ since s.now b.sent :=
  ⟨hbi, (0 : Fin 2), (64 : Nat), ((sfind (hbi).coh.bis (biKey (0 : Fin 2) (64 : Nat))).get (by decide +kernel)), by decide +kernel⟩

theorem test_meets_HoldersAndFlushes_7 : ∃ (s : State) (p : Fin 2) (line : Nat) (b : BackInv), sfind s.coh.bis (biKey p line) = some b ∧ since s.now
    b.sent < 1000000 * b.limit :=
  ⟨({ hbi with gtc := { count := 1000004 } } : State), (0 : Fin 2), (64 : Nat), ((sfind ({ hbi with gtc := { count := 1000004 } } : State).coh.bis
    (biKey (0 : Fin 2) (64 : Nat))).get (by decide +kernel)), by decide +kernel⟩

theorem test_meets_HoldersAndFlushes_8 : ∃ s i q r, puttable s i q r .dcaEnable = true :=
  ⟨(asks dca (dmsg 2 0x3200 0x0 [0])), 2, (reqO (dmsg 2 0x3200 0x0 [0])), row 0x3200 0x0, by decide +kernel⟩

theorem test_meets_HoldersAndFlushes_9 : ∃ (s : State) (u : State), u = s.flushOn s.flushes ∧ s.coh.flushing = true ∧ s.pcs.blk = 0 :=
  ⟨hfl, _, rfl, by decide +kernel⟩

theorem test_meets_HoldersAndFlushes_10 : ∃ s i q r, State.serves s i q (.exec .dcaInvalidate) ∧ (s.taken i).execPasses q r :=
  ⟨(asks node7 (dmsg 8 0x3200 0x1 [])), 2, (reqO (dmsg 8 0x3200 0x1 [])), row 0x3200 0x1, by decide +kernel⟩

theorem test_meets_HoldersAndFlushes_11 : ∃ (s : State) (i : Fin 16), s.coh.invLeft.contains i.val = true :=
  ⟨hin [9], (9 : Fin 16), by decide +kernel⟩

theorem test_meets_WalksTranslate_1 : ∃ (s : State) (w : Walk) (rest : List Walk) (k : Nat), s.mtu.waiting = w :: rest ∧ sfree s.mtu.walkers 64 = some
    k :=
  ⟨ww, wlk, ([{}] : List Walk), (1 : Nat), by decide +kernel⟩

theorem test_meets_WalksTranslate_2 : ∃ (s : State) (u : State) (d : State) (k : Fin 64) (w : Walk) (b : Bytes) (poison : Bool) (e : MemErr), d =
    { u with mtu := { u.mtu with walkers := sdel u.mtu.walkers k } } ∧ sfind s.mtu.walkers k = some w ∧ s.faults.grave = false ∧
    s.faults.resets.contains (uMtu * 256) = false ∧ ((s.asJob (.walk k)).mtuCount 1).devRead .mtu w.acid (w.table + 8 * ((w.va >>> (12 + 9 * w.level))
    % 512)) 8 = (u, b, poison, e) ∧ u.coh.need = [] :=
  ⟨wk w2 (0x30000 + 1), (dr w2 (0x30000 + 1)).1, _, (7 : Fin 64), w2, natLe (0x30000 + 1) 8, false, (.none : MemErr), rfl, by decide +kernel⟩

theorem test_meets_WalksTranslate_3 : ∃ (s : State) (p : Fin 2) (acid : Fin 4096) (iova : BitVec 64) (target : BitVec 64) (r : Bool) (w : Bool) (x :
    Waiter) (y : Walk) (e : TlbEnt), s.mtu.atsWait = [y] ∧ y.acid = acid ∧ y.ats = some e ∧ e.tgt = .host p iova.toNat ∧ y.waiters = [x] :=
  ⟨wa, (1 : Fin 2), (5 : Fin 4096), (0x77000 : BitVec 64), (0x99000 : BitVec 64), true, true, ({ who := .tile 3 1 } : Waiter), wt, ((wt).ats).get
    (by decide +kernel), by decide +kernel⟩

theorem test_meets_InvalidationsDrain_1 : ∃ s i q r, State.serves s i q (.exec .invSlot) ∧ (s.taken i).execPasses q r :=
  ⟨(asks (invS {}) (dmsg 8 0x4001 0x0 (pack 32 [(0, 0x1000), (64, 4), (128, 5)]))), 2, (reqO (dmsg 8 0x4001 0x0 (pack 32 [(0, 0x1000), (64, 4), (128,
    5)]))), row 0x4001 0x0, by decide +kernel⟩

theorem test_meets_InvalidationsDrain_2 : ∃ (s : State) (z : State) (k : Fin 8) (v : Inval), z = s.settleStores ∧ v = sget {} z.mtu.inv k ∧ v.running
    = true ∧ v.waits = [] :=
  ⟨iv [], _, (4 : Fin 8), _, rfl, rfl, by decide +kernel⟩

theorem test_meets_InvalidationsDrain_3 : ∃ (s : State) (k : Fin 8), (sget {} s.settleStores.mtu.inv k).waits ≠ [] :=
  ⟨iv [.tile 3 4], (4 : Fin 8), by decide +kernel⟩

theorem test_meets_InvalidationsDrain_5 : ∃ (s : State) (g : Fin 48) (n : Nat) (id : Nat) (t : GTag) (c : GCmd), s.faults.grave = false ∧ sfind (s.gpe
    g).tags n = some t ∧ t.id = some id ∧ 50000 ≤ since s.now t.since ∧ s.heldByInv (.gpe g n) = true ∧ sfind (s.gpe g).cmds t.cmd = some c ∧ c.pd =
    none :=
  ⟨gx gt 50007, (3 : Fin 48), (6 : Nat), (40 : Nat), gt, ({ req := 0, tile := 3, xtag := 1 } : GCmd), by decide +kernel⟩

theorem test_meets_InvalidationsDrain_6 : ∃ (s : State) (c : Fin 12) (n : Nat) (id : Nat) (t : HTag) (q : Scan), s.faults.grave = false ∧ sfind (s.hse
    c).tags n = some t ∧ t.id = some id ∧ 50000 ≤ since s.now t.since ∧ s.heldByInv (.hse c n) = true ∧ (s.hse c).queue.head? = some q ∧ q.num =
    t.scan :=
  ⟨hx, (2 : Fin 12), (6 : Nat), (40 : Nat), ht, sc6, by decide +kernel⟩

theorem test_meets_InvalidationsDrain_7 : ∃ (s : State) (r : Fin 8) (b : Batch) (at_ : Nat) (acid : Nat) (g : Page), s.faults.grave = false ∧ (s.ring
    r).batch = some b ∧ b.held = some (at_, acid, g) ∧ b.status = none ∧ 50000 ≤ since s.now at_ ∧ s.heldByInv (.epm r) = true :=
  ⟨ix (.epm 1), (1 : Fin 8), bt, (7 : Nat), (5 : Nat), ({ size := 4096 } : Page), by decide +kernel⟩

theorem test_meets_InvalidationsDrain_8 : ∃ (s : State) (r : Fin 8) (b : Batch) (at_ : Nat) (acid : Nat) (g : Page), s.faults.grave = false ∧
    (s.evRing r).batch = some b ∧ b.held = some (at_, acid, g) ∧ b.status = none ∧ 50000 ≤ since s.now at_ ∧ s.heldByInv (.ssu r) = true :=
  ⟨ix (.ssu 1), (1 : Fin 8), bt, (7 : Nat), (5 : Nat), ({ size := 4096 } : Page), by decide +kernel⟩

theorem test_meets_InvalidationsDrain_9 : ∃ (s : State) (g : Fin 48) (n : Nat) (t : GTag), sfind (s.gpe g).tags n = some t ∧ since s.now t.since <
    50000 :=
  ⟨gx gt 50006, (3 : Fin 48), (6 : Nat), gt, by decide +kernel⟩

theorem test_meets_RecordsAndGranules_1 : ∃ (s : State) (v : State) (p : Fin 2) (q : FaultQ) (r : FaultRec) (ids : List Nat), q = s.fq p ∧ s.hostHeld
    p = false ∧ q.batch = [r] ∧ r.type ≠ ftHot ∧ 1000 * s.fqN p 12 4 ≤ since s.now q.batchAt ∧ s.fqOn p = true ∧ s.hostOk p = true ∧ (q.tail +
    s.fqSize p - s.fqHead p) % s.fqSize p ≠ s.fqSize p - 1 ∧ (s.setFq p { q with batch := [], flying := q.flying ++ [[]] }).postWrites .mtu 0 (.host p
    (s.fqN p 0 8 + 32 * q.tail)) (r.bytes (q.pass % 2 = 0)) = (v, ids) :=
  ⟨fb3, fb3p.1, (1 : Fin 2), _, fr, fb3p.2, rfl, by decide +kernel⟩

theorem test_meets_RecordsAndGranules_2 : ∃ (s : State) (p : Fin 2) (q : FaultQ) (r : FaultRec), q = s.fq p ∧ s.hostHeld p = false ∧ q.batch = [r] ∧
    r.type ≠ ftHot ∧ 1000 * s.fqN p 12 4 ≤ since s.now q.batchAt ∧ (s.fqOn p = false ∨ s.hostOk p = false ∨ (q.tail + s.fqSize p - s.fqHead p) %
    s.fqSize p = s.fqSize p - 1) :=
  ⟨fb2, (1 : Fin 2), _, fr, rfl, by decide +kernel⟩

theorem test_meets_RecordsAndGranules_3 : ∃ (s : State) (p : Fin 2), (s.fq p).batch.length < 32 ∧ since s.now (s.fq p).batchAt < 1000 * s.fqN p 12 4
    :=
  ⟨fb { q1 with batchAt := 99999 }, (1 : Fin 2), by decide +kernel⟩

theorem test_meets_RecordsAndGranules_4 : ∃ (s : State) (p : Fin 2) (ids : List Nat) (rest : List (List Nat)), (s.fq p).flying = ids :: rest :=
  ⟨fb { q1 with flying := [[6], []] }, (1 : Fin 2), ([6] : List Nat), ([[]] : List (List Nat)), by decide +kernel⟩

theorem test_meets_RecordsAndGranules_5 : ∃ s i q r, puttable s i q r .fqHead = true :=
  ⟨(asksH1 (fqueue { tail := 7, overflow := true }) (dmsg 2 0x4032 1 (natLe 5 4))), 1, (reqH1 (dmsg 2 0x4032 1 (natLe 5 4))), row 0x4032 1,
    by decide +kernel⟩

theorem test_meets_RecordsAndGranules_6 : ∃ s i q r, State.serves s i q (.exec .granuleSet) ∧ (s.taken i).execPasses q r :=
  ⟨(asks gsx (dmsg 8 0x4000 0x4 (pack 16 [(0, 3), (32, 2), (64, 9), (80, 1)]))), 2, (reqO (dmsg 8 0x4000 0x4 (pack 16 [(0, 3), (32, 2), (64, 9), (80,
    1)]))), row 0x4000 0x4, by decide +kernel⟩

theorem test_meets_RecordsAndGranules_7 : ∃ (s : State), s.cmdRunning 0x4000 4 = true :=
  ⟨({ gsx with ods := { gsx.ods with cmds := [(0x400004, { state := 1 })] } } : State), by decide +kernel⟩

theorem test_meets_RecordsAndGranules_8 : ∃ s i q r, State.serves s i q (.exec .granuleQuery) ∧ (s.taken i).execPasses q r :=
  ⟨(asks gsx (dmsg 8 0x4000 0x5 (natLe 0 4))), 2, (reqO (dmsg 8 0x4000 0x5 (natLe 0 4))), row 0x4000 0x5, by decide +kernel⟩

theorem test_meets_RecordsAndGranules_9 : ∃ (s : State), s.migEntries ≠ 0 ∧ 1000000 * s.rdN 0x4000 3 12 4 ≤ since s.now s.mtu.sweepAt :=
  ⟨sw, by decide +kernel⟩

theorem test_meets_RecordsAndGranules_10 : ∃ (s : State), (s.migEntries = 0 ∨ since s.now s.mtu.sweepAt < 1000000 * s.rdN 0x4000 3 12 4) :=
  ⟨live, by decide +kernel⟩

end Sys2Proof.Tests.Translation

namespace Sys2Proof.Tests.Hosts

def pf : State := let s := put (put (queued {}) 0x2001 0 [1]) 0x2801 130 (ramp 64); { s with
   ods := { s.ods with claims := [(0, { first := 0x1100, last := 0x11FF, owner := { path := .h0 } }), (1, { first := 0x1200, last := 0x12FF, owner := { path := .h1 } })] },
   hlc := sput s.hlc 0 { (s.port 0) with pend := [(3, true)], msi := 2 }, sqe := { s.sqe with queues := s.sqe.queues ++ [(130, { tail := 3 })] }, gtc := { count := 77 } }
def pfw : State := let t : Target := .host 0 0x1000; let s := pf.setSlice t.slice ((pf.slice t.slice).setWay (dcaSet t.key * 16 + 2) { key := t.key, st := .mh, data := ramp 64 }); { s with hlc := sput s.hlc 0 { (s.port 0) with lostDue := some [9] } }
def dn : State := { pf with hlc := [] }
def pl (l : Option (List Nat)) (g : List (Nat × Nat) := [(64, 5)]) : State := { pf with hlc := sput pf.hlc 0 { (pf.port 0) with lostDue := l, lostLog := g } }
def hm2 : State := { hdm with mtu := { hdm.mtu with owners := [(0, { mode := 1, acid := 5 }), (1, { mode := 1, acid := 5 })] }, shelves := { hdm.shelves with hbmUp := 0xFF } }
def mv (m : MoveSt) : State := { hm2 with hlc := sput hm2.hlc 0 { (hm2.port 0) with move := m }, ods := { hm2.ods with cmds := [(0x201001, { state := 1 })] } }
def m1 : MoveSt := { phase := 1, copy := false, old := 0, new := 0x200000 }
def m2 : MoveSt := { phase := 2, copy := true, old := 0, new := 0x200000, pointer := 64 }
def mf : State := fetched (.move 0) (linesAt 64 1) (mv m2)
def r2 := (mf.asJob (.move 0)).devRead (.host 0) 5 0x1000 64
def w2 := r2.1.devWrite (.host 0) 5 0x201000 r2.2.1 r2.2.2.1
def st : State := put hm2 0x2020 0 (natLe 0x100000 8 ++ [5, 0, 1, 0] ++ natLe 4096 4 ++ zeros 8)
def sw : State := fetched (.stage 0) (linesAt 16385 1) st
def sw1 := (sw.asJob (.stage 0)).writeAt (.host 0) 5 (.dev 0x100048) [1,2,3,4]
def sr1 := (sw.asJob (.stage 0)).readAt (.host 0) 5 (.dev 0x100048) 4
def sc : State := let t : Target := .dev 0x100040; st.setSlice t.slice ((st.slice t.slice).setWay (dcaSet t.key * 16 + 2) { key := t.key, st := .cl, data := ramp 64 })
def sqd : State := st.setPort 0 { st.port 0 with stage := some { off := 0x80, len := 4 } }
def ld : State := { live with hlc := sput live.hlc 1 { link := 0 }, pcs := { live.pcs with straps := 1 <<< 39 } }

theorem test_meets_PortsResetAndLog_1 : ∃ (s : State) (p : Fin 2), s.linkUp p = true :=
  ⟨pf, (0 : Fin 2), by decide +kernel⟩

theorem test_meets_PortsResetAndLog_2 : ∃ (s : State) (p : Fin 2) (f : Nat), (s.port p).flrAt = some f :=
  ⟨nx (.flr 0) pf, (0 : Fin 2), (77 : Nat), by decide +kernel⟩

theorem test_meets_PortsResetAndLog_3 : ∃ (s : State) (p : Fin 2) (cause : LinkResetCause), (s.port p).link ≠ 0 ∧ (cause = .perst → (s.port p).perst =
    false) :=
  ⟨pf, (0 : Fin 2), (.linkDown : LinkResetCause), by decide +kernel⟩

theorem test_meets_PortsResetAndLog_4 : ∃ (s : State) (p : Fin 2), (s.port p).perst = false :=
  ⟨pf, (1 : Fin 2), by decide +kernel⟩

theorem test_meets_PortsResetAndLog_6 : ∃ (s : State) (p : Fin 2) (cause : LinkResetCause), (s.port p).link = 0 ∧ cause ≠ .perst :=
  ⟨dn, (0 : Fin 2), (.hotReset : LinkResetCause), by decide +kernel⟩

theorem test_meets_PortsResetAndLog_7 : ∃ (s : State) (p : Fin 2), s.linkUp p = false :=
  ⟨dn, (0 : Fin 2), by decide +kernel⟩

theorem test_meets_PortsResetAndLog_5 : ∃ (s : State) (p : Fin 2), (s.port p).perst = true :=
  ⟨dn, (1 : Fin 2), by decide +kernel⟩

theorem test_meets_PortsResetAndLog_8 : ∃ (s : State) (p : Fin 2), s.linkUp p = true ∧ (s.fq p).batch = [] :=
  ⟨pf, (0 : Fin 2), by decide +kernel⟩

theorem test_meets_PortsResetAndLog_9 : ∃ (s : State) (p : Fin 2) (l : List Nat), (s.port p).lostDue = some l :=
  ⟨pl (some [9, 3, 4, 3, 10, 5, 77]), (0 : Fin 2), ([9, 3, 4, 3, 10, 5, 77] : List Nat), by decide +kernel⟩

theorem test_meets_PortsResetAndLog_10 : ∃ (s : State) (p : Fin 2), (s.port p).lostDue = none :=
  ⟨pf, (0 : Fin 2), by decide +kernel⟩

theorem test_meets_WindowsHoldBytes_1 : ∃ (s : State) (p : Fin 2) (base : BitVec 64) (size : Nat) (ways : Nat), s.linkUp p = true :=
  ⟨hdm, (0 : Fin 2), (0x2000000000 : BitVec 64), (0x200000 : Nat), (1 : Nat), by decide +kernel⟩

theorem test_meets_WindowsHoldBytes_2 : ∃ s i q r, State.serves s i q (.exec .hdmMove) ∧ (s.taken i).execPasses q r :=
  ⟨(asks hm2 (dmsg 8 0x2010 0x1 (pack 16 [(0, 0x200000), (64, 1)]))), 2, (reqO (dmsg 8 0x2010 0x1 (pack 16 [(0, 0x200000), (64, 1)]))), row 0x2010
    0x1, by decide +kernel⟩

theorem test_meets_WindowsHoldBytes_3 : ∃ (s : State) (u : State) (p : Fin 2) (m : MoveSt), m = (s.port p).move ∧ u = s.recall p ∧ m.phase = 1 ∧
    m.copy = false ∧ (s.port p).held = [] ∧ u.recallsOut p = false ∧ u.toRecall p = [] ∧ u.coh.held.any (fun w => w.port = p) = false :=
  ⟨mv m1, _, (0 : Fin 2), _, rfl, rfl, by decide +kernel⟩

theorem test_meets_WindowsHoldBytes_4 : ∃ (s : State) (u : State) (p : Fin 2) (m : MoveSt), m = (s.port p).move ∧ u = s.recall p ∧ m.phase = 1 ∧
    m.copy = true ∧ (s.port p).held = [] ∧ u.recallsOut p = false ∧ u.toRecall p = [] ∧ u.coh.held.any (fun w => w.port = p) = false :=
  ⟨mv { m1 with copy := true }, _, (0 : Fin 2), _, rfl, rfl, by decide +kernel⟩

theorem test_meets_WindowsHoldBytes_5 : ∃ (s : State) (u : State) (v : State) (p : Fin 2) (m : MoveSt) (b : Bytes) (q : Bool) (e : MemErr) (e' :
    MemErr), m = (s.port p).move ∧ m.phase = 2 ∧ s.faults.grave = false ∧ (s.port p).held = [] ∧ (s.asJob (.move p)).devRead (.host p) (s.winAcid p)
    (m.old + m.pointer * 64) 64 = (u, b, q, e) ∧ u.devWrite (.host p) (s.winAcid p) (m.new + m.pointer * 64) b q = (v, e') ∧ v.coh.need = [] ∧ v.port
    p = s.port p :=
  ⟨mf, r2.1, w2.1, (0 : Fin 2), _, r2.2.1, r2.2.2.1, (.none : MemErr), (.none : MemErr), rfl, by decide +kernel⟩

theorem test_meets_WindowsHoldBytes_7 : ∃ (s : State) (u : State) (p : Fin 2) (off : BitVec 32) (data : Bytes) (e : MemErr), s.linkUp p = true ∧
    s.stageOn p = true ∧ s.faults.grave = false ∧ (∀ c, (s.port p).stage = some c → c =
    { write := true, off := off.toNat, len := data.length, data := data }) ∧ (s.asJob (.stage p)).writeAt (.host p) (s.stageN p 8 2 % 4096) (.dev
    (s.stageN p 0 8 + off.toNat)) data = (u, e) ∧ u.coh.need = [] :=
  ⟨sw, sw1.1, (0 : Fin 2), (0x48 : BitVec 32), ([1,2,3,4] : Bytes), (.none : MemErr), by decide +kernel⟩

theorem test_meets_WindowsHoldBytes_8 : ∃ (s : State) (u : State) (p : Fin 2) (off : BitVec 32) (n : Nat) (b : Bytes) (q : Bool) (e : MemErr),
    s.linkUp p = true ∧ s.stageOn p = true ∧ (∀ c, (s.port p).stage = some c → c = { off := off.toNat, len := n }) ∧ (s.asJob (.stage p)).readAt
    (.host p) (s.stageN p 8 2 % 4096) (.dev (s.stageN p 0 8 + off.toNat)) n = (u, b, q, e) ∧ u.coh.need = [] :=
  ⟨sw, sr1.1, (0 : Fin 2), (0x48 : BitVec 32), (4 : Nat), sr1.2.1, false, (.none : MemErr), by decide +kernel⟩

theorem test_meets_WindowsHoldBytes_9 : ∃ (s : State) (p : Fin 2) (off : BitVec 32) (data : Bytes) (a : Nat) (k : Nat) (x : Way), a = s.stageN p 0 8 +
    off.toNat ∧ x = (s.slice (Target.dev a).slice).way k ∧ s.linkUp p = true ∧ s.stageOn p = true ∧ s.faults.grave = false ∧ s.coh.need = [] ∧ (s.port
    p).stage = none ∧ data ≠ [] ∧ a % 64 + data.length ≤ 64 ∧ s.ownerOk (s.stageN p 8 2 % 4096) a = true ∧ s.lineFree (a / 64) ∧ s.lineBusy (a / 64) =
    false ∧ sfind (s.slice (Target.dev a).slice).victims (a / 64) = none ∧ (s.slice (Target.dev a).slice).lookup (a / 64) = some k ∧ x.data.length =
    64 ∧ s.coh.eng.any (fun e => e.job = .stage p) = false :=
  ⟨sc, (0 : Fin 2), (0x48 : BitVec 32), ([1,2,3,4] : Bytes), _, dcaSet (Target.dev 0x100040).key * 16 + 2, _, rfl, rfl, by decide +kernel⟩

theorem test_meets_WindowsHoldBytes_10 : ∃ (s : State) (p : Fin 2) (off : BitVec 32) (data : Bytes), s.linkUp p = true ∧ s.stageOn p = false :=
  ⟨hm2, (0 : Fin 2), (0x48 : BitVec 32), ([1,2,3,4] : Bytes), by decide +kernel⟩

theorem test_meets_WindowsHoldBytes_11 : ∃ (s : State) (p : Fin 2) (off : BitVec 32) (n : Nat), s.linkUp p = true ∧ s.stageOn p = false :=
  ⟨hm2, (0 : Fin 2), (0x48 : BitVec 32), (4 : Nat), by decide +kernel⟩

theorem test_meets_WindowsHoldBytes_12 : ∃ (s : State) (p : Fin 2) (off : BitVec 32) (data : Bytes) (n : Nat) (c : StageReq), s.linkUp p = true ∧
    s.stageOn p = true ∧ s.faults.grave = false ∧ (s.port p).stage = some c :=
  ⟨sqd, (0 : Fin 2), (0x48 : BitVec 32), ([1,2,3,4] : Bytes), (4 : Nat), ((((sqd).port (0 : Fin 2)).stage).get (by decide +kernel)),
    by decide +kernel⟩

theorem test_meets_LinksTrainAndAnswer_1 : ∃ (s : State) (p : Fin 2) (rate : Fin 5) (width : Nat) (flit : Fin 3) (c : HostCfg), s.linkUp p = false ∧
    s.pcs.phase ≠ 0 ∧ s.pcs.blk ≠ 3 ∧ s.portFitted p = true ∧ linkModeOk rate width flit = true :=
  ⟨ld, (1 : Fin 2), (4 : Fin 5), (8 : Nat), (2 : Fin 3), ({ bme := true, msix := true } : HostCfg), by decide +kernel⟩

theorem test_meets_LinksTrainAndAnswer_2 : ∃ (s : State) (p : Fin 2) (rate : Fin 5) (width : Nat) (flit : Fin 3) (c : HostCfg), s.linkUp p = false ∧
    (s.pcs.phase = 0 ∨ s.portFitted p = false ∨ linkModeOk rate width flit = false) :=
  ⟨ld, (1 : Fin 2), (4 : Fin 5), (7 : Nat), (2 : Fin 3), ({ bme := true } : HostCfg), by decide +kernel⟩

theorem test_meets_LinksTrainAndAnswer_3 : ∃ (s : State) (p : Fin 2) (rate : Fin 5) (width : Nat) (flit : Fin 3) (c : HostCfg), s.linkUp p = true ∧
    (s.port p).flrAt = none :=
  ⟨live, (1 : Fin 2), (4 : Fin 5), (8 : Nat), (2 : Fin 3), ({ bme := true, cache := true } : HostCfg), by decide +kernel⟩

theorem test_meets_LinksTrainAndAnswer_4 : ∃ (s : State) (p : Fin 2) (n : Nat), s.linkUp p = true :=
  ⟨live, (1 : Fin 2), (7 : Nat), by decide +kernel⟩

theorem test_meets_LinksTrainAndAnswer_5 : ∃ (s : State) (p : Fin 2) (l : Fin 3), s.linkUp p = true :=
  ⟨live, (1 : Fin 2), (0 : Fin 3), by decide +kernel⟩

theorem test_meets_LinksTrainAndAnswer_6 : ∃ (s : State) (p : Fin 2) (e : Bool), s.linkUp p = true :=
  ⟨live, (1 : Fin 2), true, by decide +kernel⟩

theorem test_meets_LinksTrainAndAnswer_7 : ∃ (s : State) (p : Fin 2) (e : Bool), s.linkUp p = true :=
  ⟨live, (1 : Fin 2), true, by decide +kernel⟩

theorem test_meets_LinksTrainAndAnswer_8 : ∃ (s : State) (p : Fin 2) (v : Fin 256), s.linkUp p = true ∧ sget false (s.port p).pend v = true ∧ (s.port
    p).bme = true ∧ (s.port p).msix = true :=
  ⟨pf, (0 : Fin 2), (3 : Fin 256), by decide +kernel⟩

theorem test_meets_LinksTrainAndAnswer_9 : ∃ (s : State) (p : Fin 2) (v : Fin 256), s.linkUp p = true ∧ sget false (s.port p).pend v = false :=
  ⟨pf, (0 : Fin 2), (4 : Fin 256), by decide +kernel⟩

theorem test_meets_LinksTrainAndAnswer_10 : ∃ (s : State) (p : Fin 2) (b : Bytes), s.linkUp p = true :=
  ⟨pf, (0 : Fin 2), ([1,2,3] : Bytes), by decide +kernel⟩

theorem test_meets_LinksTrainAndAnswer_11 : ∃ (s : State) (p : Fin 2) (v : Fin 256) (q : DoeReq), s.linkUp p = false :=
  ⟨dn, (0 : Fin 2), (4 : Fin 256), (.cdat : DoeReq), by decide +kernel⟩

end Sys2Proof.Tests.Hosts

namespace Sys2Proof.Tests.Fabric

def up : FabPort := { state := 3, nbrNode := 5, nbrPort := 3, txSeq := 40, txAck := 37, rxSeq := 20, rxSince := 3, replays := 16, ackAt := 7, replay := [{ seq := 38, flits := 1 }, { seq := 40, flits := 2 }], owed := [(1, 600), (3, 2)] }
def fu : State := fabric up
def re : State := fabric { up with state := 4, retrainAt := 9 }
def tr : State := put (fabric { up with state := 2, pwren := true }) 0x8300 0 (1 :: zeros 15)
def rc : State := put fu 0x8300 0 (1 :: zeros 3 ++ natLe 3 4 ++ zeros 8)
def fl : Flit := { seq := 21, ack := 39, msgs := [fmsg 0 44] }
def nk : Flit := { kind := 2, ack := 38 }
def g : State := atGfr { msg := fmsg 0 9, src := some 2 }
def g7 : State := atGfr { msg := { fmsg 6 9 with payload := zeros 70 }, src := some 2 }
def held : State := let s := g; s.setFport 1 { (s.fport 1) with holdTill := some 7 }
def nowh : State := atGfr { msg := fmsg 0 10, src := some 2 }
def loc (op : BitVec 4) (m : FabMsg := fmsg op 7) : State := atGfr { msg := m, src := some 2, win := (fabric {}).fabWindow (m.addr.toNat / 2 ^ 36) }
def rs (t : Nat) : State := let s := loc 6 { fmsg 6 7 with payload := ramp 8 }; { s with fab := { s.fab with tags := [(t, .mem 77 .read)] } }
def rn : State := let s := loc 0xA; { s with fab := { s.fab with tags := [(33, .mem 77 .read)] } }
def fq (q : Nat) (h : Option Nat := some 9) (r : List Sent := [{ seq := 38, flits := 1, msg := fmsg 0 5 }]) : State := fabric { up with state := 5, query := q, queryAt := 7, holdTill := h, replay := r, reply := 37 }
def bf (l : Nat) : State := { fu with fab := { fu.fab with heard := (List.range l).map (fun n => (1000 + n, 199999999999)) } }
def tm (role : Nat) (x : FabPort) : State := put (put (fabric x) 0x8300 0 ([BitVec.ofNat 8 (1 + 4 * role)] ++ zeros 7 ++ [0xDC, 5, 0x90, 1] ++ zeros 4)) 0x9800 1 (natLe 0 4 ++ natLe 62500 4 ++ natLe 1000 4 ++ zeros 4)
def exx : State := tm 1 { up with t1 := 199999999000, t2 := 199999990000, t3 := 199999991000, exch := true }
def exs (g : Nat) : State := { exx with gtc := { exx.gtc with state := g } }
def gm : State := let s := put (fabric up) 0x9800 1 (natLe 3 4 ++ natLe 62500 4 ++ natLe 1000 4 ++ zeros 4); { s with gtc := { count := 199999999000 } }

theorem test_meets_PortsChangeState_1 : ∃ (s : State) (p : Fin 6), (s.fport p).state = fpUp ∧ (16 ≤ (s.fport p).replays ∨ ((s.fport p).inFlight ≠ 0 ∧
    10000 ≤ since s.now (s.fport p).ackAt)) :=
  ⟨fu, (2 : Fin 6), by decide +kernel⟩

theorem test_meets_PortsChangeState_2 : ∃ (s : State) (p : Fin 6), (s.fport p).state = fpRetrain ∧ s.retrainLimit ≤ since s.now (s.fport p).retrainAt
    :=
  ⟨re, (2 : Fin 6), by decide +kernel⟩

theorem test_meets_PortsChangeState_3 : ∃ (s : State) (p : Fin 6), (s.fport p).state = fpRetrain ∧ since s.now (s.fport p).retrainAt < s.retrainLimit
    :=
  ⟨fabric { up with state := 4, retrainAt := 199999999999 }, (2 : Fin 6), by decide +kernel⟩

theorem test_meets_PortsChangeState_4 : ∃ (s : State) (p : Fin 6) (n : Fin 6) (node : BitVec 16) (delay : BitVec 16), (s.fport p).state = fpRetrain :=
  ⟨re, (2 : Fin 6), (4 : Fin 6), (5 : BitVec 16), (100 : BitVec 16), by decide +kernel⟩

theorem test_meets_PortsChangeState_5 : ∃ (s : State) (p : Fin 6) (n : Fin 6) (node : BitVec 16) (delay : BitVec 16), ((s.fport p).state = fpTraining
    ∨ (s.fport p).state = fpDown) ∧ s.fenabled p = true ∧ (s.fport p).pwren = true ∧ (s.fport p).holdTill = none :=
  ⟨tr, (2 : Fin 6), (4 : Fin 6), (5 : BitVec 16), (100 : BitVec 16), by decide +kernel⟩

theorem test_meets_PortsChangeState_6 : ∃ (s : State) (p : Fin 6) (l : Fin 8), ((s.fport p).state = fpUp ∨ (s.fport p).state = fpRetrain) :=
  ⟨fu, (2 : Fin 6), (6 : Fin 8), by decide +kernel⟩

theorem test_meets_PortsChangeState_7 : ∃ (s : State) (p : Fin 6), (s.fport p).state = fpUp ∧ (s.fport p).spare = none ∧ 1000000000 * s.fcfg p 4 4 ≤
    since s.now (s.fport p).recalAt :=
  ⟨rc, (2 : Fin 6), by decide +kernel⟩

theorem test_meets_PortsChangeState_8 : ∃ s i q r, State.serves s i q (.exec .laneSpare) ∧ (s.taken i).execPasses q r :=
  ⟨(asks (fabric up) (dmsg 8 0x8300 0x7 [3])), 2, (reqO (dmsg 8 0x8300 0x7 [3])), row 0x8300 0x7, by decide +kernel⟩

theorem test_meets_PortsChangeState_9 : ∃ (s : State) (p : Fin 6), ((s.fport p).state = fpUp ∨ (s.fport p).state = fpRetrain) :=
  ⟨fu, (2 : Fin 6), by decide +kernel⟩

theorem test_meets_PortsChangeState_10 : ∃ s i q r, State.serves s i q (.exec .portReset) ∧ (s.taken i).execPasses q r :=
  ⟨(asks (fabric up) (dmsg 8 0x8300 0x3 [])), 2, (reqO (dmsg 8 0x8300 0x3 [])), row 0x8300 0x3, by decide +kernel⟩

theorem test_meets_PortsChangeState_11 : ∃ (s : State) (p : Fin 6), s.pcs.cold = false :=
  ⟨put fu 0x8300 4 [0x20, 0, 0, 0], (2 : Fin 6), by decide +kernel⟩

theorem test_meets_PortsChangeState_12 : ∃ (s : State) (p : Fin 6), s.pcs.cold = false ∧ (s.fport p).present = true ∧ (s.fport p).state = fpUp :=
  ⟨fabric { up with present := true }, (2 : Fin 6), by decide +kernel⟩

theorem test_meets_PortsChangeState_13 : ∃ (s : State) (p : Fin 6) (v : Bool), (s.fport p).present = v :=
  ⟨fabric { up with present := true }, (2 : Fin 6), _, rfl⟩

theorem test_meets_PortsChangeState_14 : ∃ s i q r, puttable s i q r .hpCtl = true :=
  ⟨(asks (fabric up) (dmsg 2 0x8300 0x4 [0x01, 0, 0, 0])), 2, (reqO (dmsg 2 0x8300 0x4 [0x01, 0, 0, 0])), row 0x8300 0x4, by decide +kernel⟩

theorem test_meets_PortsChangeState_15 : ∃ (s : State) (p : Fin 6), (s.fport p).state = fpPowering ∧ (s.fport p).pwren = true ∧ 100000000 ≤ since
    s.now (s.fport p).pwrenAt :=
  ⟨fabric { up with state := 1, pwren := true, pwrenAt := 5 }, (2 : Fin 6), by decide +kernel⟩

theorem test_meets_PortsChangeState_16 : ∃ (s : State) (p : Fin 6), since s.now (s.fport p).pwrenAt < 100000000 :=
  ⟨fabric { up with state := 1, pwren := true, pwrenAt := 200000000000 }, (2 : Fin 6), by decide +kernel⟩

theorem test_meets_FlitsAndMessages_1 : ∃ (s : State) (p : Fin 6) (f : Flit) (m : FabMsg) (x : FabPort), x = s.fport p ∧ x.state = fpUp ∧ f.ok = true
    ∧ f.kind.toNat = 0 ∧ f.seq.toNat = (x.rxSeq + 1) % 4096 ∧ f.corrected = [] ∧ f.msgs = [m] ∧ m.dst ≠ s.node ∧ m.op.toNat ≤ 0xA :=
  ⟨fu, (2 : Fin 6), fl, fmsg 0 44, _, rfl, by decide +kernel⟩

theorem test_meets_FlitsAndMessages_2 : ∃ (s : State) (p : Fin 6) (f : Flit), (s.fport p).state = fpUp ∧ f.ok = true ∧ f.kind.toNat = 0 ∧ f.seq.toNat
    ≠ ((s.fport p).rxSeq + 1) % 4096 :=
  ⟨fu, (2 : Fin 6), ({ fl with seq := 22 } : Flit), by decide +kernel⟩

theorem test_meets_FlitsAndMessages_3 : ∃ (s : State) (p : Fin 6) (f : Flit), (s.fport p).state = fpUp ∧ f.ok = false :=
  ⟨fu, (2 : Fin 6), ({ fl with ok := false } : Flit), by decide +kernel⟩

theorem test_meets_FlitsAndMessages_4 : ∃ (s : State) (p : Fin 6) (f : Flit), (s.fport p).state = fpUp ∧ f.ok = true ∧ f.kind.toNat = 2 ∧ f.corrected
    = [] :=
  ⟨fu, (2 : Fin 6), nk, by decide +kernel⟩

theorem test_meets_FlitsAndMessages_5 : ∃ (s : State) (p : Fin 6), (s.fport p).state = fpUp ∧ 32 ≤ (s.fport p).rxSince :=
  ⟨fabric { up with rxSince := 32 }, (2 : Fin 6), by decide +kernel⟩

theorem test_meets_FlitsAndMessages_6 : ∃ (s : State) (k : Nat) (p : Nat) (w : Waiting) (c : Bool) (m : FabMsg), m = s.leaving p c w.msg ∧ sfind
    s.fab.msgs k = some w ∧ w.msg.op ≠ 0xF ∧ w.msg.dst ≠ s.node ∧ (w.msg.isReq = true → s.staleSent w.msg.sent = false) ∧ s.hopOf w = .port p c ∧
    s.mayExit k w (p, c) = true ∧ s.nextVc p = w.msg.vc ∧ p < 6 :=
  ⟨g, (4 : Nat), (1 : Nat), ((sfind (g).fab.msgs (4 : Nat)).get (by decide +kernel)), false, _, rfl, by decide +kernel⟩

theorem test_meets_FlitsAndMessages_7 : ∃ (s : State) (k : Nat) (w : Waiting), sfind s.fab.msgs k = some w ∧ w.msg.op ≠ 0xF ∧ w.msg.dst ≠ s.node ∧
    (w.msg.isReq = true → s.staleSent w.msg.sent = false) :=
  ⟨held, (4 : Nat), ((sfind (held).fab.msgs (4 : Nat)).get (by decide +kernel)), by decide +kernel⟩

theorem test_meets_FlitsAndMessages_8 : ∃ (s : State) (k : Nat) (w : Waiting), sfind s.fab.msgs k = some w ∧ w.msg.isReq = true ∧ w.msg.dst ≠ s.node ∧
    s.staleSent w.msg.sent = true :=
  ⟨atGfr { msg := { fmsg 0 9 with sent := sentOf 199999950000 }, src := some 2 }, (4 : Nat), ((sfind (atGfr
    { msg := { fmsg 0 9 with sent := sentOf 199999950000 }, src := some 2 }).fab.msgs (4 : Nat)).get (by decide +kernel)), by decide +kernel⟩

theorem test_meets_FlitsAndMessages_9 : ∃ (s : State) (k : Nat) (w : Waiting), sfind s.fab.msgs k = some w ∧ w.msg.isReq = true ∧ 50000 ≤ since s.now
    w.since :=
  ⟨g, (4 : Nat), ((sfind (g).fab.msgs (4 : Nat)).get (by decide +kernel)), by decide +kernel⟩

theorem test_meets_FlitsAndMessages_10 : ∃ (s : State) (k : Nat) (w : Waiting), sfind s.fab.msgs k = some w ∧ since s.now w.since < 50000 :=
  ⟨atGfr { msg := fmsg 0 9, src := some 2, since := 199999999999 }, (4 : Nat), ((sfind (atGfr
    { msg := fmsg 0 9, src := some 2, since := 199999999999 }).fab.msgs (4 : Nat)).get (by decide +kernel)), by decide +kernel⟩

theorem test_meets_RemoteRequestsServe_1 : ∃ (s : State) (v : State) (k : Nat) (a : Nat) (m : FabMsg) (w : Waiting) (r : MemReq), a = wnBase w.win +
    m.addr.toNat % 2 ^ 36 ∧ v = (s.dropMsg k).wakeUp ∧ r =
    { id := v.nextId, src := .fabric m.src.toNat (2 * (a / 2 ^ v.resGranule)), acid := wnAcid w.win, op := .read, tgt := .dev a, len := m.len, issued := v.now, sent := some m.sent, gran := v.resGranule }
    ∧ sfind s.fab.msgs k = some w ∧ s.localMsg k = some m ∧ m.op = 0 ∧ s.faults.grave = false ∧ s.staleSent m.sent = false ∧ m.formed = true ∧
    m.admitted w.win = true ∧ a % 64 + m.len ≤ 64 :=
  ⟨loc 0, _, (4 : Nat), _, fmsg 0 7, ((sfind (loc 0).fab.msgs (4 : Nat)).get (by decide +kernel)), _, rfl, rfl, rfl, by decide +kernel⟩

theorem test_meets_RemoteRequestsServe_2 : ∃ (s : State) (k : Nat) (m : FabMsg) (w : Waiting), sfind s.fab.msgs k = some w ∧ s.localMsg k = some m ∧
    m.op.toNat < 5 ∧ s.faults.grave = false :=
  ⟨loc 0 { fmsg 0 7 with src := 10 }, (4 : Nat), ({ fmsg 0 7 with src := 10 } : FabMsg), ((sfind (loc 0 { fmsg 0 7 with src := 10 }).fab.msgs (4 :
    Nat)).get (by decide +kernel)), by decide +kernel⟩

theorem test_meets_RemoteRequestsServe_3 : ∃ (s : State) (k : Nat) (id : Nat) (m : FabMsg), s.localMsg k = some m ∧ m.op = 6 ∧ sfind s.fab.tags
    m.tag.toNat = some (.mem id .read) :=
  ⟨rs 33, (4 : Nat), (77 : Nat), ({ fmsg 6 7 with payload := ramp 8 } : FabMsg), by decide +kernel⟩

theorem test_meets_RemoteRequestsServe_4 : ∃ (s : State) (k : Nat) (id : Nat) (m : FabMsg), s.localMsg k = some m ∧ m.op = 0xA ∧ sfind s.fab.tags
    m.tag.toNat = some (.mem id .read) :=
  ⟨rn, (4 : Nat), (77 : Nat), fmsg 0xA 7, by decide +kernel⟩

theorem test_meets_RemoteRequestsServe_5 : ∃ (s : State) (k : Nat) (m : FabMsg), s.localMsg k = some m ∧ m.isRsp = true ∧ m.op ≠ 9 ∧ sfind s.fab.tags
    m.tag.toNat = none :=
  ⟨rs 34, (4 : Nat), ({ fmsg 6 7 with payload := ramp 8 } : FabMsg), by decide +kernel⟩

theorem test_meets_FailoverAndReach_2 : ∃ (s : State) (p : Fin 6) (seq : BitVec 12), (s.fport p).query = 1 :=
  ⟨fq 1, (2 : Fin 6), (0x123 : BitVec 12), by decide +kernel⟩

theorem test_meets_FailoverAndReach_3 : ∃ (s : State) (p : Fin 6), (s.fport p).query = 1 ∧ s.lqTimeout ≤ since s.now (s.fport p).queryAt ∧ (s.fport
    p).replay ≠ [] :=
  ⟨fq 1, (2 : Fin 6), by decide +kernel⟩

theorem test_meets_FailoverAndReach_4 : ∃ (s : State) (p : Fin 6) (h : Nat), (s.fport p).holdTill = some h ∧ h ≤ s.now ∧ (s.fport p).query = 0 :=
  ⟨fq 0, (2 : Fin 6), (9 : Nat), by decide +kernel⟩

theorem test_meets_FailoverAndReach_5 : ∃ (s : State) (p : Fin 6) (h : Nat) (r : Sent), (s.fport p).holdTill = some h ∧ h ≤ s.now ∧ (s.fport p).query
    = 2 ∧ (s.fport p).replay = [r] ∧ r.msg.cls ≠ 5 ∧ r.seq < 4096 ∧ (s.fport p).reply < 4096 ∧ r.seq ≠ (s.fport p).reply ∧ (4096 + r.seq - (s.fport
    p).reply) % 4096 ≤ 2048 :=
  ⟨({ fq 2 with fab := { (fq 2).fab with msgs := [(3, { msg := fmsg 0 9 }), (5, { msg := fmsg 0 9 })] } } : State), (2 : Fin 6), (9 : Nat),
    ({ seq := 38, flits := 1, msg := fmsg 0 5 } : Sent), by decide +kernel⟩

theorem test_meets_FailoverAndReach_6 : ∃ (s : State) (p : Fin 6) (h : Nat), (s.fport p).holdTill = some h ∧ s.now < h :=
  ⟨fq 2 (some 200000000001), (2 : Fin 6), (200000000001 : Nat), by decide +kernel⟩

theorem test_meets_FailoverAndReach_7 : ∃ (s : State) (p : Fin 6) (src : BitVec 16) (b : Bytes), (s.fport p).state = fpUp ∧ src ≠ s.node :=
  ⟨fu, (2 : Fin 6), (99 : BitVec 16), ([1,2] : Bytes), by decide +kernel⟩

theorem test_meets_FailoverAndReach_8 : ∃ (s : State) (p : Fin 6) (src : BitVec 16) (b : Bytes) (k : BitVec 8), (s.fport p).state = fpUp ∧ k ≠ 0x10 ∧
    k ≠ 0x11 :=
  ⟨fu, (2 : Fin 6), (99 : BitVec 16), ([1,2] : Bytes), (0x12 : BitVec 8), by decide +kernel⟩

theorem test_meets_FailoverAndReach_9 : ∃ (s : State), 1000000000 ≤ since s.now s.fab.annAt :=
  ⟨fu, by decide +kernel⟩

theorem test_meets_FailoverAndReach_10 : ∃ (s : State), since s.now s.fab.annAt < 1000000000 :=
  ⟨({ fu with fab := { fu.fab with annAt := 199999999999 } } : State), by decide +kernel⟩

theorem test_meets_FailoverAndReach_11 : ∃ (s : State) (n : BitVec 16) (h : Nat), sfind s.fab.heard n.toNat = some h ∧ 3000000000 < since s.now h :=
  ⟨({ (bf 260) with fab := { (bf 260).fab with heard := (1000, 5) :: (bf 260).fab.heard.tail } } : State), (1000 : BitVec 16), ((sfind
    ({ (bf 260) with fab := { (bf 260).fab with heard := (1000, 5) :: (bf 260).fab.heard.tail } } : State).fab.heard (1000 : BitVec 16).toNat).get
    (by decide +kernel)), by decide +kernel⟩

theorem test_meets_FailoverAndReach_12 : ∃ (s : State) (n : BitVec 16) (h : Nat), sfind s.fab.heard n.toNat = some h ∧ since s.now h ≤ 3000000000 :=
  ⟨bf 260, (1000 : BitVec 16), ((sfind (bf 260).fab.heard (1000 : BitVec 16).toNat).get (by decide +kernel)), by decide +kernel⟩

theorem test_meets_TimeIsExchanged_1 : ∃ (s : State) (p : Fin 6) (x : FabPort) (t1 : Nat), x = s.fport p ∧ t1 = s.now + s.txFixed p ∧ s.timeRole p = 2
    ∧ x.state = fpUp ∧ s.syncInterval ≤ since s.now x.t1 ∧ s.timeRoom p 0 t1 = true :=
  ⟨tm 2 up, (2 : Fin 6), _, _, rfl, rfl, by decide +kernel⟩

theorem test_meets_TimeIsExchanged_2 : ∃ (s : State) (p : Fin 6) (x : FabPort) (t1 : BitVec 64) (t2 : BitVec 64) (t3 : Nat), x = s.fport p ∧ t3 =
    s.now + s.txFixed p ∧ s.timeRole p = 1 ∧ x.state = fpUp ∧ s.timeRoom p 1 t3 = true :=
  ⟨tm 1 up, (2 : Fin 6), _, (199999999000 : BitVec 64), (199999999900 : BitVec 64), _, rfl, rfl, by decide +kernel⟩

theorem test_meets_TimeIsExchanged_3 : ∃ (s : State) (p : Fin 6) (x : FabPort) (t4 : BitVec 64) (at_ : Nat), x = s.fport p ∧ at_ = t4.toNat -
    s.rxFixed p ∧ s.timeRole p = 2 ∧ x.state = fpUp ∧ s.timeRoom p 2 at_ = true :=
  ⟨tm 2 up, (2 : Fin 6), _, (199999999000 : BitVec 64), _, rfl, rfl, by decide +kernel⟩

theorem test_meets_TimeIsExchanged_4 : ∃ (s : State) (p : Fin 6) (t4 : BitVec 64) (hops : Nat) (gm : BitVec 16) (x : FabPort) (off : Int), x = s.fport
    p ∧ off = timeOffset x.t1 x.t2 x.t3 t4.toNat ∧ s.timeRole p = 1 ∧ x.state = fpUp ∧ x.exch = true ∧ s.isGm = false :=
  ⟨exx, (2 : Fin 6), (200000000100 : BitVec 64), (3 : Nat), (44 : BitVec 16), _, _, rfl, rfl, by decide +kernel⟩

theorem test_meets_TimeIsExchanged_5 : ∃ (s : State), s.isGm = false ∧ s.gtc.state ≠ gtcFree ∧ s.gtc.state ≠ gtcHoldover ∧ 4 * s.syncInterval ≤ since
    s.now s.gtc.lastAt :=
  ⟨exs 1, by decide +kernel⟩

theorem test_meets_TimeIsExchanged_6 : ∃ (s : State) (m : Nat), m = 1000000000 * ((500000000 + s.now) / 1000000000) ∧ s.isGm = true ∧ s.gmPps = true ∧
    s.now < m ∧ m < 2 ^ 64 :=
  ⟨gm, _, rfl, by decide +kernel⟩

theorem test_meets_TimeIsExchanged_7 : ∃ (s : State), decide (s.now % 1000000000 < 1000) ≠ s.gtc.pulse :=
  ⟨({ gm with gtc := { count := 200000000999 } } : State), by decide +kernel⟩

theorem test_meets_TimeIsExchanged_8 : ∃ (s : State), decide (s.now % 1000000000 < 1000) = s.gtc.pulse :=
  ⟨gm, by decide +kernel⟩

end Sys2Proof.Tests.Fabric

namespace Sys2Proof.Tests.Power

def cold : State := nx .d3c live
def grave : State := { live with faults := { live.faults with grave := true } }
def p2 (k : Nat) : State := { live with pcs := { live.pcs with point := k, fPoint := k, vfLimit := 2 } }
def busyv : State := { live with pcs := { live.pcs with vfWait := true, vfReq := 1, raising := true, vfAt := 7 } }
def hot : State := { (p2 2) with pcs := { (p2 2).pcs with thermal := 2, temps := [(3, 800)] } }
def late : State := { busyv with gtc := { count := 500007 } }
def rt : State := { live with pcs := { live.pcs with point := 2, fPoint := 2, retune := some 1, clkReq := [.mesh, .arith] } }
def adm (m : Nat) : State := let s := put (queued {}) 0x7801 2 (pack 64 [(320, 1), (332, 3), (338, 0), (344, 5), (356, 3), (368, 100), (400, 8), (416, m), (448, 0x8000)]); { s with pcs := { s.pcs with testDue := some 2, point := 2, fPoint := 2 } }

theorem test_meets_PointsFollowLimits_2 : ∃ (s : State) (i : Fin 17) (v : BitVec 16), 840 ≤ v.toInt ∧ s.pcs.thermal = 0 :=
  ⟨live, (3 : Fin 17), (840 : BitVec 16), by decide +kernel⟩

theorem test_meets_PointsFollowLimits_3 : ∃ (s : State) (i : Fin 17) (v : BitVec 16), (s.sense i v).hotter 95 = false ∧ s.pcs.thermal ≠ 0 :=
  ⟨hot, (3 : Fin 17), (700 : BitVec 16), by decide +kernel⟩

theorem test_meets_PointsFollowLimits_5 : ∃ s i q r, puttable s i q r .capPoint = true :=
  ⟨(asks live (dmsg 2 0x9001 0x0 [1])), 2, (reqO (dmsg 2 0x9001 0x0 [1])), row 0x9001 0x0, by decide +kernel⟩

theorem test_meets_PointsFollowLimits_6 : ∃ (s : State), s.pcs.vfWait = true :=
  ⟨busyv, by decide +kernel⟩

theorem test_meets_PointsFollowLimits_7 : ∃ (s : State), s.pcs.vfWait = true ∧ 500000 ≤ since s.now s.pcs.vfAt :=
  ⟨late, by decide +kernel⟩

theorem test_meets_PointsFollowLimits_9 : ∃ (s : State) (n : Nat), s.pcs.clkReq.contains .arith = true ∧ s.pcs.halted = false ∧ s.pcs.retune = some n
    :=
  ⟨rt, (1 : Nat), by decide +kernel⟩

theorem test_meets_PointsFollowLimits_11 : ∃ (s : State), s.pcs.testDue = none :=
  ⟨live, by decide +kernel⟩

end Sys2Proof.Tests.Power

namespace Sys2Proof.Tests.PowerB

def busyv : State := { live with pcs := { live.pcs with vfWait := true, vfReq := 1, raising := true, vfAt := 7 }, gtc := { count := 8 } }
def p2 (k : Nat) : State := { live with pcs := { live.pcs with point := k, fPoint := k, vfLimit := 2 } }
def adm (m : Nat) : State := let s := put (queued {}) 0x7801 2 (pack 64 [(320, 1), (332, 3), (338, 0), (344, 5), (356, 3), (368, 100), (400, 8), (416, m), (448, 0x8000)]); { s with pcs := { s.pcs with testDue := some 2, point := 2, fPoint := 2 } }
def idl (n : Nat) : State := let s := put (put (put (put live 0x9000 4 (natLe 10 4 ++ [BitVec.ofNat 8 n, 0, 0, 0])) 0x9000 3 (natLe 9000 4)) 0x9000 1 (natLe 9000 4)) 0x9000 2 (natLe 9000 4); { s with gtc := { count := 1000000 } }
def sh : State := { (idl 15) with pcs := { (idl 7).pcs with cabLevel := (List.range 12).map (fun k => (k, 2)) } }
def sh7 : State := { (idl 7) with pcs := { (idl 7).pcs with cabLevel := (List.range 12).map (fun k => (k, 2)) } }
def sh4 : State := { sh with pcs := { sh.pcs with level := 3 }, hlc := sh.hlc.map (fun h => (h.1, { h.2 with l1 := 2 })) }
def en (n r : Nat) : State := { (idl 3) with pcs := { (idl 3).pcs with entering := [(4, n)], railReq := [(4, r)] } }
def rq (l r : Nat) : State := { (idl 3) with pcs := { (idl 3).pcs with cabLevel := [(4, l)], railReq := [(4, r)] } }
def tmo (w r : Nat) : State := { (put (idl 3) 0xA003 0 [0,0,0,15,15]) with pcs := { (idl 3).pcs with railReq := [(w, r)], railAt := [(w, 900000)] } }
def ph (n : Nat) (s : State := queued {}) : State := { s with pcs := { s.pcs with phase := n, cold := n = 0 } }
def bk (n : Nat) (s : State := cached (queued {}) 9) : State := { s with pcs := { s.pcs with blk := n } }
def bkv : State := let s := bk 1; s.setSlice 9 { s.slice 9 with victims := [(64, { tgt := .dev 0x1000, st := .ml, data := ramp 64 })] }
def ur (l : List Nat) : State := { (queued {}) with faults := { (queued {}).faults with resets := l }, tiles := { (queued {}).tiles with tile := [(9, { resetting := true })] } }
def pm : State := let s := { (task) with gpes := [(3, { cmds := [(2, {})] })] }; { s with hlc := [(0, { (s.port 0) with dstate := 3 }), (1, { (s.port 1) with pmeOff := true })], tiles := { s.tiles with tile := [(0, { active := some 0, ctxs := [(0, ctx0)] })] } }
def qz (l : Bool) : State := let s := { nx (.pmeTurnOff 0) pm with sqe := {} }; if l then s else { s with hlc := [] }
def nf : State := nx (.thermalWarn 3 800) live

theorem test_meets_PointsFollowLimits_8 : ∃ (s : State), s.pcs.vfWait = true ∧ since s.now s.pcs.vfAt < 500000 :=
  ⟨busyv, by decide +kernel⟩

theorem test_meets_PointsFollowLimits_10 : ∃ (s : State) (cause : Nat) (pd : Nat) (out : List Nat) (b : List (Nat × Bound)), s.pcs.testDue = some
    cause ∧ s.frozen = false ∧ s.pcs.retune = none ∧ s.admForced s.pcs.point [] s.dropOrder = (out, .pass b pd) ∧ cause ≠ 1 ∧ out ≠ [] :=
  ⟨adm 1000, (2 : Nat), (3 : Nat), ([2] : List Nat), ([] : List (Nat × Bound)), by decide +kernel⟩

theorem test_meets_LevelsEnterAndWake_1 : ∃ (s : State) (k : Fin 12), s.frozen = false ∧ sget 0 s.pcs.railReq k ≠ 3 ∧ (s.pcs.entryBlock = 0 →
    (s.levelOk 4 = true → s.pcs.level = 3 → s.meshIdle = false) ∧ (s.levelOk 3 = true → s.pcs.level = 0 → s.shelvesIdle = false)) ∧ sget 0
    s.pcs.entering k = 0 ∧ s.cabIdle k = true :=
  ⟨idl 3, (4 : Fin 12), by decide +kernel⟩

theorem test_meets_LevelsEnterAndWake_2 : ∃ (s : State) (k : Fin 12), s.frozen = false ∧ sget 0 s.pcs.railReq k ≠ 3 ∧ s.pcs.entryBlock = 0 :=
  ⟨sh7, (4 : Fin 12), by decide +kernel⟩

theorem test_meets_LevelsEnterAndWake_3 : ∃ (s : State) (k : Fin 12) (n : Nat), sget 0 s.pcs.entering k = n ∧ n ≠ 0 ∧ s.cabQuiet k = true ∧ (n = 1 ∨
    sget 0 s.pcs.railReq k = 2) :=
  ⟨en 1 0, (4 : Fin 12), _, rfl, by decide +kernel⟩

theorem test_meets_LevelsEnterAndWake_4 : ∃ (s : State) (k : Fin 12), sget 0 s.pcs.entering k = 0 ∧ s.pcs.entryBlock ≠ 0 ∧ s.meshQuiet = true ∧
    s.shelvesQuiet = true :=
  ⟨({ sh7 with pcs := { sh7.pcs with entryBlock := 3 } } : State), (4 : Fin 12), by decide +kernel⟩

theorem test_meets_LevelsEnterAndWake_5 : ∃ (s : State), s.pcs.level ≠ 0 :=
  ⟨sh4, by decide +kernel⟩

theorem test_meets_LevelsEnterAndWake_6 : ∃ (s : State) (w : WakeSource), (∀ c, w ≠ .cabinet c) :=
  ⟨sh4, (.doorbell : WakeSource), by decide +kernel⟩

theorem test_meets_LevelsEnterAndWake_7 : ∃ (s : State) (k : Fin 12), sget 0 s.pcs.cabLevel k = 2 ∧ sget 0 s.pcs.railReq k = 2 :=
  ⟨rq 2 2, (4 : Fin 12), by decide +kernel⟩

theorem test_meets_LevelsEnterAndWake_8 : ∃ (s : State) (k : Fin 12), sget 0 s.pcs.cabLevel k = 1 ∧ sget 0 s.pcs.railReq k = 0 :=
  ⟨rq 1 0, (4 : Fin 12), by decide +kernel⟩

theorem test_meets_LevelsEnterAndWake_10 : ∃ (s : State) (w : Fin 16) (c : Nat), c = (if w.val < 12 then 3 else 4) ∧ (sget 0 s.pcs.railReq w = 1 ∨
    sget 0 s.pcs.railReq w = 3) ∧ 100000 ≤ since s.now (sget 0 s.pcs.railAt w) ∧ (s.reactionOf uPcs c).testBit 3 = true ∧ s.faults.resets.contains
    (uPcs * 256) = false :=
  ⟨tmo 4 1, (4 : Fin 16), _, rfl, by decide +kernel⟩

theorem test_meets_StartUpRuns_2 : ∃ (s : State), s.pcs.phase = 0 ∧ s.pcs.halted = false :=
  ⟨ph 0, by decide +kernel⟩

theorem test_meets_StartUpRuns_3 : ∃ (s : State) (c : Clock), s.pcs.phase = 1 ∧ s.pcs.halted = false ∧ s.pcs.clkReq = [c] ∧ c ≠ .arith :=
  ⟨({ (ph 1) with pcs := { (ph 1).pcs with clkReq := [.mesh] } } : State), (.mesh : Clock), by decide +kernel⟩

theorem test_meets_StartUpRuns_4 : ∃ (s : State) (c : Clock), s.pcs.clkReq.contains c = true ∧ s.pcs.halted = false ∧ 100000 ≤ since s.now s.pcs.clkAt
    :=
  ⟨({ (ph 1) with pcs := { (ph 1).pcs with clkReq := [.mesh, .hmc 3] }, gtc := { count := 100000 } } : State), (.hmc 3 : Clock), by decide +kernel⟩

theorem test_meets_StartUpRuns_5 : ∃ (s : State), s.pcs.phase = 2 ∧ s.pcs.halted = false :=
  ⟨ph 2, by decide +kernel⟩

theorem test_meets_StartUpRuns_6 : ∃ (s : State), s.pcs.phase = 3 ∧ s.pcs.halted = false :=
  ⟨ph 3, by decide +kernel⟩

theorem test_meets_StartUpRuns_7 : ∃ (s : State), s.pcs.phase = 4 ∧ s.pcs.halted = false ∧ s.pcs.vfWait = false ∧ s.pcs.clkReq.contains .arith = false
    ∧ (∀ r ∈ s.pcs.railReq, r.2 ≠ 3) ∧ (∀ k, k < 12 → (s.cab k).out = false) :=
  ⟨ph 4, by decide +kernel⟩

theorem test_meets_StartUpRuns_8 : ∃ (s : State) (caps : List Nat) (r : Nat) (bad : List (Fin 20 × Nat)), s.pcs.phase = 5 ∧ s.pcs.halted = false :=
  ⟨({ (ph 5) with pcs := { (ph 5).pcs with straps := 1 <<< 46 } } : State), ([16,16,32,16,16,16,16,16,16,16,16,16,9] : List Nat), (2 : Nat), ([(0, 3),
    (9, 1)] : List (Fin 20 × Nat)), by decide +kernel⟩

theorem test_meets_StartUpRuns_9 : ∃ (s : State) (n : Fin 8) (caps : List Nat) (r : Nat) (bad : List (Fin 20 × Nat)), s.pcs.phase = 5 ∧ s.pcs.halted =
    false :=
  ⟨ph 5, (3 : Fin 8), ([] : List Nat), (2 : Nat), ([] : List (Fin 20 × Nat)), by decide +kernel⟩

theorem test_meets_StartUpRuns_10 : ∃ (s : State), s.pcs.phase = 6 ∧ s.pcs.halted = false :=
  ⟨ph 6, by decide +kernel⟩

theorem test_meets_BlockResetsAndCold_1 : ∃ s i q r, State.serves s i q (.exec .blkReset) ∧ (s.taken i).execPasses q r :=
  ⟨(asks (cached dca 9) (dmsg 8 0x9002 0x0 [])), 2, (reqO (dmsg 8 0x9002 0x0 [])), row 0x9002 0x0, by decide +kernel⟩

theorem test_meets_BlockResetsAndCold_2 : ∃ (s : State) (u : State), u = s.flushOn s.flushes ∧ s.pcs.blk = 1 ∧ (u.flushed u.flushes = false ∨
    u.storesHeld = true) :=
  ⟨bkv, _, rfl, by decide +kernel⟩

theorem test_meets_BlockResetsAndCold_3 : ∃ (s : State) (u : State), u = s.flushOn s.flushes ∧ s.pcs.blk = 1 ∧ u.flushed u.flushes = true ∧
    u.storesHeld = false :=
  ⟨bk 1, _, rfl, by decide +kernel⟩

theorem test_meets_BlockResetsAndCold_4 : ∃ (s : State), s.pcs.blk = 2 :=
  ⟨bk 2, by decide +kernel⟩

theorem test_meets_BlockResetsAndCold_5 : ∃ (s : State) (l : List (Fin 12)) (bad : List (Fin 20 × Nat)), s.pcs.blk = 3 :=
  ⟨bk 3, ([] : List (Fin 12)), ([(0, 3)] : List (Fin 20 × Nat)), by decide +kernel⟩

theorem test_meets_BlockResetsAndCold_6 : ∃ (s : State) (n : Fin 8) (l : List (Fin 12)) (bad : List (Fin 20 × Nat)), s.pcs.blk = 3 :=
  ⟨bk 3, (5 : Fin 8), ([] : List (Fin 12)), ([] : List (Fin 20 × Nat)), by decide +kernel⟩

theorem test_meets_BlockResetsAndCold_7 : ∃ s i q r, State.serves s i q (.exec .chipResetReq) ∧ (s.taken i).execPasses q r :=
  ⟨(asks dca (dmsg 8 0x9002 0x1 [])), 2, (reqO (dmsg 8 0x9002 0x1 [])), row 0x9002 0x1, by decide +kernel⟩

theorem test_meets_BlockResetsAndCold_8 : ∃ (s : State) (u : Fin 16) (n : Nat), s.faults.resets.contains (u.val * 256 + n) = true :=
  ⟨ur [2 * 256 + 9, 5], (2 : Fin 16), (9 : Nat), by decide +kernel⟩

theorem test_meets_BlockResetsAndCold_9 : ∃ (s : State) (u : Fin 16) (n : Nat), s.faults.resets.contains (u.val * 256 + n) = false :=
  ⟨ur [2 * 256 + 9, 13 * 256], (13 : Fin 16), (1 : Nat), by decide +kernel⟩

theorem test_meets_BlockResetsAndCold_10 : ∃ (s : State), s.pcs.aliveOn = true ∧ s.faults.grave = false ∧ s.pcs.cold = false :=
  ⟨live, by decide +kernel⟩

theorem test_meets_BlockResetsAndCold_11 : ∃ (s : State), s.faults.grave = true :=
  ⟨({ live with faults := { live.faults with grave := true } } : State), by decide +kernel⟩

theorem test_meets_BlockResetsAndCold_12 : ∃ (s : State) (p : Fin 2), s.linkUp p = true ∧ (s.port p).dstate = 3 ∧ s.pcs.quiesced = false ∧ (∀ q, q < 2
    → q ≠ p.val → s.linkUp q = false ∨ (s.port q).pmeOff = true) :=
  ⟨pm, (0 : Fin 2), by decide +kernel⟩

theorem test_meets_BlockResetsAndCold_13 : ∃ (s : State) (u : State) (mine : Target → Bool), mine = (fun a => [0, 1].any (fun p => s.linkUp p &&
    a.onHost p)) ∧ u = s.flushOn mine ∧ s.pcs.quiesced = true ∧ s.pcs.mainOffOk = false ∧ s.drained = true :=
  ⟨qz true, _, _, rfl, rfl, by decide +kernel⟩

theorem test_meets_BlockResetsAndCold_14 : ∃ (s : State), s.pcs.quiesced = true ∧ s.pcs.mainOffOk = false ∧ s.drained = true ∧ (∀ p, p < 2 → s.linkUp
    p = false) :=
  ⟨qz false, by decide +kernel⟩

theorem test_meets_BlockResetsAndCold_16 : ∃ (s : State), s.pcs.odsUp = true :=
  ⟨live, by decide +kernel⟩

theorem test_meets_BlockResetsAndCold_17 : ∃ (s : State) (n : Nat), s.pcs.odsUp = true ∧ 1 ≤ n ∧ n ≤ 17 :=
  ⟨live, (17 : Nat), by decide +kernel⟩

theorem test_meets_FaultsLatchAndClear_1 : ∃ (s : State) (t : State) (u : Nat) (i : Nat) (c : Nat) (h : Hit) (f : FaultInst) (r : FirstError), f =
    s.faultInst u i ∧ t = s.fire u i c h ∧ r =
    { valid := true, queue := h.queue, merged := 0, maxClass := sourceClass u c, cls := sourceClass u c, source := c, access := h.access, mNum := h.mNum, mUnit := h.mUnit, aspace := h.aspace, acid := h.acid, addr := h.addr, gtc := s.now }
    ∧ c < 64 ∧ i < 256 :=
  ⟨live, _, (0 : Nat), (0 : Nat), (0 : Nat), ({} : Hit), _, _, rfl, rfl, rfl, by decide +kernel⟩

theorem test_meets_FaultsLatchAndClear_2 : ∃ s i q r, State.serves s i q (.exec .faultClear) ∧ (s.taken i).execPasses q r :=
  ⟨(asks nf (dmsg 8 0xA005 0x0 (natLe 0 2 ++ natLe 1 8))), 2, (reqO (dmsg 8 0xA005 0x0 (natLe 0 2 ++ natLe 1 8))), row 0xA005 0x0, by decide +kernel⟩

end Sys2Proof.Tests.PowerB

namespace Sys2Proof.Tests

/-! ### Ill-formed commands are refused, one for each check of `Instr.wf`. -/

theorem test_wf_oPath : (Instr.oPathRequest 8 []).wf = false ∧ (Instr.oPathRequest 7 []).wf = true := by decide +kernel
theorem test_wf_fPath : (Instr.fPathRequest 9 (List.replicate 32768 0)).wf = false := by decide +kernel
theorem test_wf_mbxReqWrite : (Instr.mbxReqWrite 0 0xFF [0]).wf = false ∧ (Instr.mbxReqWrite 0 0x50F [0, 0]).wf = false ∧
    (Instr.mbxReqWrite 0 0x50F [0]).wf = true := by decide +kernel
theorem test_wf_doorbells : (Instr.sqTailDoorbell 0 0 0 0).wf = false ∧ (Instr.sqTailDoorbell 0 0 9 0).wf = false ∧
    (Instr.cqHeadDoorbell 0 0 0 0).wf = false ∧ (Instr.cqHeadDoorbell 0 0 9 0).wf = false ∧
    (Instr.sqTailDoorbell 0 0 8 0).wf = true := by decide +kernel
theorem test_wf_summaryRebuild : (Instr.summaryRebuild 0 65536).wf = false := by decide +kernel
theorem test_wf_hseLineArrive : (Instr.hseLineArrive 0 4096 .clean).wf = false := by decide +kernel
theorem test_wf_epochRefused : (Instr.epochRefusedReceive (List.replicate 32768 0)).wf = false := by decide +kernel
theorem test_wf_gpeLineArrive : (Instr.gpeLineArrive 0 2048 .clean).wf = false := by decide +kernel
theorem test_wf_pdSlotTimeout : (Instr.pdSlotTimeout 0 64).wf = false := by decide +kernel
theorem test_wf_xferComplete : (Instr.xferComplete 0 256).wf = false ∧ (Instr.xferComplete 0 255).wf = true := by decide +kernel
theorem test_wf_victimWriteback : (Instr.victimWritebackDone 0 (2 ^ 59)).wf = false := by decide +kernel
theorem test_wf_birsp : (Instr.birspReceive 0 (2 ^ 58) {}).wf = false ∧ (Instr.birspReceive 0 0 { data := some [0] }).wf = false ∧
    (Instr.biTimeout 0 (2 ^ 58)).wf = false := by decide +kernel
theorem test_wf_ats : (Instr.atsInvalidateRequest 0 none 0 4095).wf = false ∧
    (Instr.atsInvalidateRequest 0 none (2 ^ 64 - 1) 4096).wf = false := by decide +kernel
theorem test_wf_staging : (Instr.stagingApertureWrite 0 0 []).wf = false ∧
    (Instr.stagingApertureWrite 0 (2 ^ 32 - 1) [0, 0]).wf = false ∧ (Instr.stagingApertureRead 0 0 0).wf = false ∧
    (Instr.stagingApertureRead 0 (2 ^ 32 - 1) 2).wf = false := by decide +kernel
theorem test_wf_mgtBroadcast : (Instr.mgtBroadcastReceive 0 0 0 (List.replicate 32768 0)).wf = false := by decide +kernel
theorem test_wf_delayRsp : (Instr.delayRspReceive 0 0 256 0).wf = false := by decide +kernel
theorem test_wf_unitResetEnd : (Instr.unitResetEnd 2 256).wf = false := by decide +kernel
theorem test_wf_cancel : (Instr.matchingTransferCancel (.gpe 0 2048)).wf = false ∧
    (Instr.matchingTransferCancel (.hse 0 4096)).wf = false := by decide +kernel

theorem test_wf_link : (Instr.hostLinkUp 0 0 4 0 {}).wf = false ∧ (Instr.hostLinkUp 0 0 8 0 {}).wf = true := by decide +kernel
theorem test_wf_training : (Instr.shelfTrainingDone none [0] 1 []).wf = false ∧
    (Instr.shelfTrainingDone none (List.replicate 12 0) 3 []).wf = false ∧
    (Instr.shelfTrainingDone none (List.replicate 12 0) 4 [(0, 64)]).wf = false ∧ (Instr.blkShelfRetrainDone none [] [(0, 64)]).wf = false := by decide +kernel
theorem test_wf_flit : (Instr.flitReceive 0 { cra := 512 } .clean).wf = false ∧ (Instr.flitReceive 0 { crb := 512 } .clean).wf = false ∧
    (Instr.flitReceive 0 { msgs := [{ fmsg 0 7 with len := 8192 }] } .clean).wf = false := by decide +kernel
theorem test_wf_hdm : (Instr.hdmHostRequest 0 (.wr 0 [0])).wf = false ∧ (Instr.hdmHostRequest 0 (.wb 0 [] true)).wf = false := by
  decide +kernel

/-! ### The spec's own examples. -/

/-- The operands of an example: element bits of format `fa` beside element bits of format `fb`, with zeros up to a group of 32. -/
def pairs (fa fb : Nat) (l : List (Nat × Nat)) : List Machine.Num × List Machine.Num :=
  (l.map (fun p => decodeNum fa p.1) ++ List.replicate (32 - l.length) (.zero false),
   l.map (fun p => decodeNum fb p.2) ++ List.replicate (32 - l.length) (.zero false))

/-- The cancellation example after R80: 1.0 in fast mode, +0 in strict mode. -/
theorem test_example_cancellation :
    let p := pairs 1 1 [(0x4580, 0x4580), (0x3F80, 0x3F80), (0xC580, 0x4580)]
    mmaElem false 0 p.1 p.2 = 0x3F800000 ∧ mmaElem true 0 p.1 p.2 = 0 := by decide +kernel

/-- The mixed pair after R80: no sticky bit is kept. -/
theorem test_example_no_sticky :
    let p := pairs 3 1 [(0x38, 0x3F80), (0x08, 0x3680), (0x01, 0x1C00)]
    mmaElem false 0 p.1 p.2 = 0x3F800000 ∧ mmaElem true 0 p.1 p.2 = 0x3F800000 := by decide +kernel

/-- The subnormal example after R80. -/
theorem test_example_subnormal :
    let p := pairs 1 1 [(0x0008, 0x3FC0), (0x0001, 0x3740)]
    mmaElem false 0 p.1 p.2 = 0x000C0001 ∧ mmaElem true 0 p.1 p.2 = 0x000C0001 := by decide +kernel

/-- R80's special inputs: RCP(±0) = ±∞, SQRT(−0) = −0, RSQ of a negative value is NaN. -/
theorem test_example_specials : Unary.rcp.apply 0 true 0 = 0x7F800000 ∧ Unary.rcp.apply 0 false 0x80000000 = 0xFF800000 ∧
    Unary.sqrt.apply 0 true 0x80000000 = 0x80000000 ∧ decodeNum 0 (Unary.rsq.apply 0 true 0xBF800000) = .nan := by decide +kernel

/-- R316's example: the line at DPA 0x0012_3456_7840 lies in stack S5, and its home is slice 11. -/
theorem test_example_home : (Target.dev 0x001234567840).slice = 11 := by decide +kernel

/-- R290's example: that line's stack, stack offset and pseudo-channel. -/
theorem test_example_stack : stackOf 0x001234567840 = 5 ∧ stackOff 0x001234567840 = 0x02468ACF40 ∧ pcOf 0x02468ACF40 = 12 := by
  decide +kernel

/-- R292's example: DPA 0x0100_0000_1F40 lies in channel D7 at channel offset 0x240. -/
theorem test_example_channel : chanOf 0x010000001F40 = 7 ∧ chanOff 0x010000001F40 = 0x240 := by decide +kernel

/-- The conversion example after R85: 0.8, −0.07 and thirty zeros in FP32 become the MX32 E2M1 block 0x7C, 0x97, 0x00 .... -/
theorem test_example_block :
    ((CvtOpt.cvt { dst := 7, blk := 1 } ([0x3F4CCCCD, 0xBD8F5C29].map (decodeNum 0) ++ List.replicate 30 (.zero false))).1) =
      [0x7C, 0x97] ++ zeros 15 := by decide +kernel

/-- The DESCRIBE example after R502: the properties of SQ_CFG of queue 133. -/
theorem test_example_describe : (entAt 0x2801 0x85).map (fun r => live.describe r 0x2801 0x85) =
    some ([0x0A, 0x04, 0x11, 0x01, 0x20, 0, 0, 0, 0, 0xFF] ++ zeros 6) := by decide +kernel

/-- No word of the table spells a command, so nothing is placed (log 1). -/
theorem test_no_words : decodeTableWord 8 0 = none ∧ live.withFetchWord 8 0 = live := ⟨rfl, rfl⟩

/-! ### The hypotheses of the statements about every step. -/

theorem test_meets_StepKeepsInv : ∃ s : State, Inv s ∧ s.pending ≠ [] :=
  ⟨{ live with pending := [.aliveToggle] },
    ⟨by decide +kernel, by decide +kernel, by decide +kernel, by decide +kernel, by decide +kernel, by decide +kernel, by decide +kernel,
      by decide +kernel⟩, by decide +kernel⟩

theorem test_meets_EmptyQueueTicks : live.pending = [] := rfl

theorem test_meets_PowerKeepsRest : ∃ (c : Instr) (s t : State), ofPower c = true ∧ exec c s = .next t :=
  ⟨.aliveToggle, live, nx .aliveToggle live, rfl, rfl⟩

theorem test_meets_TilesKeepRest : ∃ (c : Instr) (s t : State), ofTiles c = true ∧ exec c s = .next t :=
  ⟨.addi 0, live, nx (.addi 0) live, rfl, rfl⟩

theorem test_meets_FabricKeepsRest : ∃ (c : Instr) (s t : State), ofFabric c = true ∧ exec c s = .next t :=
  ⟨.holdover, live, nx .holdover live, rfl, rfl⟩

theorem test_meets_MemoryKeepsRest : ∃ (c : Instr) (s t : State), ofMemory c = true ∧ exec c s = .next t :=
  ⟨.sliceAccess 0 .clean, live, nx (.sliceAccess 0 .clean) live, rfl, rfl⟩

theorem test_meets_EnginesKeepRest : ∃ (c : Instr) (s t : State), ofEngines c = true ∧ exec c s = .next t :=
  ⟨.drainComplete 0, live, nx (.drainComplete 0) live, rfl, rfl⟩

end Sys2Proof.Tests

end Witnesses
end

section
/-! Shards and homes (R102, R119): the bounds of `mix` and `reduce`, the rows of the dictionary at one index, and O54. -/
namespace Sys2Proof.Machine

/-! ### Hashes (R102) -/

/-- Both operands of the last exclusive or of `mix` have 64 bits. -/
theorem mix_lt (id seed : Nat) : mix id seed < 2 ^ 64 := by
  have folded : ∀ x, x < 2 ^ 64 → x ^^^ (x >>> 33) < 2 ^ 64 := fun x hx =>
    Nat.xor_lt_two_pow hx (Nat.lt_of_le_of_lt (Nat.shiftRight_le x 33) hx)
  exact folded _ (Nat.mod_lt _ (by decide))

/-- `reduce` takes the upper 64 bits of the full product. -/
theorem reduce_eq_div (h n : Nat) : reduce h n = h * n / 2 ^ 64 := Nat.shiftRight_eq_div_pow _ _

/-- A 64-bit hash is scaled into the range below `n`. -/
theorem reduce_lt {h n : Nat} (hh : h < 2 ^ 64) (hn : 0 < n) : reduce h n < n := by
  rw [reduce_eq_div]
  exact Nat.div_lt_of_lt_mul (Nat.mul_lt_mul_of_pos_right hh hn)

theorem reduce_mix_lt (id seed : Nat) {n : Nat} (hn : 0 < n) : reduce (mix id seed) n < n :=
  reduce_lt (mix_lt id seed) hn

/-! ### Shards (R119) -/

theorem shardOf_fst (s : State) (d : Bytes) (id : Nat) :
    (s.shardOf d id).1 = reduce (mix id (tdShardSeed d)) (tdShards d) := rfl

/-- The home is the U16 of the table's shard map at the shard. -/
theorem shardOf_snd (s : State) (d : Bytes) (id : Nat) :
    (s.shardOf d id).2 = le (s.rd 0x6200 (tdMap d)) (2 * (s.shardOf d id).1) 2 := rfl

/-- No entry beyond SHARD_M1 is a shard. -/
theorem shardOf_fst_lt (s : State) (d : Bytes) (id : Nat) : (s.shardOf d id).1 < tdShards d :=
  reduce_mix_lt id (tdShardSeed d) (Nat.succ_pos _)

/-! ### The rows at one index (R65) -/

/-- The half of `EntRow.holds` that speaks of the index. -/
def EntRow.holdsIndex (r : EntRow) (ix : Nat) : Bool :=
  decide (r.lo ≤ ix) && decide (ix ≤ r.hi) && decide ((ix - r.lo) % r.step = 0)

/-- The half of `EntRow.holds` that speaks of the subindex. -/
def EntRow.holdsSub (r : EntRow) (sub : Nat) : Bool := decide (r.s0 ≤ sub) && decide (sub ≤ r.s1)

theorem EntRow.holds_eq (r : EntRow) (ix sub : Nat) : r.holds ix sub = (r.holdsIndex ix && r.holdsSub sub) :=
  Bool.and_assoc _ _ _

theorem EntRow.holdsSub_iff (r : EntRow) (sub : Nat) : r.holdsSub sub = true ↔ r.s0 ≤ sub ∧ sub ≤ r.s1 := by
  simp only [EntRow.holdsSub, Bool.and_eq_true, decide_eq_true_eq]

/-- Every row of the dictionary at an index. -/
def rowsAt (ix : Nat) : List EntRow := entRows.filter (·.holdsIndex ix)

/-- Only the rows at the index are searched for the subindex: what a search finds is decided once for all subindices. -/
theorem entAt_eq_find?_rowsAt (ix sub : Nat) : entAt ix sub = (rowsAt ix).find? (·.holdsSub sub) := by
  simp only [entAt, rowsAt, EntRow.holds_eq, List.find?_filter, Bool.decide_and, Bool.decide_eq_true]

/-- The row of SHARD_MAP (Table 18.2). -/
def shardMapRow : EntRow := ⟨.shardMap, 0x6200, 0x6200, 1, 0, 0x3F, .blob, 512, .rw, .blk, 7, []⟩

theorem rowsAt_shardMap : rowsAt 0x6200 = [shardMapRow] := by decide +kernel

theorem entAt_shardMap {m : Nat} (hm : m < 64) : entAt 0x6200 m = some shardMapRow := by
  have held : shardMapRow.holdsSub m = true := (shardMapRow.holdsSub_iff m).mpr ⟨m.zero_le, Nat.le_of_lt_succ hm⟩
  rw [entAt_eq_find?_rowsAt, rowsAt_shardMap]
  exact List.find?_cons_of_pos held

end Sys2Proof.Machine

namespace Sys2Proof
open Machine

/-- Settles O54: a shard is a 64-bit hash scaled below SHARD_M1 + 1, and the dictionary has one row at the index of the shard maps. -/
theorem shardsNameHomes : Obligations.ShardsNameHomes := by
  refine ⟨fun s d id sh hsh => ?_, fun id seed n => reduce_eq_div _ n, fun m hm => ⟨shardMapRow, entAt_shardMap hm, rfl, rfl, rfl⟩⟩
  have shard : (s.shardOf d id).1 = sh := hsh ▸ shardOf_fst s d id
  constructor
  · exact Nat.le_of_lt_succ (shard ▸ shardOf_fst_lt s d id)
  · exact Prod.ext shard (shard ▸ shardOf_snd s d id)

end Sys2Proof
end

section
/-! Lines and homes (R316): the key, the home slice and the sets of a line on each shelf, and O28. -/
namespace Sys2Proof.Machine

/-! ### Line keys (R316) -/

theorem Target.key_dev (a : Nat) : (Target.dev a).key = a >>> 6 := (Nat.shiftRight_eq_div_pow a 6).symm

/-- The line of a 64-bit host address needs 58 bits, so the port's number stands alone above it. -/
theorem hostLine_lt {h : Nat} (hh : h < 2 ^ 64) : h >>> 6 < 2 ^ 58 := by
  rw [Nat.shiftRight_eq_div_pow]
  exact Nat.div_lt_of_lt_mul hh

theorem Target.key_host (p : Nat) {h : Nat} (hh : h < 2 ^ 64) : (Target.host p h).key = ((1 + p) <<< 58) ||| (h >>> 6) := by
  calc (Target.host p h).key = 2 ^ 58 * (1 + p) + h / 2 ^ 6 := rfl
    _ = ((1 + p) <<< 58) + (h >>> 6) := by rw [Nat.shiftLeft_eq, Nat.mul_comm, Nat.shiftRight_eq_div_pow]
    _ = ((1 + p) <<< 58) ||| (h >>> 6) := Nat.shiftLeft_add_eq_or_of_lt (hostLine_lt hh) _

/-- The key of a host line names its port. -/
theorem Target.key_host_shiftRight (p : Nat) {h : Nat} (hh : h < 2 ^ 64) : (Target.host p h).key >>> 58 = 1 + p := by
  have line : (h >>> 6) >>> 58 = 0 := Nat.shiftRight_eq_zero _ _ (hostLine_lt hh)
  rw [Target.key_host p hh, Nat.shiftRight_or_distrib, Nat.shiftLeft_shiftRight, line, Nat.or_zero]

/-- Lines of different ports have different keys, whatever their addresses. -/
theorem Target.key_host_ne {p q h k : Nat} (hpq : p ≠ q) (hh : h < 2 ^ 64) (hk : k < 2 ^ 64) :
    (Target.host p h).key ≠ (Target.host q k).key := by
  intro same
  have ports : 1 + p = 1 + q := by
    rw [← Target.key_host_shiftRight p hh, same, Target.key_host_shiftRight q hk]
  exact hpq (Nat.add_left_cancel ports)

/-! ### Home slices (R316) -/

/-- The exclusive or of the four-bit fields is the low four bits of the exclusive or of the shifted addresses. -/
theorem fold4_eq_mod (a : Nat) : fold4 a = ((a >>> 6) ^^^ (a >>> 10) ^^^ (a >>> 14) ^^^ (a >>> 18)) % 16 := by
  simp only [fold4, show (16 : Nat) = 2 ^ 4 from rfl, Nat.xor_mod_two_pow]

theorem fold4_lt (a : Nat) : fold4 a < 16 := by
  rw [fold4_eq_mod]
  exact Nat.mod_lt _ (by decide)

theorem stackOf_lt (a : Nat) : stackOf a < 8 := by
  have field : ∀ n, (a >>> n) % 8 < 2 ^ 3 := fun n => Nat.mod_lt _ (by decide)
  exact Nat.xor_lt_two_pow (Nat.xor_lt_two_pow (Nat.xor_lt_two_pow (field 8) (field 11)) (field 14)) (field 17)

/-- Bit `n` of an address as the model cuts it out. -/
theorem shiftRight_mod_two (a n : Nat) : (a >>> n) % 2 = (a.testBit n).toNat := by
  rw [Nat.toNat_testBit, Nat.shiftRight_eq_div_pow]

theorem Target.slice_shelf1 {a : Nat} (ha : inShelf2 a = false) :
    (Target.dev a).slice = 2 * stackOf a + ((a.testBit 6).toNat ^^^ (a.testBit 7).toNat) := by
  rw [← shiftRight_mod_two, ← shiftRight_mod_two]
  exact if_neg (by rw [ha]; decide)

theorem Target.slice_shelf2 {a : Nat} (ha : inShelf2 a = true) : (Target.dev a).slice = fold4 a := if_pos ha

theorem Target.slice_host (p h : Nat) : (Target.host p h).slice = fold4 h := rfl

/-- A shelf 1 line is at home in one of the two slices of its stack. -/
theorem Target.slice_shelf1_div {a : Nat} (ha : inShelf2 a = false) : (Target.dev a).slice / 2 = stackOf a := by
  have half : (a.testBit 6).toNat ^^^ (a.testBit 7).toNat < 2 ^ 1 := Nat.xor_lt_two_pow (Bool.toNat_lt _) (Bool.toNat_lt _)
  rw [Target.slice_shelf1 ha]
  omega

/-- A fabric address has no line on the shelves; the model gives it slice 0. -/
theorem Target.slice_lt (t : Target) : t.slice < 16 := by
  cases t with
  | dev a =>
    cases shelf : inShelf2 a with
    | false => exact Nat.lt_mul_of_div_lt (Target.slice_shelf1_div shelf ▸ stackOf_lt a) (by decide)
    | true => exact Target.slice_shelf2 shelf ▸ fold4_lt a
  | host p h => exact fold4_lt h
  | fab a => exact Nat.zero_lt_succ 15

/-! ### Sets (R316) -/

theorem dcaSet_lt (key : Nat) : dcaSet key < 8192 := reduce_mix_lt key 0 (by decide)

theorem snfSet_lt (line : Nat) : snfSet line < 4096 := reduce_mix_lt line 1 (by decide)

end Sys2Proof.Machine

namespace Sys2Proof
open Machine

/-- Settles O28: the shifted sums and exclusive ors of the model are the bit fields of R316, and a host line's key names its port. -/
theorem linesHaveHomes : Obligations.LinesHaveHomes := by
  refine ⟨Target.key_dev, fun a => Target.slice_shelf1, fun a shelf2 => ?shelf2, fun p h _ hh => ⟨Target.key_host p hh, ?host⟩,
    fun key => ⟨rfl, rfl, dcaSet_lt key, snfSet_lt key⟩, fun t _ => t.slice_lt, fun h k hh hk => Target.key_host_ne (by decide) hh hk⟩
  case shelf2 => rw [Target.slice_shelf2 shelf2, fold4_eq_mod]
  case host => rw [Target.slice_host, fold4_eq_mod]

end Sys2Proof
end
